-- ==== Sys2Proof/Word.lean ====
section
/-!
DEFINITION. The words of the machine and the sparse table that holds every collection keyed by a number:
memories, register files, per-lane flags. A table lists only what differs from its default, in rising order of key,
so that equal contents are equal data.
-/
namespace Sys2Proof

abbrev Byte := BitVec 8
abbrev Word32 := BitVec 32
abbrev Word64 := BitVec 64

/-- A sparse table: pairs of a key and a value, keys strictly rising, no value equal to the default. -/
abbrev Tab (α : Type) := List (Nat × α)

/-- What the table holds at `k`; `d` where it lists nothing. -/
def Tab.get {α : Type} (d : α) : Tab α → Nat → α
  | [], _ => d
  | (a, b) :: t, k => if a = k then b else Tab.get d t k

/-- Places a pair before the first larger key. -/
def Tab.insert {α : Type} (k : Nat) (v : α) : Tab α → Tab α
  | [] => [(k, v)]
  | (a, b) :: t => if k < a then (k, v) :: (a, b) :: t else (a, b) :: Tab.insert k v t

/-- Drops what stands at `k`. -/
def Tab.erase {α : Type} (k : Nat) : Tab α → Tab α
  | [] => []
  | (a, b) :: t => if a = k then Tab.erase k t else (a, b) :: Tab.erase k t

/-- Writes `v` at `k`; writing the default removes the entry. -/
def Tab.set {α : Type} [DecidableEq α] (d : α) (t : Tab α) (k : Nat) (v : α) : Tab α :=
  if v = d then Tab.erase k t else Tab.insert k v (Tab.erase k t)

/-- The canonical form: keys strictly rising and no value equal to the default. -/
def Tab.wf {α : Type} [DecidableEq α] (d : α) : Tab α → Bool
  | [] => true
  | (a, b) :: t => decide (b ≠ d) && t.all (fun p => decide (a < p.1)) && Tab.wf d t

/-- Writes `f l` at `key l` for every `l < n` whose bit of `m` is set, in rising order of `l`. -/
def Tab.setMasked {α : Type} [DecidableEq α] (d : α) (t : Tab α) (m : Word32) (key : Nat → Nat) (f : Nat → α) :
    Nat → Tab α
  | 0 => t
  | n + 1 =>
    let t' := Tab.setMasked d t m key f n
    if m.getLsbD n then Tab.set d t' (key n) (f n) else t'

/-- `n` bytes from `k` upwards, as one little-endian number (R2). -/
def Tab.readLE (t : Tab Byte) (k : Nat) : Nat → Nat
  | 0 => 0
  | n + 1 => (Tab.get 0 t k).toNat + 256 * Tab.readLE t (k + 1) n

/-- Writes the low `n` bytes of `x` from `k` upwards, little-endian (R2). -/
def Tab.writeLE (t : Tab Byte) (k : Nat) (x : Nat) : Nat → Tab Byte
  | 0 => t
  | n + 1 => Tab.writeLE (Tab.set 0 t k (BitVec.ofNat 8 x)) (k + 1) (x / 256) n

/-- The bytes from `k` upwards as a list. -/
def Tab.readBytes (t : Tab Byte) (k n : Nat) : List Byte :=
  (List.range n).map (fun j => Tab.get 0 t (k + j))

/-- Writes a list of bytes from `k` upwards. -/
def Tab.writeBytes (t : Tab Byte) (k : Nat) : List Byte → Tab Byte
  | [] => t
  | b :: bs => Tab.writeBytes (Tab.set 0 t k b) (k + 1) bs

/-- A list of bytes as one little-endian number (R2). -/
def bytesToNat : List Byte → Nat
  | [] => 0
  | b :: bs => b.toNat + 256 * bytesToNat bs

/-- The low `n` bytes of a number, little-endian (R2). -/
def natToBytes (n x : Nat) : List Byte :=
  (List.range n).map (fun j => BitVec.ofNat 8 (x / 256 ^ j))

/-- The number in bits [lo + n - 1 : lo] of `x`. -/
def bitsOf (x lo n : Nat) : Nat := x / 2 ^ lo % 2 ^ n

end Sys2Proof
end

