-- ==== Sys2Proof/Syntax/Types.lean ====
section
/-!
DEFINITION. The operand types of the instructions and the records that the events of the other agents carry.
Each enumeration lists the codes of R43, R45, R46, R61 and R62 in their order; a code that raises ILLEGAL has no constructor.
-/
namespace Sys2Proof

/-- Rounding mode, R43. `ef` is error feedback. -/
inductive Rnd where | rne | rz | rd | ru | rna | ef
  deriving DecidableEq, Repr

/-- W64 and UNS of R62. -/
inductive ITy where | i32 | n32 | i64 | n64
  deriving DecidableEq, Repr

/-- COND of R62. -/
inductive Cond where | eq | ne | lt | le | gt | ge | ord | uno
  deriving DecidableEq, Repr

/-- DIR of CVT, R62. -/
inductive CvtDir where | f32ToI32 | f32ToN32 | i32ToF32 | n32ToF32
  deriving DecidableEq, Repr

/-- Boolean operation of PSET, R62. -/
inductive Pop where | and | or | xor
  deriving DecidableEq, Repr

/-- SMODE of SHFL, R62. -/
inductive ShflMode where | idx | up | down | xor
  deriving DecidableEq, Repr

/-- VMODE of VOTE, R62. -/
inductive VoteMode where | any | all | eq | ballot
  deriving DecidableEq, Repr

/-- LOP of RED and SCAN, and BOP less one of the barriers, R62. -/
inductive Lop where | add | min | max | and | or | xor
  deriving DecidableEq, Repr

/-- LTYPE of R62. -/
inductive LTy where | i32 | n32 | f32
  deriving DecidableEq, Repr

/-- SFMT of R62. -/
inductive SlotFmt where | bf16 | f16 | e4m3 | e5m2 | f4b
  deriving DecidableEq, Repr

/-- AOP of R62. -/
inductive AOp where | add | min | max | and | or | xor | exch | cas
  deriving DecidableEq, Repr

/-- ATYPE of R62. -/
inductive ATy where | i32 | n32 | i64 | n64 | f32 | bf16x2 | f16x2
  deriving DecidableEq, Repr

/-- Format tag, R75. -/
inductive Tag where | int | f32 | f16x2 | bf16x2 | e4m3x4 | e5m2x4 | f4b
  deriving DecidableEq, Repr

/-- WIDTH of R45, in bytes 1, 2, 4, 8 and 16. -/
inductive Width where | b8 | b16 | b32 | b64 | b128
  deriving DecidableEq, Repr

/-- SCOPE of FENCE, R46. -/
inductive Scope where | frame | core | cluster | die | package | system
  deriving DecidableEq, Repr

/-- ORDER of FENCE, R46. -/
inductive Order where | acq | rel | ar | sc
  deriving DecidableEq, Repr

/-- Plane expansion of R44: 1, 2, 4 or 8 planes. -/
inductive Planes where | x1 | x2 | x4 | x8
  deriving DecidableEq, Repr

/-- The barrier of a BAR, BARA or BARW, R58: level and number. -/
inductive BarRef where
  | core (n : BitVec 4) | cluster (n : BitVec 3) | grid (n : BitVec 2)
  deriving DecidableEq, Repr

/-- A source field of R34 with the IMM value that a KIND 10 source reads. -/
inductive Src where
  | reg (n : BitVec 7) (map : Option (BitVec 3)) (neg abs : Bool)
  | latch (n : BitVec 7) (neg abs : Bool)
  | imm (v : Word32)
  | sreg (n : BitVec 7) (neg abs : Bool)
  deriving DecidableEq, Repr

/-- VER, the CTL hints, the guard and WBS of a word, R24 to R30. `v1` is VER = 1. -/
structure Ctl where
  v1 : Bool
  stall : BitVec 3
  yld : Bool
  chain : Bool
  gn : Bool
  gp : BitVec 3
  wbs : Bool
  deriving DecidableEq, Repr

/-- The targeted quads of a slot instruction, R62: all four, or one. -/
abbrev QuadSel := Option (BitVec 2)

def Width.bytes : Width → Nat
  | .b8 => 1 | .b16 => 2 | .b32 => 4 | .b64 => 8 | .b128 => 16

/-- Registers that an access of this width fills or reads, R45. -/
def Width.regs : Width → Nat
  | .b64 => 2 | .b128 => 4 | _ => 1

def Planes.count : Planes → Nat
  | .x1 => 1 | .x2 => 2 | .x4 => 4 | .x8 => 8

def ITy.w64 : ITy → Bool
  | .i64 | .n64 => true
  | _ => false

def ITy.uns : ITy → Bool
  | .n32 | .n64 => true
  | _ => false

/-- Access size of an atomic type, R204, R276. -/
def ATy.bytes : ATy → Nat
  | .i64 | .n64 => 8
  | _ => 4

def ATy.isFloat : ATy → Bool
  | .f32 | .bf16x2 | .f16x2 => true
  | _ => false

def AOp.isBitwise : AOp → Bool
  | .and | .or | .xor => true
  | _ => false

def Tag.code : Tag → Nat
  | .int => 0 | .f32 => 1 | .f16x2 => 2 | .bf16x2 => 3 | .e4m3x4 => 4 | .e5m2x4 => 5 | .f4b => 6

/-- Elements of a register of this tag, which is its plane count when mapped (R141). -/
def Tag.planes : Tag → Nat
  | .int => 1 | .f32 => 1 | .f16x2 => 2 | .bf16x2 => 2 | .e4m3x4 => 4 | .e5m2x4 => 4 | .f4b => 8

/-- A launch record, R292. -/
structure LaunchRec where
  code : Nat
  args : Nat
  carea : Nat
  beads : Nat
  x : Nat
  y : Nat
  z : Nat
  g : Nat
  order : Nat
  gang : Nat
  gmin : Nat
  gmax : Nat
  flags : Nat
  reserved : Nat
  argw : List Nat
  deriving DecidableEq, Repr

/-- A copy layout record, R258. The fields of the CTL word stand apart. -/
structure LayoutRec where
  ctl : Nat
  ext : List Nat
  pitch : List Nat
  org : List Int
  box : List Nat
  stamp : Nat
  deriving DecidableEq, Repr

/-- The header of a packet, R373. -/
structure PktHdr where
  /-- Not in the header: an uncorrectable error that a read of MEASURE or RECEIPT meets (R324, R416). -/
  err : Bool
  len : Nat
  waitBead : Bool
  putBead : Bool
  intr : Bool
  wbead : Nat
  pbead : Nat
  deriving DecidableEq, Repr

/-- A queue descriptor, R371. `fw` marks firmware's own queue, `device` a ring in device memory. -/
structure QueueDesc where
  ring : Nat
  device : Bool
  sizeLog2 : Nat
  pasid : Nat
  func : Nat
  ptop : Nat
  pchild : Nat
  ceiling : Nat
  vector : Nat
  measured : Bool
  fw : Bool
  root : Nat
  deriving DecidableEq, Repr

/-- A partition descriptor, R382. `clusters` is the 1,536-bit set of CLUSTERS. -/
structure PartDesc where
  clusters : Nat
  top : Nat
  child : Nat
  membw : Nat
  linkbw : Nat
  lend : Bool
  borrow : Bool
  slice : Nat
  reserved : Nat
  deriving DecidableEq, Repr

/-- The firmware bundle as the host downloads it (R367, R327, R414, R418, R272, R424). `signatureOk` is the boot ROM's verdict
over the signature; `pufOk` says whether the correction with the helper data succeeds. -/
structure Firmware where
  signatureOk : Bool
  version : Nat
  image : List Byte
  poolDenom : Nat
  helper : List Byte
  pufOk : Bool
  pkg : Nat
  fabric : List (Nat × List Nat)
  deriving DecidableEq, Repr

/-- A party of a core: a split of a frame, or the reckoner (R218). Cores are numbered 96 * die + core. -/
inductive Party where
  | frame (core f split : Nat)
  | reck (core : Nat)
  deriving DecidableEq, Repr

/-- A barrier as an event names it (R207). -/
inductive BarId where
  | core (core n : Nat) | cluster (grid gang n : Nat) | grid (grid n : Nat)
  deriving DecidableEq, Repr

/-- A function of the readiness page, R368. -/
inductive Func where
  | firmware | hostPort (n : Nat) | queueProc | stack (n : Nat) | die (n : Nat) | port (n : Nat)
  deriving DecidableEq, Repr

/-- A register or mailbox entry that an outside party writes and that has no row of its own (R4). -/
inductive RegRef where
  | serviceFlags (cluster part : Nat)
  | breakpoint (core n : Nat)
  | watchBase (core n : Nat)
  | watchCtl (core n : Nat)
  | frameStop (ctx : Nat)
  | traceRing (ctx base sizeLog2 func : Nat)
  | replayRing (ctx base sizeLog2 func : Nat)
  | traceReadIndex (ctx : Nat)
  | sampling (ctx : Nat)
  | ckptInterval (ctx : Nat)
  | recording (ctx : Nat)
  | ckptArea (ctx : Nat)
  | coalesce (func : Nat)
  | readiness (off : Nat)
  | notifyPage (queue off : Nat)
  | hostMem (pasid iova : Nat)
  | hostPage (pasid page : Nat)
  | peerMap (ctx pkg root : Nat)
  | firmwareEvent (core : Nat)
  /-- An entry of level `lvl` of a page table in the memory of package `pkg`, written by that package's firmware. -/
  | pageEntry (pkg pa lvl : Nat)
  deriving DecidableEq, Repr

/-- A request of class 0xB or of a bead packet (R273). -/
inductive SOp where
  | atom (op : AOp) (ty : ATy) (b : Nat)
  | cas (ty : ATy) (b c : Nat)
  | abset (idx : Nat)
  | abtst (idx : Nat)
  | bput (v : Word64)
  | btake
  | bpeek
  | binit (up : Bool) (v : Word64)
  /-- The wait of a WAITBEAD packet, or of a header: it leaves the bead up. -/
  | bwait
  deriving DecidableEq, Repr

/-- An access that an agent of another package `src` makes to the memory of package `pkg`, which may be this one or `src` itself: `n` bytes of a store
into its open phase `tag` (R425), a request to a home there (R428), or the withdrawal of a bead request of its own, by the request's number (R288). -/
inductive PeerIn where
  | store (src pkg tag pa n val : Nat)
  | request (src pkg pa ptop : Nat) (fl : Bool) (op : SOp)
  | withdraw (src id : Nat)
  deriving DecidableEq, Repr

/-- What another package `src` makes of its phase `tag` at package `pkg`: the commit has arrived there, or it discards the phase (R426). -/
inductive PeerEnd where
  | commit (src pkg tag : Nat)
  | discard (src pkg tag : Nat)
  deriving DecidableEq, Repr

/-- What PEER_COMMIT speaks of: a commit of this package by its number, or the end of another package's phase. -/
inductive PeerCommitOf where
  | ours (id : Nat)
  | theirs (e : PeerEnd)
  deriving DecidableEq, Repr

/-- What PEER_ACCESS_ARRIVE speaks of: an access of this package by its number, or one of another package. -/
inductive PeerAccess where
  | ours (id : Nat)
  | theirs (r : PeerIn)
  deriving DecidableEq, Repr

/-- The soft errors that data meet (R324): one that is not corrected, and one that is. -/
structure SoftErr where
  err : Bool
  corrected : Bool
  deriving DecidableEq, Repr

/-- A walk that ends, with the soft errors that its reads have met. -/
structure WalkEnd where
  id : Nat
  met : SoftErr
  deriving DecidableEq, Repr

/-- An error that no load's data show (R324): in bytes that no access reads, in the `n`-th TLB entry, or a corrected one that an access of the
workgroup on a core met. -/
inductive ErrAt where
  | unread (addr : Nat)
  | tlb (n : Nat)
  | corrected (core : Nat)
  deriving DecidableEq, Repr

/-- What a debugger asks to read, R402 and R280. -/
inductive DebugRef where
  | sreg (core n : Nat)
  | vreg (core f lane n : Nat)
  | pred (core f lane n : Nat)
  | resid (core f lane n : Nat)
  | side (core f lane n : Nat)
  | tag (core f rod n : Nat)
  | slice (core off : Nat)
  | latch (core f n : Nat)
  | slot (core quad n : Nat)
  | breakpoint (core n : Nat)
  | watchBase (core n : Nat)
  | watchCtl (core n : Nat)
  | serviceFlags (cluster part : Nat)
  deriving DecidableEq, Repr

end Sys2Proof
end

