-- ==== Sys2Proof/Syntax.lean ====
section
/-!
DEFINITION. The syntax of the machine: one constructor for each row of the opcode table. The words of the rod and of the
reckoner come first, class by class in the order of R50 to R58. A word instruction holds `c` (VER, CTL, guard and WBS),
`u` where one row serves both forms, its MOD fields (R61), `dst` and `pd` where it writes them, its sources A, B and C
(`a`, `b`, `d`) and what IMM holds. The events of the other agents of the package follow, with what the outside party supplies.
-/
namespace Sys2Proof

inductive Instr where
  -- Class 0x0, control, R50.
  | und (c : Ctl) (u : Bool)
  | nop (c : Ctl)
  | nopU (c : Ctl)
  | bra (c : Ctl) (off : Word32)
  | braU (c : Ctl) (off : Word32)
  | brx (c : Ctl) (a : Src)
  | call (c : Ctl) (dst : BitVec 7) (off : Word32)
  | callx (c : Ctl) (dst : BitVec 7) (a : Src)
  | ret (c : Ctl) (a : Src)
  | exit (c : Ctl) (a : Src)
  | exitU (c : Ctl) (a : Src)
  | trap (c : Ctl) (a : Src)
  | trapU (c : Ctl) (a : Src)
  | brk (c : Ctl) (code : BitVec 16)
  | rejoin (c : Ctl)
  | yld (c : Ctl)
  | sleep (c : Ctl) (a : Src)
  | sleepU (c : Ctl) (a : Src)
  -- Class 0x1, integer, R51.
  | mov (c : Ctl) (u : Bool) (ty : ITy) (dst : BitVec 7) (a : Src)
  | movi (c : Ctl) (u : Bool) (ty : ITy) (dst : BitVec 7) (v : Word32)
  | iadd (c : Ctl) (u : Bool) (ty : ITy) (cin : Bool) (cinp : BitVec 3) (dst : BitVec 7) (pd : BitVec 3) (a b : Src)
  | isub (c : Ctl) (u : Bool) (ty : ITy) (cin : Bool) (cinp : BitVec 3) (dst : BitVec 7) (pd : BitVec 3) (a b : Src)
  | imul (c : Ctl) (u : Bool) (ty : ITy) (dst : BitVec 7) (a b : Src)
  | imulh (c : Ctl) (u : Bool) (ty : ITy) (dst : BitVec 7) (a b : Src)
  | imad (c : Ctl) (u : Bool) (ty : ITy) (dst : BitVec 7) (a b d : Src)
  | imadw (c : Ctl) (u : Bool) (ty : ITy) (dst : BitVec 7) (a b d : Src)
  | idiv (c : Ctl) (u : Bool) (ty : ITy) (dst : BitVec 7) (a b : Src)
  | irem (c : Ctl) (u : Bool) (ty : ITy) (dst : BitVec 7) (a b : Src)
  | imin (c : Ctl) (u : Bool) (ty : ITy) (dst : BitVec 7) (a b : Src)
  | imax (c : Ctl) (u : Bool) (ty : ITy) (dst : BitVec 7) (a b : Src)
  | iabs (c : Ctl) (u : Bool) (ty : ITy) (dst : BitVec 7) (a : Src)
  | and (c : Ctl) (u : Bool) (ty : ITy) (dst : BitVec 7) (a b : Src)
  | or (c : Ctl) (u : Bool) (ty : ITy) (dst : BitVec 7) (a b : Src)
  | xor (c : Ctl) (u : Bool) (ty : ITy) (dst : BitVec 7) (a b : Src)
  | not (c : Ctl) (u : Bool) (ty : ITy) (dst : BitVec 7) (a : Src)
  | shl (c : Ctl) (u : Bool) (ty : ITy) (dst : BitVec 7) (a b : Src)
  | shr (c : Ctl) (u : Bool) (ty : ITy) (dst : BitVec 7) (a b : Src)
  | sar (c : Ctl) (u : Bool) (ty : ITy) (dst : BitVec 7) (a b : Src)
  | fshl (c : Ctl) (u : Bool) (ty : ITy) (dst : BitVec 7) (a b d : Src)
  | fshr (c : Ctl) (u : Bool) (ty : ITy) (dst : BitVec 7) (a b d : Src)
  | popc (c : Ctl) (u : Bool) (ty : ITy) (dst : BitVec 7) (a : Src)
  | clz (c : Ctl) (u : Bool) (ty : ITy) (dst : BitVec 7) (a : Src)
  | ctz (c : Ctl) (u : Bool) (ty : ITy) (dst : BitVec 7) (a : Src)
  | brev (c : Ctl) (u : Bool) (ty : ITy) (dst : BitVec 7) (a : Src)
  | bfx (c : Ctl) (u : Bool) (ty : ITy) (dst : BitVec 7) (a b d : Src)
  | bfi (c : Ctl) (u : Bool) (ty : ITy) (dst : BitVec 7) (a b d : Src)
  | bpick (c : Ctl) (u : Bool) (ty : ITy) (dst : BitVec 7) (a b d : Src)
  | lea (c : Ctl) (u w64 : Bool) (sh : BitVec 3) (dst : BitVec 7) (a b : Src)
  | iadd3 (c : Ctl) (u : Bool) (ty : ITy) (dst : BitVec 7) (pd : BitVec 3) (a b d : Src)
  -- Class 0x2, FP32, R52.
  | fadd (c : Ctl) (rnd : Rnd) (pl : Planes) (dst : BitVec 7) (a b : Src)
  | fsub (c : Ctl) (rnd : Rnd) (pl : Planes) (dst : BitVec 7) (a b : Src)
  | fmul (c : Ctl) (rnd : Rnd) (pl : Planes) (dst : BitVec 7) (a b : Src)
  | ffma (c : Ctl) (rnd : Rnd) (pl : Planes) (dst : BitVec 7) (a b d : Src)
  | fmin (c : Ctl) (nan : Bool) (pl : Planes) (dst : BitVec 7) (a b : Src)
  | fmax (c : Ctl) (nan : Bool) (pl : Planes) (dst : BitVec 7) (a b : Src)
  | fdiv (c : Ctl) (rnd : Rnd) (dst : BitVec 7) (a b : Src)
  | fsqrt (c : Ctl) (rnd : Rnd) (dst : BitVec 7) (a : Src)
  | frcp (c : Ctl) (rnd : Rnd) (dst : BitVec 7) (a : Src)
  | frsq (c : Ctl) (rnd : Rnd) (dst : BitVec 7) (a : Src)
  | fexp2 (c : Ctl) (rnd : Rnd) (dst : BitVec 7) (a : Src)
  | flog2 (c : Ctl) (rnd : Rnd) (dst : BitVec 7) (a : Src)
  | fsinpi (c : Ctl) (rnd : Rnd) (dst : BitVec 7) (a : Src)
  | fcospi (c : Ctl) (rnd : Rnd) (dst : BitVec 7) (a : Src)
  | ftanh (c : Ctl) (rnd : Rnd) (dst : BitVec 7) (a : Src)
  | frnd (c : Ctl) (rnd : Rnd) (dst : BitVec 7) (a : Src)
  | ffrc (c : Ctl) (dst : BitVec 7) (a : Src)
  | fcls (c : Ctl) (pd : BitVec 3) (a : Src) (mask : BitVec 10)
  | fscl (c : Ctl) (rnd : Rnd) (dst : BitVec 7) (a b : Src)
  -- Class 0x3, packed 16-bit, R52.
  | hadd2 (c : Ctl) (rnd : Rnd) (bf : Bool) (dst : BitVec 7) (a b : Src)
  | hsub2 (c : Ctl) (rnd : Rnd) (bf : Bool) (dst : BitVec 7) (a b : Src)
  | hmul2 (c : Ctl) (rnd : Rnd) (bf : Bool) (dst : BitVec 7) (a b : Src)
  | hfma2 (c : Ctl) (rnd : Rnd) (bf : Bool) (dst : BitVec 7) (a b d : Src)
  | hmin2 (c : Ctl) (nan bf : Bool) (dst : BitVec 7) (a b : Src)
  | hmax2 (c : Ctl) (nan bf : Bool) (dst : BitVec 7) (a b : Src)
  | hdot2 (c : Ctl) (rnd : Rnd) (bf : Bool) (dst : BitVec 7) (a b d : Src)
  | hcmp2 (c : Ctl) (cond : Cond) (un bf : Bool) (dst : BitVec 7) (a b : Src)
  | hxcvt2 (c : Ctl) (rnd : Rnd) (bf : Bool) (dst : BitVec 7) (a : Src)
  -- Class 0x4, narrow and conversion, R53.
  | cvt (c : Ctl) (rnd : Rnd) (sat : Bool) (dir : CvtDir) (pl : Planes) (dst : BitVec 7) (a : Src) (k : BitVec 5)
  | cvt2 (c : Ctl) (rnd : Rnd) (sat alt : Bool) (pl : Planes) (dst : BitVec 7) (a : Src) (k : BitVec 5)
  | cvt8 (c : Ctl) (rnd : Rnd) (sat alt : Bool) (pl : Planes) (dst : BitVec 7) (a : Src) (k : BitVec 5)
  | cvt4 (c : Ctl) (ef : Bool) (dst : BitVec 7) (a b : Src) (k : BitVec 5)
  | unp8 (c : Ctl) (dst : BitVec 7) (a : Src)
  | unp4 (c : Ctl) (dst : BitVec 7) (a b : Src)
  | unp2 (c : Ctl) (dst : BitVec 7) (a : Src)
  | sclrd (c : Ctl) (dst : BitVec 7) (a : Src)
  | sclwr (c : Ctl) (dst : BitVec 7) (a b : Src)
  | tagrd (c : Ctl) (dst : BitVec 7) (a : Src)
  | retag (c : Ctl) (tag : Tag) (dst : BitVec 7) (a : Src)
  | efmov (c : Ctl) (dir : Bool) (dst : BitVec 7) (a : Option Src) (k : BitVec 5)
  -- Class 0x5, compare and select, R54.
  | icmp (c : Ctl) (u : Bool) (ty : ITy) (cond : Cond) (pd : BitVec 3) (a b : Src)
  | fcmp (c : Ctl) (un : Bool) (cond : Cond) (pd : BitVec 3) (a b : Src)
  | sel (c : Ctl) (u : Bool) (selp : BitVec 3) (seln : Bool) (pl : Planes) (dst : BitVec 7) (a b : Src)
  | pset (c : Ctl) (u : Bool) (pop : Pop) (pd x : BitVec 3) (nx : Bool) (y : BitVec 3) (ny : Bool)
  | pmov (c : Ctl) (dir : Bool) (dst : BitVec 7) (a : Option Src)
  -- Class 0x6, lane, R54.
  | shfl (c : Ctl) (mode : ShflMode) (dst : BitVec 7) (a b : Src)
  | bcast (c : Ctl) (dst : BitVec 7) (a b : Src)
  | vote (c : Ctl) (mode : VoteMode) (dst : BitVec 7) (pd x : BitVec 3) (nx : Bool)
  | red (c : Ctl) (lop : Lop) (lty : LTy) (dst : BitVec 7) (a : Src)
  | scan (c : Ctl) (lop : Lop) (lty : LTy) (excl : Bool) (dst : BitVec 7) (a : Src)
  | matchv (c : Ctl) (dst : BitVec 7) (a : Src)
  | rng (c : Ctl) (dst : BitVec 7) (a b d : Src)
  -- Class 0x7, map, R55.
  | mapbind (c : Ctl) (fmt : SlotFmt) (q : QuadSel) (dst : BitVec 7) (a : Src) (m : BitVec 3)
  | mapclr (c : Ctl) (q : QuadSel) (m : BitVec 3)
  | mapmode (c : Ctl) (q : QuadSel) (full : Bool) (m : BitVec 3)
  | mapscl (c : Ctl) (q : QuadSel) (a : Src) (m : BitVec 3)
  | maprd (c : Ctl) (qk : BitVec 2) (dst : BitVec 7) (m : BitVec 3) (rw : BitVec 5) (wd : BitVec 3)
  -- Class 0x8, slice and mesh memory, R56.
  | ldl (c : Ctl) (w : Width) (sx : Bool) (pol : BitVec 2) (tag : Tag) (dst : BitVec 7) (a : Src) (disp : Word32)
  | stl (c : Ctl) (w : Width) (pol : BitVec 2) (a b : Src) (disp : Word32)
  | atoml (c : Ctl) (op : AOp) (ty : ATy) (dst : BitVec 7) (a b : Src) (d : Option Src) (disp : Word32)
  | ldm (c : Ctl) (w : Width) (sx : Bool) (pol : BitVec 2) (tag : Tag) (dst : BitVec 7) (a : Src) (disp : Word32)
  | stm (c : Ctl) (w : Width) (pol : BitVec 2) (a b : Src) (disp : Word32)
  | atomm (c : Ctl) (op : AOp) (ty : ATy) (dst : BitVec 7) (a b : Src) (d : Option Src) (disp : Word32)
  -- Class 0x9, device memory, R56.
  | ldg (c : Ctl) (w : Width) (sx : Bool) (pol : BitVec 2) (tag : Tag) (dst : BitVec 7) (a b : Src) (disp : Word32)
  | stg (c : Ctl) (w : Width) (pol : BitVec 2) (a b d : Src) (disp : Word32)
  | ldro (c : Ctl) (w : Width) (sx : Bool) (pol : BitVec 2) (tag : Tag) (dst : BitVec 7) (a b : Src) (disp : Word32)
  | pref (c : Ctl) (pol : BitVec 2) (a b : Src) (disp : Word32)
  -- Class 0xA, host and peer memory, R56.
  | ldh (c : Ctl) (w : Width) (sx : Bool) (pol : BitVec 2) (tag : Tag) (dst : BitVec 7) (a : Src) (disp : Word32)
  | sth (c : Ctl) (w : Width) (pol : BitVec 2) (a b : Src) (disp : Word32)
  | ldx (c : Ctl) (w : Width) (sx : Bool) (pol : BitVec 2) (tag : Tag) (dst : BitVec 7) (a : Src) (disp : Word32)
  | stx (c : Ctl) (w : Width) (pol : BitVec 2) (a b : Src) (disp : Word32)
  -- Class 0xB, service-frame atomics and beads, R57.
  | atom (c : Ctl) (op : AOp) (ty : ATy) (dst : BitVec 7) (a b : Src) (disp : Word32)
  | atomc (c : Ctl) (ty : ATy) (dst : BitVec 7) (a b d : Src) (disp : Word32)
  | atomn (c : Ctl) (op : AOp) (ty : ATy) (a b : Src) (disp : Word32)
  | abset8 (c : Ctl) (a b : Src) (disp : Word32)
  | abtst8 (c : Ctl) (dst : BitVec 7) (a b : Src) (disp : Word32)
  | bput (c : Ctl) (a b : Src) (disp : Word32)
  | btake (c : Ctl) (dst : BitVec 7) (a : Src) (disp : Word32)
  | bpeek (c : Ctl) (dst : BitVec 7) (pd : BitVec 3) (a : Src) (disp : Word32)
  | binit (c : Ctl) (up : Bool) (a b : Src) (disp : Word32)
  -- Class 0xC, engines, R58.
  | copy (c : Ctl) (dst : BitVec 7) (a b d : Src)
  | publish (c : Ctl) (dst : BitVec 7) (a : Src)
  | cancel (c : Ctl) (dst : BitVec 7) (a : Src)
  -- Class 0xD, synchronisation, R58.
  | bar (c : Ctl) (bop : Option Lop) (lty : LTy) (rel acq vec : Bool) (dst : BitVec 7) (a : Option Src) (br : BarRef)
    (sd : Bool) (sn : BitVec 6)
  | barU (c : Ctl) (bop : Option Lop) (lty : LTy) (rel acq : Bool) (a : Option Src) (br : BarRef) (sd : Bool) (sn :
    BitVec 6)
  | bara (c : Ctl) (bop : Option Lop) (lty : LTy) (rel : Bool) (a : Option Src) (br : BarRef) (sn : BitVec 6)
  | baraU (c : Ctl) (bop : Option Lop) (lty : LTy) (rel : Bool) (a : Option Src) (br : BarRef) (sn : BitVec 6)
  | barw (c : Ctl) (acq vec : Bool) (dst : BitVec 7) (br : BarRef) (sd : Bool) (sn : BitVec 6)
  | barwU (c : Ctl) (acq : Bool) (br : BarRef) (sd : Bool) (sn : BitVec 6)
  | barset (c : Ctl) (mask : BitVec 17) (count : BitVec 5) (n : BitVec 4)
  | fence (c : Ctl) (sc : Scope) (ord : Order)
  | fenceU (c : Ctl) (sc : Scope) (ord : Order)
  | phase (c : Ctl)
  | txbegin (c : Ctl)
  | txend (c : Ctl) (dst : BitVec 7)
  | txabort (c : Ctl)
  -- Class 0xE, system, R58.
  | srd (c : Ctl) (dst : BitVec 7) (num : BitVec 8)
  | srdU (c : Ctl) (dst : BitVec 7) (num : BitVec 8)
  | swr (c : Ctl) (a : Src) (num : BitVec 8)
  | tfetch (c : Ctl) (dst : BitVec 7)
  | launch (c : Ctl) (dst : BitVec 7) (a : Src)
  | tracemark (c : Ctl) (a : Src) (code : BitVec 16)
  | ckpt (c : Ctl)
  | snap (c : Ctl) (dst : BitVec 7)
  | unsnap (c : Ctl) (a : Src)
  | tlbinv (c : Ctl) (a : Src) (scope : BitVec 2)
  | csave (c : Ctl) (a : Src)
  | crest (c : Ctl) (a : Src)
  | signal (c : Ctl) (a : Src) (ev : BitVec 5)
  -- Events of the other agents (spec/95 and the chapters that describe them).
  | dqEntryTake
  | stallDeferralEnd (core f : Nat)
  | rejoinMerge (core f : Nat)
  | gatherTimeout (core f : Nat)
  | loadDataReturn (core req : Nat) (err corrected : Bool)
  | meshAccessArrive (id : Nat)
  | meshAck (id : Nat)
  | serviceRequest (home : Nat)
  | atomReply (id : Nat)
  | waiterReissue (id : Nat)
  | mapPassComplete (core id : Nat)
  | slotChangeEffect (core quad id : Nat)
  | slotFillDone (core quad id : Nat) (err corrected : Bool)
  | copyStart (id : Nat)
  | copyUnit (id : Nat) (met : SoftErr)
  | copyDone (id : Nat)
  | barrierRelease (b : BarId)
  | commitComplete (id : Nat)
  | phaseEntryArrival (die stamp : Nat)
  | peerCommit (c : PeerCommitOf)
  | peerFrontierAck (id : Nat)
  | collector (gran : Nat)
  | poolRelief
  | vpoolTimeout
  | clockWake (core : Nat)
  | sleepTimeout (p : Party)
  | gangPlace (grid : Nat)
  | gangAging (grid : Nat)
  | gangplaceReport (grid : Nat)
  | workgroupEnd (grid wg : Nat)
  | gridEnd (grid : Nat)
  | tileGrant (core : Nat)
  | sliceEnd (top : Nat)
  | preemptRequest (grid gang : Nat)
  | contextSave (grid wg : Nat)
  | contextRestore (grid gang : Nat)
  | xlateResolved (grid wg : Nat) (ok : Bool)
  | pageWalk (k : WalkEnd)
  | dieFailed (die code : Nat)
  | portDown (port code : Nat)
  | firmwareDownload (fw : Firmware)
  | functionReady (fn : Func) (ok : Bool) (code : Nat)
  | featureWrite (off : Nat) (wide : Bool) (val : Word64)
  | wridx (q : Nat) (val : Word32)
  | resume (q : Nat) (val : Word32)
  | gridResume (q grid : Nat)
  | gridAbort (q grid : Nat)
  | registerWrite (r : RegRef) (val : Word64)
  | pktLaunch (q : Nat) (h : PktHdr) (r : LaunchRec)
  | pktCopy (q : Nat) (h : PktHdr) (dst src : Nat) (r : LayoutRec)
  | waitbead (q : Nat) (h : PktHdr) (bead : Nat)
  | putbead (q : Nat) (h : PktHdr) (bead val : Nat)
  | takebead (q : Nat) (h : PktHdr) (bead : Nat)
  | snapshot (q : Nat) (h : PktHdr)
  | snapshotRelease (q : Nat) (h : PktHdr) (stamp : Nat)
  | measure (q : Nat) (h : PktHdr) (stamp : Nat) (bufs : List (Nat × Nat))
  | receipt (q : Nat) (h : PktHdr) (stamp dest : Nat) (bufs : List (Nat × Nat))
  | pktFence (q : Nat) (h : PktHdr)
  | indirect (q : Nat) (h : PktHdr) (addr units : Nat)
  | timestamp (q : Nat) (h : PktHdr) (addr : Nat)
  | queueUnmap (q : Nat)
  | queueCreate (d : QueueDesc)
  | partitionCreate (d : PartDesc)
  | partitionChange (d : PartDesc)
  | partitionRemove (top child : Nat)
  | msiCoalesceExpiry (func : Nat)
  | debugStep (p : Party)
  | debugResume (ctx : Nat)
  | debugRead (ctx : Nat) (r : DebugRef)
  | breakpointHit (p : Party)
  | ckptInterval (ctx : Nat)
  | rollback (ctx ck core count : Nat)
  | powerUp
  | debugAttach (ctx : Nat)
  | debugDetach (ctx : Nat)
  | coreOutOfService (core : Nat)
  | vyhalLinkFailure (ids : List Nat)
  | scrubbing (e : ErrAt)
  | peerAccessArrive (a : PeerAccess)
  | hostWriteAccept (id : Nat)
  | replayLogReadIndex (ctx idx : Nat)
  deriving DecidableEq, Repr

end Sys2Proof
end

