-- ==== Sys2Proof/Machine/Shape.lean ====
section
/-!
DEFINITION. The fixed part of every word instruction: opcode, MOD bits, operands, and which encodings of it are legal by the
static conditions of R47 (R26, R30 to R46, R49 to R62, and the operand rules of the instruction chapters). The conditions that
need the machine (.regs and .slots counts, the chain so far, declined features) are checked when the word is executed.
-/
namespace Sys2Proof

/-! ### Codes of R43 to R46, R61 and R62 -/

def Rnd.code : Rnd → BitVec 3
  | .rne => 0 | .rz => 1 | .rd => 2 | .ru => 3 | .rna => 4 | .ef => 5

def Cond.code : Cond → BitVec 3
  | .eq => 0 | .ne => 1 | .lt => 2 | .le => 3 | .gt => 4 | .ge => 5 | .ord => 6 | .uno => 7

/-- ICMP does not admit the codes ord and uno (R62). -/
def Cond.isOrd : Cond → Bool
  | .ord | .uno => true
  | _ => false

def CvtDir.code : CvtDir → BitVec 2
  | .f32ToI32 => 0 | .f32ToN32 => 1 | .i32ToF32 => 2 | .n32ToF32 => 3

def CvtDir.toInt : CvtDir → Bool
  | .f32ToI32 | .f32ToN32 => true
  | _ => false

def Pop.code : Pop → BitVec 2
  | .and => 0 | .or => 1 | .xor => 2

def ShflMode.code : ShflMode → BitVec 2
  | .idx => 0 | .up => 1 | .down => 2 | .xor => 3

def VoteMode.code : VoteMode → BitVec 2
  | .any => 0 | .all => 1 | .eq => 2 | .ballot => 3

def Lop.code : Lop → BitVec 3
  | .add => 0 | .min => 1 | .max => 2 | .and => 3 | .or => 4 | .xor => 5

/-- BOP: 000 for no reduction, then the order of LOP. -/
def bopCode : Option Lop → BitVec 3
  | none => 0
  | some l => l.code + 1

def LTy.code : LTy → BitVec 2
  | .i32 => 0 | .n32 => 1 | .f32 => 2

def SlotFmt.code : SlotFmt → BitVec 3
  | .bf16 => 0 | .f16 => 1 | .e4m3 => 2 | .e5m2 => 3 | .f4b => 4

def AOp.code : AOp → BitVec 3
  | .add => 0 | .min => 1 | .max => 2 | .and => 3 | .or => 4 | .xor => 5 | .exch => 6 | .cas => 7

def AOp.isCas : AOp → Bool
  | .cas => true
  | _ => false

def ATy.code : ATy → BitVec 3
  | .i32 => 0 | .n32 => 1 | .i64 => 2 | .n64 => 3 | .f32 => 4 | .bf16x2 => 5 | .f16x2 => 6

def ATy.regs (t : ATy) : Nat := if t.bytes = 8 then 2 else 1

def Width.code : Width → BitVec 3
  | .b8 => 0 | .b16 => 1 | .b32 => 2 | .b64 => 3 | .b128 => 4

def Width.narrow : Width → Bool
  | .b8 | .b16 => true
  | _ => false

def Scope.code : Scope → BitVec 3
  | .frame => 0 | .core => 1 | .cluster => 2 | .die => 3 | .package => 4 | .system => 5

def Order.code : Order → BitVec 2
  | .acq => 0 | .rel => 1 | .ar => 2 | .sc => 3

def Planes.code : Planes → BitVec 2
  | .x1 => 0 | .x2 => 1 | .x4 => 2 | .x8 => 3

def bit (b : Bool) : BitVec 1 := BitVec.ofBool b

/-! ### MOD layouts, R45, R46, R61 -/

/-- IADD, ISUB and the other integer words; CINP stands as it is where CIN = 0 (DEDUCED, log 52). -/
def modInt (ty : ITy) (cin : Bool) (cinp : BitVec 3) : BitVec 8 := bit ty.w64 ++ bit ty.uns ++ bit cin ++ cinp ++ 0#2
def modLea (w64 : Bool) (sh : BitVec 3) : BitVec 8 := bit w64 ++ 0#1 ++ sh ++ 0#3
def modF32 (rnd : Rnd) (nan : Bool) (pl : Planes) : BitVec 8 := rnd.code ++ bit nan ++ 0#2 ++ pl.code
def modH2 (rnd : Rnd) (nan bf : Bool) : BitVec 8 := rnd.code ++ bit nan ++ bit bf ++ 0#3
def modHcmp (cond : Cond) (un bf : Bool) : BitVec 8 := cond.code ++ bit un ++ bit bf ++ 0#3
def modCvt (rnd : Rnd) (sat : Bool) (dir : CvtDir) (pl : Planes) : BitVec 8 := rnd.code ++ bit sat ++ dir.code ++ pl.code
def modCvt2 (rnd : Rnd) (sat alt : Bool) (pl : Planes) : BitVec 8 := rnd.code ++ bit sat ++ bit alt ++ 0#1 ++ pl.code
def modCvt4 (ef : Bool) : BitVec 8 := (if ef then 5#3 else 0#3) ++ 0#5
def modRetag (tag : Tag) : BitVec 8 := 0#4 ++ BitVec.ofNat 4 tag.code
def modDir (dir : Bool) : BitVec 8 := 0#7 ++ bit dir
def modCmp (ty : ITy) (cond : Cond) : BitVec 8 := bit ty.w64 ++ bit ty.uns ++ cond.code ++ 0#3
def modFcmp (un : Bool) (cond : Cond) : BitVec 8 := 0#1 ++ bit un ++ cond.code ++ 0#3
def modSel (selp : BitVec 3) (seln : Bool) (pl : Planes) : BitVec 8 := 0#1 ++ selp ++ bit seln ++ 0#1 ++ pl.code
def modPset (pop : Pop) : BitVec 8 := 0#2 ++ pop.code ++ 0#4
def modShfl (m : ShflMode) : BitVec 8 := m.code ++ 0#6
def modVote (m : VoteMode) : BitVec 8 := m.code ++ 0#6
def modLane (lop : Lop) (lty : LTy) (excl : Bool) : BitVec 8 := lop.code ++ lty.code ++ bit excl ++ 0#2
def modBar (bop : Option Lop) (lty : LTy) (rel acq vec : Bool) : BitVec 8 :=
  bopCode bop ++ lty.code ++ bit rel ++ bit acq ++ bit vec
def modMap (fmt : SlotFmt) (q : QuadSel) (full : Bool) : BitVec 8 :=
  fmt.code ++ bit q.isSome ++ q.getD 0#2 ++ 0#1 ++ bit full
def modLoad (w : Width) (sx : Bool) (pol : BitVec 2) (tag : Tag) : BitVec 8 :=
  w.code ++ bit (sx || decide (4 ≤ tag.code)) ++ pol ++ BitVec.ofNat 2 tag.code
def modStore (w : Width) (pol : BitVec 2) : BitVec 8 := w.code ++ 0#1 ++ pol ++ 0#2
def modAtom (op : AOp) (ty : ATy) : BitVec 8 := op.code ++ ty.code ++ 0#2
def modFence (sc : Scope) (ord : Order) : BitVec 8 := sc.code ++ ord.code ++ 0#3

/-! ### Fixed operands in IMM, R53 to R58 -/

def imm2P (x : BitVec 3) (nx : Bool) (y : BitVec 3) (ny : Bool) : Word32 := 0#24 ++ bit ny ++ y ++ bit nx ++ x
def immMap (m : BitVec 3) (row : BitVec 5) (wd : BitVec 3) : Word32 := 0#21 ++ wd ++ row ++ m
/-- The barrier and the s-register; the number stands as it is where IMM[31] = 0 (R58; DEDUCED, log 52). -/
def immBar (b : BarRef) (sd : Bool) (sn : BitVec 6) : Word32 :=
  bit sd ++ 0#1 ++ sn ++ 0#18 ++
    (match b with
     | .core n => 0#2 ++ n
     | .cluster n => 1#2 ++ 0#1 ++ n
     | .grid n => 2#2 ++ 0#2 ++ n)
def immBarset (mask : BitVec 17) (count : BitVec 5) (n : BitVec 4) : Word32 := mask ++ count ++ 0#6 ++ n

/-! ### Operand rules -/

/-- The kinds of R38 that one source admits. A `data` source takes a latch or a broadcast only where one register holds it
(R203, R310). -/
inductive Kinds where | any | rs | rls | r | s | is | rl | data (regs : Nat)
  deriving DecidableEq, Repr

/-- One source of an instruction: how many registers it names, and what it admits. -/
structure Use where
  src : Src
  n : Nat
  kinds : Kinds
  map : Bool
  fl : Bool
  deriving DecidableEq, Repr

/-- The fixed part of a word instruction. `fixedImm` is IMM where it is a fixed operand (R39). -/
structure Shape where
  ctl : Ctl
  u : Bool
  op : BitVec 11
  mod : BitVec 8
  dst : Option (BitVec 7 × Nat)
  pd : Option (BitVec 3)
  a : Option Use
  b : Option Use
  d : Option Use
  fixedImm : Option Word32
  chainOk : Bool
  extra : Bool
  deriving DecidableEq, Repr

def Src.isImm : Src → Bool
  | .imm _ => true
  | _ => false

def Src.mapped : Src → Bool
  | .reg _ (some _) _ _ => true
  | _ => false

def Src.slot : Src → Option (BitVec 3)
  | .reg _ m _ _ => m
  | _ => none

def Src.negAbs : Src → Bool
  | .reg _ _ n a => n || a
  | .latch _ n a => n || a
  | .sreg _ n a => n || a
  | .imm _ => false

/-- Registers of a 64-bit operand in a frame form (R51). -/
def pair (w64 : Bool) : Nat := if w64 then 2 else 1

def ITy.pair (t : ITy) : Nat := Sys2Proof.pair t.w64

/-- One register, where the condition holds. -/
def one (b : Bool) : Nat := if b then 1 else 0

/-- A plane expansion needs a mapped source (R44). -/
def plOk (pl : Planes) (m : Bool) : Bool := decide (pl = .x1) || m

/-- A residue group of 4 or 8 is aligned, and it ends within `e31` (R158). -/
def residOk (n : Nat) (k : BitVec 5) : Bool :=
  decide (k.toNat + n ≤ 32) && (decide (n < 4) || decide (k.toNat % n = 0))

/-- CVT, R158: DIR 10 and 11 take no map, sign change, residue or planes. -/
def cvtOk (rnd : Rnd) (dir : CvtDir) (pl : Planes) (a : Src) (k : BitVec 5) : Bool :=
  plOk pl a.mapped && (decide (rnd ≠ .ef) || residOk pl.count k) &&
    (dir.toInt || (decide (rnd ≠ .ef) && decide (pl = .x1) && !a.mapped && !a.negAbs))

/-- Values that CVT2 (`p` = 2) or CVT8 (`p` = 4) converts, R159. -/
def packCount (p : Nat) (pl : Planes) : Nat := if pl = .x1 then p else pl.count

/-- Destination registers of CVT2 and CVT8, R159. -/
def packRegs (p : Nat) (pl : Planes) : Nat := packCount p pl / p

/-- The combinations that R159 admits. -/
def packOk (p : Nat) (rnd : Rnd) (pl : Planes) (a : Src) (k : BitVec 5) : Bool :=
  (if a.mapped then decide (p ≤ pl.count) && decide (pl ≠ .x1) else decide (pl = .x1)) &&
    (decide (rnd ≠ .ef) || residOk (packCount p pl) k)

/-- The bitwise operations take no F32 (R185). -/
def laneOk (lop : Lop) (lty : LTy) : Bool :=
  decide (lty ≠ .f32) || decide (lop = .add) || decide (lop = .min) || decide (lop = .max)

/-- Loads, R45: SX belongs to widths 8 and 16, whose tag is INT. -/
def loadOk (w : Width) (sx : Bool) (tag : Tag) : Bool := if w.narrow then decide (tag = .int) else !sx

/-- Atomics, R204, R277. -/
def atomOk (op : AOp) (ty : ATy) : Bool := !(ty.isFloat && (op.isBitwise || op.isCas)) && !(op.isCas && decide (ty.bytes = 8))

/-- The reduction of a barrier instruction (R211; for BARA and BARA.u DEDUCED, log 52). -/
def barOk (bop : Option Lop) (lty : LTy) (vec sd : Bool) : Bool :=
  match bop with
  | none => decide (lty = .i32) && !vec && !sd
  | some l => laneOk l lty

/-- Members that a mask of BARSET names (R58). -/
def popcount : Nat → Nat → Nat
  | 0, _ => 0
  | n + 1, x => x % 2 + popcount n (x / 2)

/-- BARSET, R216. -/
def barsetOk (mask : BitVec 17) (count : BitVec 5) : Bool :=
  decide (0 < count.toNat) && decide (count.toNat ≤ popcount 17 mask.toNat)

/-- The numbers of the special registers (R188, R253, R345, R420). -/
def srdKnown (num : BitVec 8) : Bool :=
  let n := num.toNat
  decide (n ≤ 0x0C) || (decide (0x10 ≤ n) && decide (n ≤ 0x13)) || (decide (0x18 ≤ n) && decide (n ≤ 0x1B)) ||
    (decide (0x20 ≤ n) && decide (n ≤ 0x22))

/-- The registers that SRD admits in a U form (R188). -/
def srdU (num : BitVec 8) : Bool :=
  let n := num.toNat
  srdKnown num && decide (4 ≤ n) && !(decide (n = 0x18) || decide (n = 0x19) || decide (n = 0x1B))

/-- The 64-bit special registers (R188). -/
def srdWide (num : BitVec 8) : Bool :=
  let n := num.toNat
  decide (n = 0x10) || decide (n = 0x11) || decide (0x20 ≤ n)

def srdRegs (num : BitVec 8) : Nat := if srdWide num then 2 else 1

def srdOk (u : Bool) (num : BitVec 8) : Bool := if u then srdU num else srdKnown num

/-! ### The shape of each instruction, R50 to R58 -/

/-- The fixed part of a word instruction; none for an event. -/
def Instr.shape : Instr → Option Shape
  | .und c u => some ⟨c, u, 0x000#11, 0#8, none, none, none, none, none, none, false, true⟩
  | .nop c => some ⟨c, false, 0x001#11, 0#8, none, none, none, none, none, none, false, true⟩
  | .nopU c => some ⟨c, true, 0x001#11, 0#8, none, none, none, none, none, none, false, true⟩
  | .bra c off => some ⟨c, false, 0x002#11, 0#8, none, none, none, none, none, (some (off)), false, true⟩
  | .braU c off => some ⟨c, true, 0x002#11, 0#8, none, none, none, none, none, (some (off)), false, true⟩
  | .brx c a => some ⟨c, false, 0x003#11, 0#8, none, none, (some ⟨a, 2, .rs, false, false⟩), none, none, none, false,
      true⟩
  | .call c dst off => some ⟨c, false, 0x004#11, 0#8, (some (dst, 2)), none, none, none, none, (some (off)), false,
      true⟩
  | .callx c dst a => some ⟨c, false, 0x005#11, 0#8, (some (dst, 2)), none, (some ⟨a, 2, .rs, false, false⟩), none,
      none, none, false, true⟩
  | .ret c a => some ⟨c, false, 0x006#11, 0#8, none, none, (some ⟨a, 2, .rs, false, false⟩), none, none, none, false,
      true⟩
  | .exit c a => some ⟨c, false, 0x007#11, 0#8, none, none, (some ⟨a, 1, .any, false, false⟩), none, none, none,
      false, true⟩
  | .exitU c a => some ⟨c, true, 0x007#11, 0#8, none, none, (some ⟨a, 1, .any, false, false⟩), none, none, none,
      false, true⟩
  | .trap c a => some ⟨c, false, 0x008#11, 0#8, none, none, (some ⟨a, 1, .any, false, false⟩), none, none, none,
      false, true⟩
  | .trapU c a => some ⟨c, true, 0x008#11, 0#8, none, none, (some ⟨a, 1, .any, false, false⟩), none, none, none,
      false, true⟩
  | .brk c code => some ⟨c, false, 0x009#11, 0#8, none, none, none, none, none, (some (0#16 ++ code)), false, true⟩
  | .rejoin c => some ⟨c, false, 0x00A#11, 0#8, none, none, none, none, none, none, false, true⟩
  | .yld c => some ⟨c, false, 0x00B#11, 0#8, none, none, none, none, none, none, false, true⟩
  | .sleep c a => some ⟨c, false, 0x00C#11, 0#8, none, none, (some ⟨a, 1, .any, false, false⟩), none, none, none,
      false, true⟩
  | .sleepU c a => some ⟨c, true, 0x00C#11, 0#8, none, none, (some ⟨a, 1, .any, false, false⟩), none, none, none,
      false, true⟩
  | .mov c u ty dst a => some ⟨c, u, 0x080#11, modInt ty false 0#3, (some (dst, ty.pair)), none, (some ⟨a, ty.pair,
      .any, true, false⟩), none, none, none, !u, !(ty.w64 && a.mapped)⟩
  | .movi c u ty dst v => some ⟨c, u, 0x081#11, modInt ty false 0#3, (some (dst, 1)), none, none, none, none, (some
      (v)), !u, !ty.w64⟩
  | .iadd c u ty cin cinp dst pd a b => some ⟨c, u, 0x082#11, modInt ty cin cinp, (some (dst, ty.pair)), (some pd),
      (some ⟨a, ty.pair, .any, false, false⟩), (some ⟨b, ty.pair, .any, false, false⟩), none, none, !u, true⟩
  | .isub c u ty cin cinp dst pd a b => some ⟨c, u, 0x083#11, modInt ty cin cinp, (some (dst, ty.pair)), (some pd),
      (some ⟨a, ty.pair, .any, false, false⟩), (some ⟨b, ty.pair, .any, false, false⟩), none, none, !u, true⟩
  | .imul c u ty dst a b => some ⟨c, u, 0x084#11, modInt ty false 0#3, (some (dst, 1)), none, (some ⟨a, 1, .any,
      false, false⟩), (some ⟨b, 1, .any, false, false⟩), none, none, !u, !ty.w64⟩
  | .imulh c u ty dst a b => some ⟨c, u, 0x085#11, modInt ty false 0#3, (some (dst, 1)), none, (some ⟨a, 1, .any,
      false, false⟩), (some ⟨b, 1, .any, false, false⟩), none, none, !u, !ty.w64⟩
  | .imad c u ty dst a b d => some ⟨c, u, 0x086#11, modInt ty false 0#3, (some (dst, 1)), none, (some ⟨a, 1, .any,
      false, false⟩), (some ⟨b, 1, .any, false, false⟩), (some ⟨d, 1, .any, false, false⟩), none, !u, !ty.w64⟩
  | .imadw c u ty dst a b d => some ⟨c, u, 0x087#11, modInt ty false 0#3, (some (dst, 2)), none, (some ⟨a, 1, .any,
      false, false⟩), (some ⟨b, 1, .any, false, false⟩), (some ⟨d, 2, .any, false, false⟩), none, !u, !ty.w64⟩
  | .idiv c u ty dst a b => some ⟨c, u, 0x088#11, modInt ty false 0#3, (some (dst, 1)), none, (some ⟨a, 1, .any,
      false, false⟩), (some ⟨b, 1, .any, false, false⟩), none, none, !u, !ty.w64⟩
  | .irem c u ty dst a b => some ⟨c, u, 0x089#11, modInt ty false 0#3, (some (dst, 1)), none, (some ⟨a, 1, .any,
      false, false⟩), (some ⟨b, 1, .any, false, false⟩), none, none, !u, !ty.w64⟩
  | .imin c u ty dst a b => some ⟨c, u, 0x08A#11, modInt ty false 0#3, (some (dst, ty.pair)), none, (some ⟨a, ty.pair,
      .any, false, false⟩), (some ⟨b, ty.pair, .any, false, false⟩), none, none, !u, true⟩
  | .imax c u ty dst a b => some ⟨c, u, 0x08B#11, modInt ty false 0#3, (some (dst, ty.pair)), none, (some ⟨a, ty.pair,
      .any, false, false⟩), (some ⟨b, ty.pair, .any, false, false⟩), none, none, !u, true⟩
  | .iabs c u ty dst a => some ⟨c, u, 0x08C#11, modInt ty false 0#3, (some (dst, 1)), none, (some ⟨a, 1, .any, false,
      false⟩), none, none, none, !u, decide (ty = .i32)⟩
  | .and c u ty dst a b => some ⟨c, u, 0x08D#11, modInt ty false 0#3, (some (dst, ty.pair)), none, (some ⟨a, ty.pair,
      .any, false, false⟩), (some ⟨b, ty.pair, .any, false, false⟩), none, none, !u, true⟩
  | .or c u ty dst a b => some ⟨c, u, 0x08E#11, modInt ty false 0#3, (some (dst, ty.pair)), none, (some ⟨a, ty.pair,
      .any, false, false⟩), (some ⟨b, ty.pair, .any, false, false⟩), none, none, !u, true⟩
  | .xor c u ty dst a b => some ⟨c, u, 0x08F#11, modInt ty false 0#3, (some (dst, ty.pair)), none, (some ⟨a, ty.pair,
      .any, false, false⟩), (some ⟨b, ty.pair, .any, false, false⟩), none, none, !u, true⟩
  | .not c u ty dst a => some ⟨c, u, 0x090#11, modInt ty false 0#3, (some (dst, ty.pair)), none, (some ⟨a, ty.pair,
      .any, false, false⟩), none, none, none, !u, true⟩
  | .shl c u ty dst a b => some ⟨c, u, 0x091#11, modInt ty false 0#3, (some (dst, ty.pair)), none, (some ⟨a, ty.pair,
      .any, false, false⟩), (some ⟨b, 1, .any, false, false⟩), none, none, !u, true⟩
  | .shr c u ty dst a b => some ⟨c, u, 0x092#11, modInt ty false 0#3, (some (dst, ty.pair)), none, (some ⟨a, ty.pair,
      .any, false, false⟩), (some ⟨b, 1, .any, false, false⟩), none, none, !u, true⟩
  | .sar c u ty dst a b => some ⟨c, u, 0x093#11, modInt ty false 0#3, (some (dst, ty.pair)), none, (some ⟨a, ty.pair,
      .any, false, false⟩), (some ⟨b, 1, .any, false, false⟩), none, none, !u, true⟩
  | .fshl c u ty dst a b d => some ⟨c, u, 0x094#11, modInt ty false 0#3, (some (dst, 1)), none, (some ⟨a, 1, .any,
      false, false⟩), (some ⟨b, 1, .any, false, false⟩), (some ⟨d, 1, .any, false, false⟩), none, !u, !ty.w64⟩
  | .fshr c u ty dst a b d => some ⟨c, u, 0x095#11, modInt ty false 0#3, (some (dst, 1)), none, (some ⟨a, 1, .any,
      false, false⟩), (some ⟨b, 1, .any, false, false⟩), (some ⟨d, 1, .any, false, false⟩), none, !u, !ty.w64⟩
  | .popc c u ty dst a => some ⟨c, u, 0x096#11, modInt ty false 0#3, (some (dst, 1)), none, (some ⟨a, 1, .any, false,
      false⟩), none, none, none, !u, !ty.w64⟩
  | .clz c u ty dst a => some ⟨c, u, 0x097#11, modInt ty false 0#3, (some (dst, 1)), none, (some ⟨a, 1, .any, false,
      false⟩), none, none, none, !u, !ty.w64⟩
  | .ctz c u ty dst a => some ⟨c, u, 0x098#11, modInt ty false 0#3, (some (dst, 1)), none, (some ⟨a, 1, .any, false,
      false⟩), none, none, none, !u, !ty.w64⟩
  | .brev c u ty dst a => some ⟨c, u, 0x099#11, modInt ty false 0#3, (some (dst, 1)), none, (some ⟨a, 1, .any, false,
      false⟩), none, none, none, !u, !ty.w64⟩
  | .bfx c u ty dst a b d => some ⟨c, u, 0x09A#11, modInt ty false 0#3, (some (dst, 1)), none, (some ⟨a, 1, .any,
      false, false⟩), (some ⟨b, 1, .any, false, false⟩), (some ⟨d, 1, .any, false, false⟩), none, !u, !ty.w64⟩
  | .bfi c u ty dst a b d => some ⟨c, u, 0x09B#11, modInt ty false 0#3, (some (dst, 1)), none, (some ⟨a, 1, .any,
      false, false⟩), (some ⟨b, 1, .any, false, false⟩), (some ⟨d, 1, .any, false, false⟩), none, !u, !ty.w64⟩
  | .bpick c u ty dst a b d => some ⟨c, u, 0x09C#11, modInt ty false 0#3, (some (dst, 1)), none, (some ⟨a, 1, .any,
      false, false⟩), (some ⟨b, 1, .any, false, false⟩), (some ⟨d, 1, .any, false, false⟩), none, !u, !ty.w64⟩
  | .lea c u w64 sh dst a b => some ⟨c, u, 0x09D#11, modLea w64 sh, (some (dst, pair w64)), none, (some ⟨a, (pair
      w64), .any, false, false⟩), (some ⟨b, 1, .any, false, false⟩), none, none, !u, decide (sh.toNat ≤ 4)⟩
  | .iadd3 c u ty dst pd a b d => some ⟨c, u, 0x09E#11, modInt ty false 0#3, (some (dst, 1)), (some pd), (some ⟨a, 1,
      .any, false, false⟩), (some ⟨b, 1, .any, false, false⟩), (some ⟨d, 1, .any, false, false⟩), none, !u, !ty.w64⟩
  | .fadd c rnd pl dst a b => some ⟨c, false, 0x100#11, modF32 rnd false pl, (some (dst, pl.count)), none, (some ⟨a,
      pl.count, .any, true, true⟩), (some ⟨b, pl.count, .any, true, true⟩), none, none, true, plOk pl (a.mapped ||
      b.mapped) && decide (rnd ≠ .ef)⟩
  | .fsub c rnd pl dst a b => some ⟨c, false, 0x101#11, modF32 rnd false pl, (some (dst, pl.count)), none, (some ⟨a,
      pl.count, .any, true, true⟩), (some ⟨b, pl.count, .any, true, true⟩), none, none, true, plOk pl (a.mapped ||
      b.mapped) && decide (rnd ≠ .ef)⟩
  | .fmul c rnd pl dst a b => some ⟨c, false, 0x102#11, modF32 rnd false pl, (some (dst, pl.count)), none, (some ⟨a,
      pl.count, .any, true, true⟩), (some ⟨b, pl.count, .any, true, true⟩), none, none, true, plOk pl (a.mapped ||
      b.mapped) && decide (rnd ≠ .ef)⟩
  | .ffma c rnd pl dst a b d => some ⟨c, false, 0x103#11, modF32 rnd false pl, (some (dst, pl.count)), none, (some ⟨a,
      pl.count, .any, true, true⟩), (some ⟨b, pl.count, .any, true, true⟩), (some ⟨d, pl.count, .any, true, true⟩),
      none, true, plOk pl (a.mapped || b.mapped || d.mapped) && decide (rnd ≠ .ef)⟩
  | .fmin c nan pl dst a b => some ⟨c, false, 0x104#11, modF32 .rne nan pl, (some (dst, pl.count)), none, (some ⟨a,
      pl.count, .any, true, true⟩), (some ⟨b, pl.count, .any, true, true⟩), none, none, true, plOk pl (a.mapped ||
      b.mapped)⟩
  | .fmax c nan pl dst a b => some ⟨c, false, 0x105#11, modF32 .rne nan pl, (some (dst, pl.count)), none, (some ⟨a,
      pl.count, .any, true, true⟩), (some ⟨b, pl.count, .any, true, true⟩), none, none, true, plOk pl (a.mapped ||
      b.mapped)⟩
  | .fdiv c rnd dst a b => some ⟨c, false, 0x106#11, modF32 rnd false .x1, (some (dst, 1)), none, (some ⟨a, 1, .any,
      false, true⟩), (some ⟨b, 1, .any, false, true⟩), none, none, true, decide (rnd ≠ .ef)⟩
  | .fsqrt c rnd dst a => some ⟨c, false, 0x107#11, modF32 rnd false .x1, (some (dst, 1)), none, (some ⟨a, 1, .any,
      false, true⟩), none, none, none, true, decide (rnd ≠ .ef)⟩
  | .frcp c rnd dst a => some ⟨c, false, 0x108#11, modF32 rnd false .x1, (some (dst, 1)), none, (some ⟨a, 1, .any,
      false, true⟩), none, none, none, true, decide (rnd ≠ .ef)⟩
  | .frsq c rnd dst a => some ⟨c, false, 0x109#11, modF32 rnd false .x1, (some (dst, 1)), none, (some ⟨a, 1, .any,
      false, true⟩), none, none, none, true, decide (rnd ≠ .ef)⟩
  | .fexp2 c rnd dst a => some ⟨c, false, 0x10A#11, modF32 rnd false .x1, (some (dst, 1)), none, (some ⟨a, 1, .any,
      false, true⟩), none, none, none, true, decide (rnd ≠ .ef)⟩
  | .flog2 c rnd dst a => some ⟨c, false, 0x10B#11, modF32 rnd false .x1, (some (dst, 1)), none, (some ⟨a, 1, .any,
      false, true⟩), none, none, none, true, decide (rnd ≠ .ef)⟩
  | .fsinpi c rnd dst a => some ⟨c, false, 0x10C#11, modF32 rnd false .x1, (some (dst, 1)), none, (some ⟨a, 1, .any,
      false, true⟩), none, none, none, true, decide (rnd ≠ .ef)⟩
  | .fcospi c rnd dst a => some ⟨c, false, 0x10D#11, modF32 rnd false .x1, (some (dst, 1)), none, (some ⟨a, 1, .any,
      false, true⟩), none, none, none, true, decide (rnd ≠ .ef)⟩
  | .ftanh c rnd dst a => some ⟨c, false, 0x10E#11, modF32 rnd false .x1, (some (dst, 1)), none, (some ⟨a, 1, .any,
      false, true⟩), none, none, none, true, decide (rnd ≠ .ef)⟩
  | .frnd c rnd dst a => some ⟨c, false, 0x10F#11, modF32 rnd false .x1, (some (dst, 1)), none, (some ⟨a, 1, .any,
      false, true⟩), none, none, none, true, decide (rnd ≠ .ef)⟩
  | .ffrc c dst a => some ⟨c, false, 0x110#11, modF32 .rne false .x1, (some (dst, 1)), none, (some ⟨a, 1, .any, false,
      true⟩), none, none, none, true, true⟩
  | .fcls c pd a mask => some ⟨c, false, 0x111#11, 0#8, none, (some pd), (some ⟨a, 1, .rls, false, true⟩), none, none,
      (some (0#22 ++ mask)), true, true⟩
  | .fscl c rnd dst a b => some ⟨c, false, 0x112#11, modF32 rnd false .x1, (some (dst, 1)), none, (some ⟨a, 1, .any,
      false, true⟩), (some ⟨b, 1, .any, false, false⟩), none, none, true, decide (rnd ≠ .ef)⟩
  | .hadd2 c rnd bf dst a b => some ⟨c, false, 0x180#11, modH2 rnd false bf, (some (dst, 1)), none, (some ⟨a, 1, .any,
      true, true⟩), (some ⟨b, 1, .any, true, true⟩), none, none, true, decide (rnd ≠ .ef)⟩
  | .hsub2 c rnd bf dst a b => some ⟨c, false, 0x181#11, modH2 rnd false bf, (some (dst, 1)), none, (some ⟨a, 1, .any,
      true, true⟩), (some ⟨b, 1, .any, true, true⟩), none, none, true, decide (rnd ≠ .ef)⟩
  | .hmul2 c rnd bf dst a b => some ⟨c, false, 0x182#11, modH2 rnd false bf, (some (dst, 1)), none, (some ⟨a, 1, .any,
      true, true⟩), (some ⟨b, 1, .any, true, true⟩), none, none, true, decide (rnd ≠ .ef)⟩
  | .hfma2 c rnd bf dst a b d => some ⟨c, false, 0x183#11, modH2 rnd false bf, (some (dst, 1)), none, (some ⟨a, 1,
      .any, true, true⟩), (some ⟨b, 1, .any, true, true⟩), (some ⟨d, 1, .any, true, true⟩), none, true, decide (rnd ≠
      .ef)⟩
  | .hmin2 c nan bf dst a b => some ⟨c, false, 0x184#11, modH2 .rne nan bf, (some (dst, 1)), none, (some ⟨a, 1, .any,
      true, true⟩), (some ⟨b, 1, .any, true, true⟩), none, none, true, true⟩
  | .hmax2 c nan bf dst a b => some ⟨c, false, 0x185#11, modH2 .rne nan bf, (some (dst, 1)), none, (some ⟨a, 1, .any,
      true, true⟩), (some ⟨b, 1, .any, true, true⟩), none, none, true, true⟩
  | .hdot2 c rnd bf dst a b d => some ⟨c, false, 0x186#11, modH2 rnd false bf, (some (dst, 1)), none, (some ⟨a, 1,
      .any, true, true⟩), (some ⟨b, 1, .any, true, true⟩), (some ⟨d, 1, .any, false, true⟩), none, true, decide (rnd ≠
      .ef)⟩
  | .hcmp2 c cond un bf dst a b => some ⟨c, false, 0x187#11, modHcmp cond un bf, (some (dst, 1)), none, (some ⟨a, 1,
      .any, true, true⟩), (some ⟨b, 1, .any, true, true⟩), none, none, true, !(un && cond.isOrd)⟩
  | .hxcvt2 c rnd bf dst a => some ⟨c, false, 0x188#11, modH2 rnd false bf, (some (dst, 1)), none, (some ⟨a, 1, .any,
      true, true⟩), none, none, none, true, decide (rnd ≠ .ef)⟩
  | .cvt c rnd sat dir pl dst a k => some ⟨c, false, 0x200#11, modCvt rnd sat dir pl, (some (dst, pl.count)), none,
      (some ⟨a, pl.count, .any, true, true⟩), none, none, (if decide (rnd = .ef) then some (0#27 ++ k) else none),
      decide (rnd ≠ .ef), (decide (rnd = .ef) || decide (k = 0#5)) && cvtOk rnd dir pl a k⟩
  | .cvt2 c rnd sat alt pl dst a k => some ⟨c, false, 0x201#11, modCvt2 rnd sat alt pl, (some (dst, packRegs 2 pl)),
      none, (some ⟨a, 2, .r, true, true⟩), none, none, (if decide (rnd = .ef) then some (0#27 ++ k) else none), decide
      (rnd ≠ .ef), (decide (rnd = .ef) || decide (k = 0#5)) && packOk 2 rnd pl a k⟩
  | .cvt8 c rnd sat alt pl dst a k => some ⟨c, false, 0x202#11, modCvt2 rnd sat alt pl, (some (dst, packRegs 4 pl)),
      none, (some ⟨a, 4, .r, true, true⟩), none, none, (if decide (rnd = .ef) then some (0#27 ++ k) else none), decide
      (rnd ≠ .ef), (decide (rnd = .ef) || decide (k = 0#5)) && packOk 4 rnd pl a k⟩
  | .cvt4 c ef dst a b k => some ⟨c, false, 0x203#11, modCvt4 ef, (some (dst, 1)), none, (some ⟨a, 8, .r, false,
      false⟩), (some ⟨b, 1, .is, false, false⟩), none, (if ef then some (0#27 ++ k) else none), false, (ef || decide
      (k = 0#5)) && decide (k.toNat % 8 = 0)⟩
  | .unp8 c dst a => some ⟨c, false, 0x204#11, 0#8, (some (dst, 4)), none, (some ⟨a, 1, .rl, false, false⟩), none,
      none, none, true, true⟩
  | .unp4 c dst a b => some ⟨c, false, 0x205#11, 0#8, (some (dst, 8)), none, (some ⟨a, 1, .r, false, false⟩), (some
      ⟨b, 1, .is, false, false⟩), none, none, true, true⟩
  | .unp2 c dst a => some ⟨c, false, 0x206#11, 0#8, (some (dst, 2)), none, (some ⟨a, 1, .rl, false, false⟩), none,
      none, none, true, true⟩
  | .sclrd c dst a => some ⟨c, false, 0x207#11, 0#8, (some (dst, 1)), none, (some ⟨a, 1, .r, false, false⟩), none,
      none, none, true, true⟩
  | .sclwr c dst a b => some ⟨c, false, 0x208#11, 0#8, (some (dst, 1)), none, (some ⟨a, 1, .r, false, false⟩), (some
      ⟨b, 1, .any, false, false⟩), none, none, false, decide (a = .reg dst none false false)⟩
  | .tagrd c dst a => some ⟨c, false, 0x209#11, 0#8, (some (dst, 1)), none, (some ⟨a, 1, .any, false, false⟩), none,
      none, none, true, true⟩
  | .retag c tag dst a => some ⟨c, false, 0x20A#11, modRetag tag, (some (dst, 1)), none, (some ⟨a, 1, .any, false,
      false⟩), none, none, none, true, true⟩
  | .efmov c dir dst a k => some ⟨c, false, 0x20B#11, modDir dir, (if (!dir) then some (dst, 1) else none), none,
      (a.map (⟨·, 1, .rls, false, false⟩)), none, none, (some (0#27 ++ k)), !dir, ((!dir) || decide (dst = 0#7)) &&
      decide (a.isSome = dir)⟩
  | .icmp c u ty cond pd a b => some ⟨c, u, 0x280#11, modCmp ty cond, none, (some pd), (some ⟨a, ty.pair, .any, false,
      false⟩), (some ⟨b, ty.pair, .any, false, false⟩), none, none, !u, !cond.isOrd⟩
  | .fcmp c un cond pd a b => some ⟨c, false, 0x281#11, modFcmp un cond, none, (some pd), (some ⟨a, 1, .any, true,
      true⟩), (some ⟨b, 1, .any, true, true⟩), none, none, true, !(un && cond.isOrd)⟩
  | .sel c u selp seln pl dst a b => some ⟨c, u, 0x282#11, modSel selp seln pl, (some (dst, pl.count)), none, (some
      ⟨a, pl.count, .any, true, false⟩), (some ⟨b, pl.count, .any, true, false⟩), none, none, !u, plOk pl (a.mapped ||
      b.mapped)⟩
  | .pset c u pop pd x nx y ny => some ⟨c, u, 0x283#11, modPset pop, none, (some pd), none, none, none, (some (imm2P x
      nx y ny)), !u, true⟩
  | .pmov c dir dst a => some ⟨c, false, 0x284#11, modDir dir, (if (!dir) then some (dst, 1) else none), none, (a.map
      (⟨·, 1, .any, false, false⟩)), none, none, none, !dir, ((!dir) || decide (dst = 0#7)) && decide (a.isSome =
      dir)⟩
  | .shfl c mode dst a b => some ⟨c, false, 0x300#11, modShfl mode, (some (dst, 1)), none, (some ⟨a, 1, .any, false,
      false⟩), (some ⟨b, 1, .any, false, false⟩), none, none, true, true⟩
  | .bcast c dst a b => some ⟨c, false, 0x301#11, 0#8, (some (dst, 1)), none, (some ⟨a, 1, .any, false, false⟩), (some
      ⟨b, 1, .any, false, false⟩), none, none, true, true⟩
  | .vote c mode dst pd x nx => some ⟨c, false, 0x302#11, modVote mode, (some (dst, 1)), (some pd), none, none, none,
      (some (imm2P x nx 0#3 false)), true, true⟩
  | .red c lop lty dst a => some ⟨c, false, 0x303#11, modLane lop lty false, (some (dst, 1)), none, (some ⟨a, 1, .any,
      false, false⟩), none, none, none, true, laneOk lop lty⟩
  | .scan c lop lty excl dst a => some ⟨c, false, 0x304#11, modLane lop lty excl, (some (dst, 1)), none, (some ⟨a, 1,
      .any, false, false⟩), none, none, none, true, laneOk lop lty⟩
  | .matchv c dst a => some ⟨c, false, 0x305#11, 0#8, (some (dst, 1)), none, (some ⟨a, 1, .any, false, false⟩), none,
      none, none, true, true⟩
  | .rng c dst a b d => some ⟨c, false, 0x306#11, 0#8, (some (dst, 1)), none, (some ⟨a, 1, .rls, false, false⟩), (some
      ⟨b, 1, .is, false, false⟩), (some ⟨d, 1, .is, false, false⟩), none, true, true⟩
  | .mapbind c fmt q dst a m => some ⟨c, true, 0x380#11, modMap fmt q false, (some (dst, 1)), none, (some ⟨a, 1, .r,
      false, false⟩), none, none, (some (immMap m 0#5 0#3)), false, true⟩
  | .mapclr c q m => some ⟨c, true, 0x381#11, modMap .bf16 q false, none, none, none, none, none, (some (immMap m 0#5
      0#3)), false, true⟩
  | .mapmode c q full m => some ⟨c, true, 0x382#11, modMap .bf16 q full, none, none, none, none, none, (some (immMap m
      0#5 0#3)), false, true⟩
  | .mapscl c q a m => some ⟨c, true, 0x383#11, modMap .bf16 q false, none, none, (some ⟨a, 1, .r, false, false⟩),
      none, none, (some (immMap m 0#5 0#3)), false, true⟩
  | .maprd c qk dst m rw wd => some ⟨c, true, 0x384#11, modMap .bf16 (some qk) false, (some (dst, 1)), none, none,
      none, none, (some (immMap m rw wd)), false, true⟩
  | .ldl c w sx pol tag dst a disp => some ⟨c, false, 0x400#11, modLoad w sx pol tag, (some (dst, w.regs)), none,
      (some ⟨a, 1, .rls, false, false⟩), none, none, (some (disp)), false, loadOk w sx tag⟩
  | .stl c w pol a b disp => some ⟨c, false, 0x401#11, modStore w pol, none, none, (some ⟨a, 1, .rls, false, false⟩),
      (some ⟨b, w.regs, (.data w.regs), false, false⟩), none, (some (disp)), false, true⟩
  | .atoml c op ty dst a b d disp => some ⟨c, false, 0x402#11, modAtom op ty, (some (dst, ty.regs)), none, (some ⟨a,
      1, .rls, false, false⟩), (some ⟨b, ty.regs, .rls, false, false⟩), (d.map (⟨·, ty.regs, .rls, false, false⟩)),
      (some (disp)), false, decide (d.isSome = op.isCas) && atomOk op ty⟩
  | .ldm c w sx pol tag dst a disp => some ⟨c, false, 0x403#11, modLoad w sx pol tag, (some (dst, w.regs)), none,
      (some ⟨a, 2, .rs, false, false⟩), none, none, (some (disp)), false, loadOk w sx tag⟩
  | .stm c w pol a b disp => some ⟨c, false, 0x404#11, modStore w pol, none, none, (some ⟨a, 2, .rs, false, false⟩),
      (some ⟨b, w.regs, (.data w.regs), false, false⟩), none, (some (disp)), false, true⟩
  | .atomm c op ty dst a b d disp => some ⟨c, false, 0x405#11, modAtom op ty, (some (dst, ty.regs)), none, (some ⟨a,
      2, .rs, false, false⟩), (some ⟨b, ty.regs, .rls, false, false⟩), (d.map (⟨·, ty.regs, .rls, false, false⟩)),
      (some (disp)), false, decide (d.isSome = op.isCas) && atomOk op ty⟩
  | .ldg c w sx pol tag dst a b disp => some ⟨c, false, 0x480#11, modLoad w sx pol tag, (some (dst, w.regs)), none,
      (some ⟨a, 1, .s, false, false⟩), (some ⟨b, 1, .rls, false, false⟩), none, (some (disp)), false, loadOk w sx tag⟩
  | .stg c w pol a b d disp => some ⟨c, false, 0x481#11, modStore w pol, none, none, (some ⟨a, 1, .s, false, false⟩),
      (some ⟨b, 1, .rls, false, false⟩), (some ⟨d, w.regs, (.data w.regs), false, false⟩), (some (disp)), false, true⟩
  | .ldro c w sx pol tag dst a b disp => some ⟨c, false, 0x482#11, modLoad w sx pol tag, (some (dst, w.regs)), none,
      (some ⟨a, 1, .s, false, false⟩), (some ⟨b, 1, .rls, false, false⟩), none, (some (disp)), false, loadOk w sx tag⟩
  | .pref c pol a b disp => some ⟨c, false, 0x483#11, modStore .b8 pol, none, none, (some ⟨a, 1, .s, false, false⟩),
      (some ⟨b, 1, .rls, false, false⟩), none, (some (disp)), false, true⟩
  | .ldh c w sx pol tag dst a disp => some ⟨c, false, 0x500#11, modLoad w sx pol tag, (some (dst, w.regs)), none,
      (some ⟨a, 2, .rs, false, false⟩), none, none, (some (disp)), false, loadOk w sx tag⟩
  | .sth c w pol a b disp => some ⟨c, false, 0x501#11, modStore w pol, none, none, (some ⟨a, 2, .rs, false, false⟩),
      (some ⟨b, w.regs, (.data w.regs), false, false⟩), none, (some (disp)), false, true⟩
  | .ldx c w sx pol tag dst a disp => some ⟨c, false, 0x502#11, modLoad w sx pol tag, (some (dst, w.regs)), none,
      (some ⟨a, 2, .rs, false, false⟩), none, none, (some (disp)), false, loadOk w sx tag⟩
  | .stx c w pol a b disp => some ⟨c, false, 0x503#11, modStore w pol, none, none, (some ⟨a, 2, .rs, false, false⟩),
      (some ⟨b, w.regs, (.data w.regs), false, false⟩), none, (some (disp)), false, true⟩
  | .atom c op ty dst a b disp => some ⟨c, false, 0x580#11, modAtom op ty, (some (dst, ty.regs)), none, (some ⟨a, 2,
      .rs, false, false⟩), (some ⟨b, ty.regs, .rls, false, false⟩), none, (some (disp)), false, atomOk op ty &&
      !op.isCas⟩
  | .atomc c ty dst a b d disp => some ⟨c, false, 0x581#11, modAtom .add ty, (some (dst, ty.regs)), none, (some ⟨a, 2,
      .rs, false, false⟩), (some ⟨b, ty.regs, .rls, false, false⟩), (some ⟨d, ty.regs, .rls, false, false⟩), (some
      (disp)), false, !ty.isFloat⟩
  | .atomn c op ty a b disp => some ⟨c, false, 0x582#11, modAtom op ty, none, none, (some ⟨a, 2, .rs, false, false⟩),
      (some ⟨b, ty.regs, .rls, false, false⟩), none, (some (disp)), false, atomOk op ty && !op.isCas⟩
  | .abset8 c a b disp => some ⟨c, false, 0x583#11, 0#8, none, none, (some ⟨a, 2, .rs, false, false⟩), (some ⟨b, 2,
      .rs, false, false⟩), none, (some (disp)), false, true⟩
  | .abtst8 c dst a b disp => some ⟨c, false, 0x584#11, 0#8, (some (dst, 1)), none, (some ⟨a, 2, .rs, false, false⟩),
      (some ⟨b, 2, .rs, false, false⟩), none, (some (disp)), false, true⟩
  | .bput c a b disp => some ⟨c, false, 0x585#11, 0#8, none, none, (some ⟨a, 2, .rs, false, false⟩), (some ⟨b, 2, .rs,
      false, false⟩), none, (some (disp)), false, true⟩
  | .btake c dst a disp => some ⟨c, false, 0x586#11, 0#8, (some (dst, 2)), none, (some ⟨a, 2, .rs, false, false⟩),
      none, none, (some (disp)), false, true⟩
  | .bpeek c dst pd a disp => some ⟨c, false, 0x587#11, 0#8, (some (dst, 2)), (some pd), (some ⟨a, 2, .rs, false,
      false⟩), none, none, (some (disp)), false, true⟩
  | .binit c up a b disp => some ⟨c, false, 0x588#11, modDir up, none, none, (some ⟨a, 2, .rs, false, false⟩), (some
      ⟨b, 2, .rs, false, false⟩), none, (some (disp)), false, true⟩
  | .copy c dst a b d => some ⟨c, true, 0x600#11, 0#8, (some (dst, 1)), none, (some ⟨a, 1, .r, false, false⟩), (some
      ⟨b, 1, .r, false, false⟩), (some ⟨d, 1, .r, false, false⟩), none, false, true⟩
  | .publish c dst a => some ⟨c, true, 0x601#11, 0#8, (some (dst, 1)), none, (some ⟨a, 1, .r, false, false⟩), none,
      none, none, false, decide (a = .reg dst none false false)⟩
  | .cancel c dst a => some ⟨c, true, 0x602#11, 0#8, (some (dst, 1)), none, (some ⟨a, 1, .r, false, false⟩), none,
      none, none, false, decide (a = .reg dst none false false)⟩
  | .bar c bop lty rel acq vec dst a br sd sn => some ⟨c, false, 0x680#11, modBar bop lty rel acq vec, (if vec then
      some (dst, 1) else none), none, (a.map (⟨·, 1, .rls, false, false⟩)), none, none, (some (immBar br sd sn)),
      false, (vec || decide (dst = 0#7)) && decide (a.isSome = bop.isSome) && barOk bop lty vec sd⟩
  | .barU c bop lty rel acq a br sd sn => some ⟨c, true, 0x680#11, modBar bop lty rel acq false, none, none, (a.map
      (⟨·, 1, .r, false, false⟩)), none, none, (some (immBar br sd sn)), false, decide (a.isSome = bop.isSome) &&
      barOk bop lty false sd⟩
  | .bara c bop lty rel a br sn => some ⟨c, false, 0x681#11, modBar bop lty rel false false, none, none, (a.map (⟨·,
      1, .rls, false, false⟩)), none, none, (some (immBar br false sn)), false, decide (a.isSome = bop.isSome) &&
      barOk bop lty false false⟩
  | .baraU c bop lty rel a br sn => some ⟨c, true, 0x681#11, modBar bop lty rel false false, none, none, (a.map (⟨·,
      1, .r, false, false⟩)), none, none, (some (immBar br false sn)), false, decide (a.isSome = bop.isSome) && barOk
      bop lty false false⟩
  | .barw c acq vec dst br sd sn => some ⟨c, false, 0x682#11, modBar none .i32 false acq vec, (if vec then some (dst,
      1) else none), none, none, none, none, (some (immBar br sd sn)), false, (vec || decide (dst = 0#7))⟩
  | .barwU c acq br sd sn => some ⟨c, true, 0x682#11, modBar none .i32 false acq false, none, none, none, none, none,
      (some (immBar br sd sn)), false, true⟩
  | .barset c mask count n => some ⟨c, false, 0x683#11, 0#8, none, none, none, none, none, (some (immBarset mask count
      n)), false, barsetOk mask count⟩
  | .fence c sc ord => some ⟨c, false, 0x684#11, modFence sc ord, none, none, none, none, none, none, false, true⟩
  | .fenceU c sc ord => some ⟨c, true, 0x684#11, modFence sc ord, none, none, none, none, none, none, false, true⟩
  | .phase c => some ⟨c, true, 0x685#11, 0#8, none, none, none, none, none, none, false, true⟩
  | .txbegin c => some ⟨c, true, 0x686#11, 0#8, none, none, none, none, none, none, false, true⟩
  | .txend c dst => some ⟨c, true, 0x687#11, 0#8, (some (dst, 1)), none, none, none, none, none, false, true⟩
  | .txabort c => some ⟨c, true, 0x688#11, 0#8, none, none, none, none, none, none, false, true⟩
  | .srd c dst num => some ⟨c, false, 0x700#11, 0#8, (some (dst, srdRegs num)), none, none, none, none, (some (0#24 ++
      num)), false, srdOk false num⟩
  | .srdU c dst num => some ⟨c, true, 0x700#11, 0#8, (some (dst, 1)), none, none, none, none, (some (0#24 ++ num)),
      false, srdOk true num⟩
  | .swr c a num => some ⟨c, false, 0x701#11, 0#8, none, none, (some ⟨a, 1, .rls, false, false⟩), none, none, (some
      (0#24 ++ num)), false, srdOk false num⟩
  | .tfetch c dst => some ⟨c, true, 0x702#11, 0#8, (some (dst, 1)), none, none, none, none, none, false, decide
      (dst.toNat ≤ 60)⟩
  | .launch c dst a => some ⟨c, true, 0x703#11, 0#8, (some (dst, 1)), none, (some ⟨a, 1, .r, false, false⟩), none,
      none, none, false, true⟩
  | .tracemark c a code => some ⟨c, false, 0x704#11, 0#8, none, none, (some ⟨a, 1, .rs, false, false⟩), none, none,
      (some (0#16 ++ code)), false, true⟩
  | .ckpt c => some ⟨c, false, 0x705#11, 0#8, none, none, none, none, none, none, false, true⟩
  | .snap c dst => some ⟨c, true, 0x706#11, 0#8, (some (dst, 1)), none, none, none, none, none, false, true⟩
  | .unsnap c a => some ⟨c, true, 0x707#11, 0#8, none, none, (some ⟨a, 1, .r, false, false⟩), none, none, none, false,
      true⟩
  | .tlbinv c a scope => some ⟨c, false, 0x708#11, 0#8, none, none, (some ⟨a, 2, .rs, false, false⟩), none, none,
      (some (0#30 ++ scope)), false, decide (scope ≠ 3#2)⟩
  | .csave c a => some ⟨c, false, 0x709#11, 0#8, none, none, (some ⟨a, 2, .rs, false, false⟩), none, none, none,
      false, true⟩
  | .crest c a => some ⟨c, false, 0x70A#11, 0#8, none, none, (some ⟨a, 2, .rs, false, false⟩), none, none, none,
      false, true⟩
  | .signal c a ev => some ⟨c, false, 0x70B#11, 0#8, none, none, (some ⟨a, 1, .rs, false, false⟩), none, none, (some
      (0#27 ++ ev)), false, true⟩
  | .dqEntryTake => none
  | .stallDeferralEnd _ _ => none
  | .rejoinMerge _ _ => none
  | .gatherTimeout _ _ => none
  | .loadDataReturn _ _ _ _ => none
  | .meshAccessArrive _ => none
  | .meshAck _ => none
  | .serviceRequest _ => none
  | .atomReply _ => none
  | .waiterReissue _ => none
  | .mapPassComplete _ _ => none
  | .slotChangeEffect _ _ _ => none
  | .slotFillDone _ _ _ _ _ => none
  | .copyStart _ => none
  | .copyUnit _ _ => none
  | .copyDone _ => none
  | .barrierRelease _ => none
  | .commitComplete _ => none
  | .phaseEntryArrival _ _ => none
  | .peerCommit _ => none
  | .peerFrontierAck _ => none
  | .collector _ => none
  | .poolRelief => none
  | .vpoolTimeout => none
  | .clockWake _ => none
  | .sleepTimeout _ => none
  | .gangPlace _ => none
  | .gangAging _ => none
  | .gangplaceReport _ => none
  | .workgroupEnd _ _ => none
  | .gridEnd _ => none
  | .tileGrant _ => none
  | .sliceEnd _ => none
  | .preemptRequest _ _ => none
  | .contextSave _ _ => none
  | .contextRestore _ _ => none
  | .xlateResolved _ _ _ => none
  | .pageWalk _ => none
  | .dieFailed _ _ => none
  | .portDown _ _ => none
  | .firmwareDownload _ => none
  | .functionReady _ _ _ => none
  | .featureWrite _ _ _ => none
  | .wridx _ _ => none
  | .resume _ _ => none
  | .gridResume _ _ => none
  | .gridAbort _ _ => none
  | .registerWrite _ _ => none
  | .pktLaunch _ _ _ => none
  | .pktCopy _ _ _ _ _ => none
  | .waitbead _ _ _ => none
  | .putbead _ _ _ _ => none
  | .takebead _ _ _ => none
  | .snapshot _ _ => none
  | .snapshotRelease _ _ _ => none
  | .measure _ _ _ _ => none
  | .receipt _ _ _ _ _ => none
  | .pktFence _ _ => none
  | .indirect _ _ _ _ => none
  | .timestamp _ _ _ => none
  | .queueUnmap _ => none
  | .queueCreate _ => none
  | .partitionCreate _ => none
  | .partitionChange _ => none
  | .partitionRemove _ _ => none
  | .msiCoalesceExpiry _ => none
  | .debugStep _ => none
  | .debugResume _ => none
  | .debugRead _ _ => none
  | .breakpointHit _ => none
  | .ckptInterval _ => none
  | .rollback _ _ _ _ => none
  | .powerUp => none
  | .debugAttach _ => none
  | .debugDetach _ => none
  | .coreOutOfService _ => none
  | .vyhalLinkFailure _ => none
  | .scrubbing _ => none
  | .peerAccessArrive _ => none
  | .hostWriteAccept _ => none
  | .replayLogReadIndex _ _ => none

/-! ### The static check of R47 -/

def Kinds.reg : Kinds → Bool
  | .s | .is => false
  | _ => true

def Kinds.latch : Kinds → Bool
  | .any | .rls | .rl => true
  | .data n => decide (n = 1)
  | _ => false

def Kinds.imm : Kinds → Bool
  | .any | .is => true
  | _ => false

def Kinds.sreg : Kinds → Bool
  | .any | .rs | .rls | .s | .is => true
  | .data n => decide (n = 1)
  | _ => false

/-- Registers that a source names: a mapped source is one register, and every operand of a U form is one s-register. -/
def Use.group (u : Bool) (x : Use) : Nat := if u || x.src.mapped then 1 else x.n

/-- R35, R36 and R38 for one source. -/
def Use.ok (u fixed : Bool) (x : Use) : Bool :=
  (x.fl || !x.src.negAbs) &&
  match x.src with
  | .reg n m _ _ => x.kinds.reg && (m.isNone || (x.map && !u)) && decide (n.toNat % x.group u = 0) &&
      (!u || decide (n.toNat < 64))
  | .latch n _ _ => x.kinds.latch && !u && decide (n.toNat ≤ 2) && decide (x.n = 1)
  | .imm _ => x.kinds.imm && !fixed
  | .sreg n _ _ => x.kinds.sreg && !u && decide (n.toNat < 64)

/-- The first destination register. -/
def Shape.dstNum (p : Shape) : Nat := match p.dst with | some d => d.1.toNat | none => 0
/-- PD; 7 where the instruction has none. -/
def Shape.pdNum (p : Shape) : Nat := match p.pd with | some n => n.toNat | none => 7

/-- The sources that the word reads, in the order A, B, C. -/
def Shape.uses (p : Shape) : List Use := p.a.toList ++ p.b.toList ++ p.d.toList

/-- R26: with VER = 0 the CTL bits are zero. -/
def Ctl.ok (c : Ctl) : Bool := c.v1 || (decide (c.stall = 0#3) && !c.yld && !c.chain)

/-- R40: what a member other than the last of a chain may be. -/
def Shape.memberOk (p : Shape) : Bool :=
  p.ctl.wbs && decide (p.pd.getD 7#3 = 7#3) && decide (p.ctl.stall = 0#3) && !p.ctl.yld && p.chainOk &&
    match p.dst with
    | some (_, n) => decide (n = 1)
    | none => false

/-- R32: the destination. The side byte that SCLWR writes counts as its result (DEDUCED, log 52). -/
def Shape.dstOk (p : Shape) : Bool :=
  match p.dst with
  | none => !p.ctl.wbs
  | some (d, n) => if p.u then decide (d.toNat < 64) else decide (d.toNat % n = 0)

/-- The static conditions of R47. -/
def Shape.legal (p : Shape) : Bool :=
  p.ctl.ok && p.dstOk && p.uses.all (Use.ok p.u p.fixedImm.isSome) &&
    decide ((p.uses.filter (·.src.isImm)).length ≤ 1) && (!p.ctl.chain || p.memberOk) && p.extra

end Sys2Proof
end

