-- ==== Sys2Proof/WellFormed.lean ====
section
/-!
DEFINITION. Which word instructions are well-formed: those that meet the static conditions of R47 (`Shape.legal`). An event is
no word, and it is not well-formed in this sense.
-/
namespace Sys2Proof

/-- The instruction has a word, and that word raises no ILLEGAL by the static conditions of R47. -/
def WellFormed (i : Instr) : Bool :=
  match i.shape with
  | some p => p.legal
  | none => false

end Sys2Proof
end

