-- ==== Sys2Proof/Decode.lean ====
section
/-!
DEFINITION. The 128-bit word of R24, the encoder of well-formed instructions, and the decoder. The decoder is total: it reads the
fields the opcode map gives an opcode, and it answers an instruction only where that instruction is legal (R47) and its own
encoding is the word it was given, so that every reserved bit, every unread source field and an unused IMM must be zero.
-/
namespace Sys2Proof

/-- Why a word is not an instruction. Every one of them raises ILLEGAL (R47). -/
inductive Illegal where
  /-- VER 2 or 3 (R26). -/
  | version
  /-- Opcode 0x000, class 0xF, or an index not assigned (R31). -/
  | opcode
  /-- The opcode has no form for this U bit (R31). -/
  | form
  /-- A code of MOD, or of a fixed operand, that the layouts do not give (R43 to R46, R58, R62). -/
  | code
  /-- A reserved bit, an operand or a field outside its rule (R26, R32 to R41). -/
  | operand
  deriving DecidableEq, Repr

/-- The fields of R24. -/
structure Fields where
  ver : BitVec 2
  stall : BitVec 3
  yld : Bool
  chain : Bool
  r120 : BitVec 1
  u : Bool
  gn : Bool
  gp : BitVec 3
  op : BitVec 11
  mod : BitVec 8
  wbs : Bool
  dst : BitVec 7
  a : BitVec 16
  b : BitVec 16
  d : BitVec 16
  r35 : BitVec 5
  pd : BitVec 3
  imm : Word32
  deriving DecidableEq, Repr

/-- The word with these fields, R24. -/
def Fields.pack (f : Fields) : BitVec 128 :=
  f.ver ++ f.stall ++ bit f.yld ++ bit f.chain ++ f.r120 ++ bit f.u ++ bit f.gn ++ f.gp ++ f.op ++ f.mod ++ bit f.wbs ++ f.dst ++
    f.a ++ f.b ++ f.d ++ f.r35 ++ f.pd ++ f.imm

/-- The fields of a word, R24. -/
def Fields.unpack (w : BitVec 128) : Fields where
  ver := w.extractLsb' 126 2
  stall := w.extractLsb' 123 3
  yld := w.getLsbD 122
  chain := w.getLsbD 121
  r120 := w.extractLsb' 120 1
  u := w.getLsbD 119
  gn := w.getLsbD 118
  gp := w.extractLsb' 115 3
  op := w.extractLsb' 104 11
  mod := w.extractLsb' 96 8
  wbs := w.getLsbD 95
  dst := w.extractLsb' 88 7
  a := w.extractLsb' 72 16
  b := w.extractLsb' 56 16
  d := w.extractLsb' 40 16
  r35 := w.extractLsb' 35 5
  pd := w.extractLsb' 32 3
  imm := w.extractLsb' 0 32

def Fields.ctl (f : Fields) : Ctl := ⟨decide (f.ver = 1#2), f.stall, f.yld, f.chain, f.gn, f.gp, f.wbs⟩

/-! ### Sources, R34 -/

/-- KIND, NUM, MAP, SLOT, NEG, ABS and the reserved bit. -/
def Src.pack : Src → BitVec 16
  | .reg n m neg abs => 0#2 ++ n ++ bit m.isSome ++ m.getD 0#3 ++ bit neg ++ bit abs ++ 0#1
  | .latch n neg abs => 1#2 ++ n ++ 0#4 ++ bit neg ++ bit abs ++ 0#1
  | .imm _ => 2#2 ++ 0#14
  | .sreg n neg abs => 3#2 ++ n ++ 0#4 ++ bit neg ++ bit abs ++ 0#1

/-- The source in a field; a KIND 10 source reads IMM. -/
def unSrc (imm : Word32) (s : BitVec 16) : Src :=
  let n := s.extractLsb' 7 7
  let neg := s.getLsbD 2
  let abs := s.getLsbD 1
  match (s.extractLsb' 14 2).toNat with
  | 0 => .reg n (if s.getLsbD 6 then some (s.extractLsb' 3 3) else none) neg abs
  | 1 => .latch n neg abs
  | 2 => .imm imm
  | _ => .sreg n neg abs

/-- A source that is read only under a condition (R35). -/
def unSrcIf (c : Bool) (imm : Word32) (s : BitVec 16) : Option Src := if c then some (unSrc imm s) else none

/-! ### The encoder -/

/-- IMM: the fixed operand, or what a KIND 10 source reads, or zero (R39). -/
def Shape.imm (p : Shape) : Word32 :=
  match p.fixedImm with
  | some v => v
  | none =>
    match p.uses.find? (·.src.isImm) with
    | some ⟨.imm v, _, _, _, _⟩ => v
    | _ => 0#32

def packUse : Option Use → BitVec 16
  | some x => x.src.pack
  | none => 0#16

/-- The word of an instruction with this shape. -/
def Shape.fields (p : Shape) : Fields where
  ver := if p.ctl.v1 then 1#2 else 0#2
  stall := p.ctl.stall
  yld := p.ctl.yld
  chain := p.ctl.chain
  r120 := 0#1
  u := p.u
  gn := p.ctl.gn
  gp := p.ctl.gp
  op := p.op
  mod := p.mod
  wbs := p.ctl.wbs
  dst := match p.dst with
    | some (d, _) => d
    | none => 0#7
  a := packUse p.a
  b := packUse p.b
  d := packUse p.d
  r35 := 0#5
  pd := p.pd.getD 7#3
  imm := p.imm

/-- The 128-bit word of a word instruction; zero for an event, which has none. -/
def encode (i : Instr) : BitVec 128 :=
  match i.shape with
  | some p => p.fields.pack
  | none => 0#128

/-! ### Codes of the MOD fields -/

def Rnd.ofCode (n : BitVec 3) : Option Rnd :=
  match n.toNat with
  | 0 => some .rne | 1 => some .rz | 2 => some .rd | 3 => some .ru | 4 => some .rna | 5 => some .ef | _ => none

def Cond.ofCode (n : BitVec 3) : Cond :=
  match n.toNat with
  | 0 => .eq | 1 => .ne | 2 => .lt | 3 => .le | 4 => .gt | 5 => .ge | 6 => .ord | _ => .uno

def CvtDir.ofCode (n : BitVec 2) : CvtDir :=
  match n.toNat with
  | 0 => .f32ToI32 | 1 => .f32ToN32 | 2 => .i32ToF32 | _ => .n32ToF32

def Pop.ofCode (n : BitVec 2) : Option Pop :=
  match n.toNat with
  | 0 => some .and | 1 => some .or | 2 => some .xor | _ => none

def ShflMode.ofCode (n : BitVec 2) : ShflMode :=
  match n.toNat with
  | 0 => .idx | 1 => .up | 2 => .down | _ => .xor

def VoteMode.ofCode (n : BitVec 2) : VoteMode :=
  match n.toNat with
  | 0 => .any | 1 => .all | 2 => .eq | _ => .ballot

def Lop.byCode : Nat → Option Lop
  | 0 => some .add | 1 => some .min | 2 => some .max | 3 => some .and | 4 => some .or | 5 => some .xor | _ => none

def bopOf (n : BitVec 3) : Option (Option Lop) :=
  match n.toNat with
  | 0 => some none
  | k + 1 => (Lop.byCode k).map some

def LTy.ofCode (n : BitVec 2) : Option LTy :=
  match n.toNat with
  | 0 => some .i32 | 1 => some .n32 | 2 => some .f32 | _ => none

def SlotFmt.ofCode (n : BitVec 3) : Option SlotFmt :=
  match n.toNat with
  | 0 => some .bf16 | 1 => some .f16 | 2 => some .e4m3 | 3 => some .e5m2 | 4 => some .f4b | _ => none

def AOp.ofCode (n : BitVec 3) : AOp :=
  match n.toNat with
  | 0 => .add | 1 => .min | 2 => .max | 3 => .and | 4 => .or | 5 => .xor | 6 => .exch | _ => .cas

def ATy.ofCode (n : BitVec 3) : Option ATy :=
  match n.toNat with
  | 0 => some .i32 | 1 => some .n32 | 2 => some .i64 | 3 => some .n64 | 4 => some .f32 | 5 => some .bf16x2 | 6 => some .f16x2
  | _ => none

def Tag.byCode : Nat → Option Tag
  | 0 => some .int | 1 => some .f32 | 2 => some .f16x2 | 3 => some .bf16x2 | 4 => some .e4m3x4 | 5 => some .e5m2x4
  | 6 => some .f4b | _ => none

def Width.ofCode (n : BitVec 3) : Option Width :=
  match n.toNat with
  | 0 => some .b8 | 1 => some .b16 | 2 => some .b32 | 3 => some .b64 | 4 => some .b128 | _ => none

def Scope.ofCode (n : BitVec 3) : Option Scope :=
  match n.toNat with
  | 0 => some .frame | 1 => some .core | 2 => some .cluster | 3 => some .die | 4 => some .package | 5 => some .system | _ => none

def Order.ofCode (n : BitVec 2) : Order :=
  match n.toNat with
  | 0 => .acq | 1 => .rel | 2 => .ar | _ => .sc

def Planes.ofCode (n : BitVec 2) : Planes :=
  match n.toNat with
  | 0 => .x1 | 1 => .x2 | 2 => .x4 | _ => .x8

def ITy.ofBits (w64 uns : Bool) : ITy :=
  match w64, uns with
  | false, false => .i32 | false, true => .n32 | true, false => .i64 | true, true => .n64

/-! ### The fields of each MOD layout -/

def unNone (_ : BitVec 8) : Option Unit := some ()
def unInt (m : BitVec 8) : Option (ITy × Bool × BitVec 3) :=
  some (.ofBits (m.getLsbD 7) (m.getLsbD 6), m.getLsbD 5, m.extractLsb' 2 3)
def unLea (m : BitVec 8) : Option (Bool × BitVec 3) := some (m.getLsbD 7, m.extractLsb' 3 3)
def unF32 (m : BitVec 8) : Option (Rnd × Bool × Planes) :=
  (Rnd.ofCode (m.extractLsb' 5 3)).map (·, m.getLsbD 4, .ofCode (m.extractLsb' 0 2))
def unH2 (m : BitVec 8) : Option (Rnd × Bool × Bool) :=
  (Rnd.ofCode (m.extractLsb' 5 3)).map (·, m.getLsbD 4, m.getLsbD 3)
def unHcmp (m : BitVec 8) : Option (Cond × Bool × Bool) := some (.ofCode (m.extractLsb' 5 3), m.getLsbD 4, m.getLsbD 3)
def unCvt (m : BitVec 8) : Option (Rnd × Bool × CvtDir × Planes) :=
  (Rnd.ofCode (m.extractLsb' 5 3)).map (·, m.getLsbD 4, .ofCode (m.extractLsb' 2 2), .ofCode (m.extractLsb' 0 2))
def unCvt2 (m : BitVec 8) : Option (Rnd × Bool × Bool × Planes) :=
  (Rnd.ofCode (m.extractLsb' 5 3)).map (·, m.getLsbD 4, m.getLsbD 3, .ofCode (m.extractLsb' 0 2))
def unCvt4 (m : BitVec 8) : Option Bool := some (m.getLsbD 5)
def unRetag (m : BitVec 8) : Option Tag := Tag.byCode (m.extractLsb' 0 4).toNat
def unDir (m : BitVec 8) : Option Bool := some (m.getLsbD 0)
def unCmp (m : BitVec 8) : Option (ITy × Cond) := some (.ofBits (m.getLsbD 7) (m.getLsbD 6), .ofCode (m.extractLsb' 3 3))
def unFcmp (m : BitVec 8) : Option (Bool × Cond) := some (m.getLsbD 6, .ofCode (m.extractLsb' 3 3))
def unSel (m : BitVec 8) : Option (BitVec 3 × Bool × Planes) :=
  some (m.extractLsb' 4 3, m.getLsbD 3, .ofCode (m.extractLsb' 0 2))
def unPset (m : BitVec 8) : Option Pop := Pop.ofCode (m.extractLsb' 4 2)
def unShfl (m : BitVec 8) : Option ShflMode := some (.ofCode (m.extractLsb' 6 2))
def unVote (m : BitVec 8) : Option VoteMode := some (.ofCode (m.extractLsb' 6 2))
def unLane (m : BitVec 8) : Option (Lop × LTy × Bool) :=
  match Lop.byCode (m.extractLsb' 5 3).toNat, LTy.ofCode (m.extractLsb' 3 2) with
  | some l, some t => some (l, t, m.getLsbD 2)
  | _, _ => none
def unBar (m : BitVec 8) : Option (Option Lop × LTy × Bool × Bool × Bool) :=
  match bopOf (m.extractLsb' 5 3), LTy.ofCode (m.extractLsb' 3 2) with
  | some o, some t => some (o, t, m.getLsbD 2, m.getLsbD 1, m.getLsbD 0)
  | _, _ => none
def unMap (m : BitVec 8) : Option (SlotFmt × QuadSel × Bool) :=
  (SlotFmt.ofCode (m.extractLsb' 5 3)).map (·, (if m.getLsbD 4 then some (m.extractLsb' 2 2) else none), m.getLsbD 0)
def unLoad (m : BitVec 8) : Option (Width × Bool × BitVec 2 × Tag) :=
  match Width.ofCode (m.extractLsb' 5 3) with
  | none => none
  | some w =>
    if w.narrow then some (w, m.getLsbD 4, m.extractLsb' 2 2, .int)
    else (Tag.byCode ((m.extractLsb' 4 1).toNat * 4 + (m.extractLsb' 0 2).toNat)).map (w, false, m.extractLsb' 2 2, ·)
def unStore (m : BitVec 8) : Option (Width × BitVec 2) := (Width.ofCode (m.extractLsb' 5 3)).map (·, m.extractLsb' 2 2)
def unAtom (m : BitVec 8) : Option (AOp × ATy) := (ATy.ofCode (m.extractLsb' 2 3)).map (AOp.ofCode (m.extractLsb' 5 3), ·)
def unFence (m : BitVec 8) : Option (Scope × Order) := (Scope.ofCode (m.extractLsb' 5 3)).map (·, .ofCode (m.extractLsb' 3 2))

/-! ### The fixed operands of IMM -/

def unRaw (v : Word32) : Option Word32 := some v
def unImm16 (v : Word32) : Option (BitVec 16) := some (v.extractLsb' 0 16)
def unImm10 (v : Word32) : Option (BitVec 10) := some (v.extractLsb' 0 10)
def unImm8 (v : Word32) : Option (BitVec 8) := some (v.extractLsb' 0 8)
def unImm5 (v : Word32) : Option (BitVec 5) := some (v.extractLsb' 0 5)
def unImm2 (v : Word32) : Option (BitVec 2) := some (v.extractLsb' 0 2)
def unImm2P (v : Word32) : Option (BitVec 3 × Bool × BitVec 3 × Bool) :=
  some (v.extractLsb' 0 3, v.getLsbD 3, v.extractLsb' 4 3, v.getLsbD 7)
def unImmMap (v : Word32) : Option (BitVec 3 × BitVec 5 × BitVec 3) :=
  some (v.extractLsb' 0 3, v.extractLsb' 3 5, v.extractLsb' 8 3)
def unImmBar (v : Word32) : Option (BarRef × Bool × BitVec 6) :=
  let b : Option BarRef :=
    match (v.extractLsb' 4 2).toNat with
    | 0 => some (.core (v.extractLsb' 0 4))
    | 1 => some (.cluster (v.extractLsb' 0 3))
    | 2 => some (.grid (v.extractLsb' 0 2))
    | _ => none
  b.map (·, v.getLsbD 31, v.extractLsb' 24 6)
def unImmBarset (v : Word32) : Option (BitVec 17 × BitVec 5 × BitVec 4) :=
  some (v.extractLsb' 15 17, v.extractLsb' 10 5, v.extractLsb' 0 4)

/-! ### The opcode map, R50 to R58 -/

/-- What the opcode map says of an opcode for this U bit. -/
abbrev Row := Except Illegal Instr

def inBoth (x : Option Instr) : Row :=
  match x with
  | some i => .ok i
  | none => .error .code

def inFrame (f : Fields) (x : Option Instr) : Row := if f.u then .error .form else inBoth x

def inReckoner (f : Fields) (x : Option Instr) : Row := if f.u then inBoth x else .error .form

def byForm (f : Fields) (fr re : Option Instr) : Row := if f.u then inBoth re else inBoth fr

/-- Class 0x0, control, R50. -/
def decodeClass0 (f : Fields) : Row :=
  match (f.op.extractLsb' 0 7).toNat with
  | 0 => inBoth do
      some (.und f.ctl f.u)
  | 1 => byForm f
      (do
        some (.nop f.ctl))
      (do
        some (.nopU f.ctl))
  | 2 => byForm f
      (do
        let off ← unRaw f.imm
        some (.bra f.ctl off))
      (do
        let off ← unRaw f.imm
        some (.braU f.ctl off))
  | 3 => inFrame f do
      some (.brx f.ctl (unSrc f.imm f.a))
  | 4 => inFrame f do
      let off ← unRaw f.imm
      some (.call f.ctl f.dst off)
  | 5 => inFrame f do
      some (.callx f.ctl f.dst (unSrc f.imm f.a))
  | 6 => inFrame f do
      some (.ret f.ctl (unSrc f.imm f.a))
  | 7 => byForm f
      (do
        some (.exit f.ctl (unSrc f.imm f.a)))
      (do
        some (.exitU f.ctl (unSrc f.imm f.a)))
  | 8 => byForm f
      (do
        some (.trap f.ctl (unSrc f.imm f.a)))
      (do
        some (.trapU f.ctl (unSrc f.imm f.a)))
  | 9 => inFrame f do
      let code ← unImm16 f.imm
      some (.brk f.ctl code)
  | 10 => inFrame f do
      some (.rejoin f.ctl)
  | 11 => inFrame f do
      some (.yld f.ctl)
  | 12 => byForm f
      (do
        some (.sleep f.ctl (unSrc f.imm f.a)))
      (do
        some (.sleepU f.ctl (unSrc f.imm f.a)))
  | _ => .error .opcode

/-- Class 0x1, integer, R51. -/
def decodeClass1 (f : Fields) : Row :=
  match (f.op.extractLsb' 0 7).toNat with
  | 0 => inBoth do
      let (ty, _, _) ← unInt f.mod
      some (.mov f.ctl f.u ty f.dst (unSrc f.imm f.a))
  | 1 => inBoth do
      let (ty, _, _) ← unInt f.mod
      let v ← unRaw f.imm
      some (.movi f.ctl f.u ty f.dst v)
  | 2 => inBoth do
      let (ty, cin, cinp) ← unInt f.mod
      some (.iadd f.ctl f.u ty cin cinp f.dst f.pd (unSrc f.imm f.a) (unSrc f.imm f.b))
  | 3 => inBoth do
      let (ty, cin, cinp) ← unInt f.mod
      some (.isub f.ctl f.u ty cin cinp f.dst f.pd (unSrc f.imm f.a) (unSrc f.imm f.b))
  | 4 => inBoth do
      let (ty, _, _) ← unInt f.mod
      some (.imul f.ctl f.u ty f.dst (unSrc f.imm f.a) (unSrc f.imm f.b))
  | 5 => inBoth do
      let (ty, _, _) ← unInt f.mod
      some (.imulh f.ctl f.u ty f.dst (unSrc f.imm f.a) (unSrc f.imm f.b))
  | 6 => inBoth do
      let (ty, _, _) ← unInt f.mod
      some (.imad f.ctl f.u ty f.dst (unSrc f.imm f.a) (unSrc f.imm f.b) (unSrc f.imm f.d))
  | 7 => inBoth do
      let (ty, _, _) ← unInt f.mod
      some (.imadw f.ctl f.u ty f.dst (unSrc f.imm f.a) (unSrc f.imm f.b) (unSrc f.imm f.d))
  | 8 => inBoth do
      let (ty, _, _) ← unInt f.mod
      some (.idiv f.ctl f.u ty f.dst (unSrc f.imm f.a) (unSrc f.imm f.b))
  | 9 => inBoth do
      let (ty, _, _) ← unInt f.mod
      some (.irem f.ctl f.u ty f.dst (unSrc f.imm f.a) (unSrc f.imm f.b))
  | 10 => inBoth do
      let (ty, _, _) ← unInt f.mod
      some (.imin f.ctl f.u ty f.dst (unSrc f.imm f.a) (unSrc f.imm f.b))
  | 11 => inBoth do
      let (ty, _, _) ← unInt f.mod
      some (.imax f.ctl f.u ty f.dst (unSrc f.imm f.a) (unSrc f.imm f.b))
  | 12 => inBoth do
      let (ty, _, _) ← unInt f.mod
      some (.iabs f.ctl f.u ty f.dst (unSrc f.imm f.a))
  | 13 => inBoth do
      let (ty, _, _) ← unInt f.mod
      some (.and f.ctl f.u ty f.dst (unSrc f.imm f.a) (unSrc f.imm f.b))
  | 14 => inBoth do
      let (ty, _, _) ← unInt f.mod
      some (.or f.ctl f.u ty f.dst (unSrc f.imm f.a) (unSrc f.imm f.b))
  | 15 => inBoth do
      let (ty, _, _) ← unInt f.mod
      some (.xor f.ctl f.u ty f.dst (unSrc f.imm f.a) (unSrc f.imm f.b))
  | 16 => inBoth do
      let (ty, _, _) ← unInt f.mod
      some (.not f.ctl f.u ty f.dst (unSrc f.imm f.a))
  | 17 => inBoth do
      let (ty, _, _) ← unInt f.mod
      some (.shl f.ctl f.u ty f.dst (unSrc f.imm f.a) (unSrc f.imm f.b))
  | 18 => inBoth do
      let (ty, _, _) ← unInt f.mod
      some (.shr f.ctl f.u ty f.dst (unSrc f.imm f.a) (unSrc f.imm f.b))
  | 19 => inBoth do
      let (ty, _, _) ← unInt f.mod
      some (.sar f.ctl f.u ty f.dst (unSrc f.imm f.a) (unSrc f.imm f.b))
  | 20 => inBoth do
      let (ty, _, _) ← unInt f.mod
      some (.fshl f.ctl f.u ty f.dst (unSrc f.imm f.a) (unSrc f.imm f.b) (unSrc f.imm f.d))
  | 21 => inBoth do
      let (ty, _, _) ← unInt f.mod
      some (.fshr f.ctl f.u ty f.dst (unSrc f.imm f.a) (unSrc f.imm f.b) (unSrc f.imm f.d))
  | 22 => inBoth do
      let (ty, _, _) ← unInt f.mod
      some (.popc f.ctl f.u ty f.dst (unSrc f.imm f.a))
  | 23 => inBoth do
      let (ty, _, _) ← unInt f.mod
      some (.clz f.ctl f.u ty f.dst (unSrc f.imm f.a))
  | 24 => inBoth do
      let (ty, _, _) ← unInt f.mod
      some (.ctz f.ctl f.u ty f.dst (unSrc f.imm f.a))
  | 25 => inBoth do
      let (ty, _, _) ← unInt f.mod
      some (.brev f.ctl f.u ty f.dst (unSrc f.imm f.a))
  | 26 => inBoth do
      let (ty, _, _) ← unInt f.mod
      some (.bfx f.ctl f.u ty f.dst (unSrc f.imm f.a) (unSrc f.imm f.b) (unSrc f.imm f.d))
  | 27 => inBoth do
      let (ty, _, _) ← unInt f.mod
      some (.bfi f.ctl f.u ty f.dst (unSrc f.imm f.a) (unSrc f.imm f.b) (unSrc f.imm f.d))
  | 28 => inBoth do
      let (ty, _, _) ← unInt f.mod
      some (.bpick f.ctl f.u ty f.dst (unSrc f.imm f.a) (unSrc f.imm f.b) (unSrc f.imm f.d))
  | 29 => inBoth do
      let (w64, sh) ← unLea f.mod
      some (.lea f.ctl f.u w64 sh f.dst (unSrc f.imm f.a) (unSrc f.imm f.b))
  | 30 => inBoth do
      let (ty, _, _) ← unInt f.mod
      some (.iadd3 f.ctl f.u ty f.dst f.pd (unSrc f.imm f.a) (unSrc f.imm f.b) (unSrc f.imm f.d))
  | _ => .error .opcode

/-- Class 0x2, FP32, R52. -/
def decodeClass2 (f : Fields) : Row :=
  match (f.op.extractLsb' 0 7).toNat with
  | 0 => inFrame f do
      let (rnd, _, pl) ← unF32 f.mod
      some (.fadd f.ctl rnd pl f.dst (unSrc f.imm f.a) (unSrc f.imm f.b))
  | 1 => inFrame f do
      let (rnd, _, pl) ← unF32 f.mod
      some (.fsub f.ctl rnd pl f.dst (unSrc f.imm f.a) (unSrc f.imm f.b))
  | 2 => inFrame f do
      let (rnd, _, pl) ← unF32 f.mod
      some (.fmul f.ctl rnd pl f.dst (unSrc f.imm f.a) (unSrc f.imm f.b))
  | 3 => inFrame f do
      let (rnd, _, pl) ← unF32 f.mod
      some (.ffma f.ctl rnd pl f.dst (unSrc f.imm f.a) (unSrc f.imm f.b) (unSrc f.imm f.d))
  | 4 => inFrame f do
      let (_, nan, pl) ← unF32 f.mod
      some (.fmin f.ctl nan pl f.dst (unSrc f.imm f.a) (unSrc f.imm f.b))
  | 5 => inFrame f do
      let (_, nan, pl) ← unF32 f.mod
      some (.fmax f.ctl nan pl f.dst (unSrc f.imm f.a) (unSrc f.imm f.b))
  | 6 => inFrame f do
      let (rnd, _, _) ← unF32 f.mod
      some (.fdiv f.ctl rnd f.dst (unSrc f.imm f.a) (unSrc f.imm f.b))
  | 7 => inFrame f do
      let (rnd, _, _) ← unF32 f.mod
      some (.fsqrt f.ctl rnd f.dst (unSrc f.imm f.a))
  | 8 => inFrame f do
      let (rnd, _, _) ← unF32 f.mod
      some (.frcp f.ctl rnd f.dst (unSrc f.imm f.a))
  | 9 => inFrame f do
      let (rnd, _, _) ← unF32 f.mod
      some (.frsq f.ctl rnd f.dst (unSrc f.imm f.a))
  | 10 => inFrame f do
      let (rnd, _, _) ← unF32 f.mod
      some (.fexp2 f.ctl rnd f.dst (unSrc f.imm f.a))
  | 11 => inFrame f do
      let (rnd, _, _) ← unF32 f.mod
      some (.flog2 f.ctl rnd f.dst (unSrc f.imm f.a))
  | 12 => inFrame f do
      let (rnd, _, _) ← unF32 f.mod
      some (.fsinpi f.ctl rnd f.dst (unSrc f.imm f.a))
  | 13 => inFrame f do
      let (rnd, _, _) ← unF32 f.mod
      some (.fcospi f.ctl rnd f.dst (unSrc f.imm f.a))
  | 14 => inFrame f do
      let (rnd, _, _) ← unF32 f.mod
      some (.ftanh f.ctl rnd f.dst (unSrc f.imm f.a))
  | 15 => inFrame f do
      let (rnd, _, _) ← unF32 f.mod
      some (.frnd f.ctl rnd f.dst (unSrc f.imm f.a))
  | 16 => inFrame f do
      let (_, _, _) ← unF32 f.mod
      some (.ffrc f.ctl f.dst (unSrc f.imm f.a))
  | 17 => inFrame f do
      let mask ← unImm10 f.imm
      some (.fcls f.ctl f.pd (unSrc f.imm f.a) mask)
  | 18 => inFrame f do
      let (rnd, _, _) ← unF32 f.mod
      some (.fscl f.ctl rnd f.dst (unSrc f.imm f.a) (unSrc f.imm f.b))
  | _ => .error .opcode

/-- Class 0x3, packed 16-bit, R52. -/
def decodeClass3 (f : Fields) : Row :=
  match (f.op.extractLsb' 0 7).toNat with
  | 0 => inFrame f do
      let (rnd, _, bf) ← unH2 f.mod
      some (.hadd2 f.ctl rnd bf f.dst (unSrc f.imm f.a) (unSrc f.imm f.b))
  | 1 => inFrame f do
      let (rnd, _, bf) ← unH2 f.mod
      some (.hsub2 f.ctl rnd bf f.dst (unSrc f.imm f.a) (unSrc f.imm f.b))
  | 2 => inFrame f do
      let (rnd, _, bf) ← unH2 f.mod
      some (.hmul2 f.ctl rnd bf f.dst (unSrc f.imm f.a) (unSrc f.imm f.b))
  | 3 => inFrame f do
      let (rnd, _, bf) ← unH2 f.mod
      some (.hfma2 f.ctl rnd bf f.dst (unSrc f.imm f.a) (unSrc f.imm f.b) (unSrc f.imm f.d))
  | 4 => inFrame f do
      let (_, nan, bf) ← unH2 f.mod
      some (.hmin2 f.ctl nan bf f.dst (unSrc f.imm f.a) (unSrc f.imm f.b))
  | 5 => inFrame f do
      let (_, nan, bf) ← unH2 f.mod
      some (.hmax2 f.ctl nan bf f.dst (unSrc f.imm f.a) (unSrc f.imm f.b))
  | 6 => inFrame f do
      let (rnd, _, bf) ← unH2 f.mod
      some (.hdot2 f.ctl rnd bf f.dst (unSrc f.imm f.a) (unSrc f.imm f.b) (unSrc f.imm f.d))
  | 7 => inFrame f do
      let (cond, un, bf) ← unHcmp f.mod
      some (.hcmp2 f.ctl cond un bf f.dst (unSrc f.imm f.a) (unSrc f.imm f.b))
  | 8 => inFrame f do
      let (rnd, _, bf) ← unH2 f.mod
      some (.hxcvt2 f.ctl rnd bf f.dst (unSrc f.imm f.a))
  | _ => .error .opcode

/-- Class 0x4, narrow and conversion, R53. -/
def decodeClass4 (f : Fields) : Row :=
  match (f.op.extractLsb' 0 7).toNat with
  | 0 => inFrame f do
      let (rnd, sat, dir, pl) ← unCvt f.mod
      let k ← (if decide (rnd = .ef) then unImm5 f.imm else some 0#5)
      some (.cvt f.ctl rnd sat dir pl f.dst (unSrc f.imm f.a) k)
  | 1 => inFrame f do
      let (rnd, sat, alt, pl) ← unCvt2 f.mod
      let k ← (if decide (rnd = .ef) then unImm5 f.imm else some 0#5)
      some (.cvt2 f.ctl rnd sat alt pl f.dst (unSrc f.imm f.a) k)
  | 2 => inFrame f do
      let (rnd, sat, alt, pl) ← unCvt2 f.mod
      let k ← (if decide (rnd = .ef) then unImm5 f.imm else some 0#5)
      some (.cvt8 f.ctl rnd sat alt pl f.dst (unSrc f.imm f.a) k)
  | 3 => inFrame f do
      let ef ← unCvt4 f.mod
      let k ← (if ef then unImm5 f.imm else some 0#5)
      some (.cvt4 f.ctl ef f.dst (unSrc f.imm f.a) (unSrc f.imm f.b) k)
  | 4 => inFrame f do
      some (.unp8 f.ctl f.dst (unSrc f.imm f.a))
  | 5 => inFrame f do
      some (.unp4 f.ctl f.dst (unSrc f.imm f.a) (unSrc f.imm f.b))
  | 6 => inFrame f do
      some (.unp2 f.ctl f.dst (unSrc f.imm f.a))
  | 7 => inFrame f do
      some (.sclrd f.ctl f.dst (unSrc f.imm f.a))
  | 8 => inFrame f do
      some (.sclwr f.ctl f.dst (unSrc f.imm f.a) (unSrc f.imm f.b))
  | 9 => inFrame f do
      some (.tagrd f.ctl f.dst (unSrc f.imm f.a))
  | 10 => inFrame f do
      let tag ← unRetag f.mod
      some (.retag f.ctl tag f.dst (unSrc f.imm f.a))
  | 11 => inFrame f do
      let dir ← unDir f.mod
      let k ← unImm5 f.imm
      some (.efmov f.ctl dir f.dst (unSrcIf (dir) f.imm f.a) k)
  | _ => .error .opcode

/-- Class 0x5, compare and select, R54. -/
def decodeClass5 (f : Fields) : Row :=
  match (f.op.extractLsb' 0 7).toNat with
  | 0 => inBoth do
      let (ty, cond) ← unCmp f.mod
      some (.icmp f.ctl f.u ty cond f.pd (unSrc f.imm f.a) (unSrc f.imm f.b))
  | 1 => inFrame f do
      let (un, cond) ← unFcmp f.mod
      some (.fcmp f.ctl un cond f.pd (unSrc f.imm f.a) (unSrc f.imm f.b))
  | 2 => inBoth do
      let (selp, seln, pl) ← unSel f.mod
      some (.sel f.ctl f.u selp seln pl f.dst (unSrc f.imm f.a) (unSrc f.imm f.b))
  | 3 => inBoth do
      let pop ← unPset f.mod
      let (x, nx, y, ny) ← unImm2P f.imm
      some (.pset f.ctl f.u pop f.pd x nx y ny)
  | 4 => inFrame f do
      let dir ← unDir f.mod
      some (.pmov f.ctl dir f.dst (unSrcIf (dir) f.imm f.a))
  | _ => .error .opcode

/-- Class 0x6, lane, R54. -/
def decodeClass6 (f : Fields) : Row :=
  match (f.op.extractLsb' 0 7).toNat with
  | 0 => inFrame f do
      let mode ← unShfl f.mod
      some (.shfl f.ctl mode f.dst (unSrc f.imm f.a) (unSrc f.imm f.b))
  | 1 => inFrame f do
      some (.bcast f.ctl f.dst (unSrc f.imm f.a) (unSrc f.imm f.b))
  | 2 => inFrame f do
      let mode ← unVote f.mod
      let (x, nx, _, _) ← unImm2P f.imm
      some (.vote f.ctl mode f.dst f.pd x nx)
  | 3 => inFrame f do
      let (lop, lty, _) ← unLane f.mod
      some (.red f.ctl lop lty f.dst (unSrc f.imm f.a))
  | 4 => inFrame f do
      let (lop, lty, excl) ← unLane f.mod
      some (.scan f.ctl lop lty excl f.dst (unSrc f.imm f.a))
  | 5 => inFrame f do
      some (.matchv f.ctl f.dst (unSrc f.imm f.a))
  | 6 => inFrame f do
      some (.rng f.ctl f.dst (unSrc f.imm f.a) (unSrc f.imm f.b) (unSrc f.imm f.d))
  | _ => .error .opcode

/-- Class 0x7, map, R55. -/
def decodeClass7 (f : Fields) : Row :=
  match (f.op.extractLsb' 0 7).toNat with
  | 0 => inReckoner f do
      let (fmt, q, _) ← unMap f.mod
      let (m, _, _) ← unImmMap f.imm
      some (.mapbind f.ctl fmt q f.dst (unSrc f.imm f.a) m)
  | 1 => inReckoner f do
      let (_, q, _) ← unMap f.mod
      let (m, _, _) ← unImmMap f.imm
      some (.mapclr f.ctl q m)
  | 2 => inReckoner f do
      let (_, q, full) ← unMap f.mod
      let (m, _, _) ← unImmMap f.imm
      some (.mapmode f.ctl q full m)
  | 3 => inReckoner f do
      let (_, q, _) ← unMap f.mod
      let (m, _, _) ← unImmMap f.imm
      some (.mapscl f.ctl q (unSrc f.imm f.a) m)
  | 4 => inReckoner f do
      let (_, q, _) ← unMap f.mod
      let qk ← q
      let (m, rw, wd) ← unImmMap f.imm
      some (.maprd f.ctl qk f.dst m rw wd)
  | _ => .error .opcode

/-- Class 0x8, slice and mesh memory, R56. -/
def decodeClass8 (f : Fields) : Row :=
  match (f.op.extractLsb' 0 7).toNat with
  | 0 => inFrame f do
      let (w, sx, pol, tag) ← unLoad f.mod
      let disp ← unRaw f.imm
      some (.ldl f.ctl w sx pol tag f.dst (unSrc f.imm f.a) disp)
  | 1 => inFrame f do
      let (w, pol) ← unStore f.mod
      let disp ← unRaw f.imm
      some (.stl f.ctl w pol (unSrc f.imm f.a) (unSrc f.imm f.b) disp)
  | 2 => inFrame f do
      let (op, ty) ← unAtom f.mod
      let disp ← unRaw f.imm
      some (.atoml f.ctl op ty f.dst (unSrc f.imm f.a) (unSrc f.imm f.b) (unSrcIf (op.isCas) f.imm f.d) disp)
  | 3 => inFrame f do
      let (w, sx, pol, tag) ← unLoad f.mod
      let disp ← unRaw f.imm
      some (.ldm f.ctl w sx pol tag f.dst (unSrc f.imm f.a) disp)
  | 4 => inFrame f do
      let (w, pol) ← unStore f.mod
      let disp ← unRaw f.imm
      some (.stm f.ctl w pol (unSrc f.imm f.a) (unSrc f.imm f.b) disp)
  | 5 => inFrame f do
      let (op, ty) ← unAtom f.mod
      let disp ← unRaw f.imm
      some (.atomm f.ctl op ty f.dst (unSrc f.imm f.a) (unSrc f.imm f.b) (unSrcIf (op.isCas) f.imm f.d) disp)
  | _ => .error .opcode

/-- Class 0x9, device memory, R56. -/
def decodeClass9 (f : Fields) : Row :=
  match (f.op.extractLsb' 0 7).toNat with
  | 0 => inFrame f do
      let (w, sx, pol, tag) ← unLoad f.mod
      let disp ← unRaw f.imm
      some (.ldg f.ctl w sx pol tag f.dst (unSrc f.imm f.a) (unSrc f.imm f.b) disp)
  | 1 => inFrame f do
      let (w, pol) ← unStore f.mod
      let disp ← unRaw f.imm
      some (.stg f.ctl w pol (unSrc f.imm f.a) (unSrc f.imm f.b) (unSrc f.imm f.d) disp)
  | 2 => inFrame f do
      let (w, sx, pol, tag) ← unLoad f.mod
      let disp ← unRaw f.imm
      some (.ldro f.ctl w sx pol tag f.dst (unSrc f.imm f.a) (unSrc f.imm f.b) disp)
  | 3 => inFrame f do
      let (_, pol) ← unStore f.mod
      let disp ← unRaw f.imm
      some (.pref f.ctl pol (unSrc f.imm f.a) (unSrc f.imm f.b) disp)
  | _ => .error .opcode

/-- Class 0xA, host and peer memory, R56. -/
def decodeClass10 (f : Fields) : Row :=
  match (f.op.extractLsb' 0 7).toNat with
  | 0 => inFrame f do
      let (w, sx, pol, tag) ← unLoad f.mod
      let disp ← unRaw f.imm
      some (.ldh f.ctl w sx pol tag f.dst (unSrc f.imm f.a) disp)
  | 1 => inFrame f do
      let (w, pol) ← unStore f.mod
      let disp ← unRaw f.imm
      some (.sth f.ctl w pol (unSrc f.imm f.a) (unSrc f.imm f.b) disp)
  | 2 => inFrame f do
      let (w, sx, pol, tag) ← unLoad f.mod
      let disp ← unRaw f.imm
      some (.ldx f.ctl w sx pol tag f.dst (unSrc f.imm f.a) disp)
  | 3 => inFrame f do
      let (w, pol) ← unStore f.mod
      let disp ← unRaw f.imm
      some (.stx f.ctl w pol (unSrc f.imm f.a) (unSrc f.imm f.b) disp)
  | _ => .error .opcode

/-- Class 0xB, service-frame atomics and beads, R57. -/
def decodeClass11 (f : Fields) : Row :=
  match (f.op.extractLsb' 0 7).toNat with
  | 0 => inFrame f do
      let (op, ty) ← unAtom f.mod
      let disp ← unRaw f.imm
      some (.atom f.ctl op ty f.dst (unSrc f.imm f.a) (unSrc f.imm f.b) disp)
  | 1 => inFrame f do
      let (_, ty) ← unAtom f.mod
      let disp ← unRaw f.imm
      some (.atomc f.ctl ty f.dst (unSrc f.imm f.a) (unSrc f.imm f.b) (unSrc f.imm f.d) disp)
  | 2 => inFrame f do
      let (op, ty) ← unAtom f.mod
      let disp ← unRaw f.imm
      some (.atomn f.ctl op ty (unSrc f.imm f.a) (unSrc f.imm f.b) disp)
  | 3 => inFrame f do
      let disp ← unRaw f.imm
      some (.abset8 f.ctl (unSrc f.imm f.a) (unSrc f.imm f.b) disp)
  | 4 => inFrame f do
      let disp ← unRaw f.imm
      some (.abtst8 f.ctl f.dst (unSrc f.imm f.a) (unSrc f.imm f.b) disp)
  | 5 => inFrame f do
      let disp ← unRaw f.imm
      some (.bput f.ctl (unSrc f.imm f.a) (unSrc f.imm f.b) disp)
  | 6 => inFrame f do
      let disp ← unRaw f.imm
      some (.btake f.ctl f.dst (unSrc f.imm f.a) disp)
  | 7 => inFrame f do
      let disp ← unRaw f.imm
      some (.bpeek f.ctl f.dst f.pd (unSrc f.imm f.a) disp)
  | 8 => inFrame f do
      let up ← unDir f.mod
      let disp ← unRaw f.imm
      some (.binit f.ctl up (unSrc f.imm f.a) (unSrc f.imm f.b) disp)
  | _ => .error .opcode

/-- Class 0xC, engines, R58. -/
def decodeClass12 (f : Fields) : Row :=
  match (f.op.extractLsb' 0 7).toNat with
  | 0 => inReckoner f do
      some (.copy f.ctl f.dst (unSrc f.imm f.a) (unSrc f.imm f.b) (unSrc f.imm f.d))
  | 1 => inReckoner f do
      some (.publish f.ctl f.dst (unSrc f.imm f.a))
  | 2 => inReckoner f do
      some (.cancel f.ctl f.dst (unSrc f.imm f.a))
  | _ => .error .opcode

/-- Class 0xD, synchronisation, R58. -/
def decodeClass13 (f : Fields) : Row :=
  match (f.op.extractLsb' 0 7).toNat with
  | 0 => byForm f
      (do
        let (bop, lty, rel, acq, vec) ← unBar f.mod
        let (br, sd, sn) ← unImmBar f.imm
        some (.bar f.ctl bop lty rel acq vec f.dst (unSrcIf (bop.isSome) f.imm f.a) br sd sn))
      (do
        let (bop, lty, rel, acq, _) ← unBar f.mod
        let (br, sd, sn) ← unImmBar f.imm
        some (.barU f.ctl bop lty rel acq (unSrcIf (bop.isSome) f.imm f.a) br sd sn))
  | 1 => byForm f
      (do
        let (bop, lty, rel, _, _) ← unBar f.mod
        let (br, _, sn) ← unImmBar f.imm
        some (.bara f.ctl bop lty rel (unSrcIf (bop.isSome) f.imm f.a) br sn))
      (do
        let (bop, lty, rel, _, _) ← unBar f.mod
        let (br, _, sn) ← unImmBar f.imm
        some (.baraU f.ctl bop lty rel (unSrcIf (bop.isSome) f.imm f.a) br sn))
  | 2 => byForm f
      (do
        let (_, _, _, acq, vec) ← unBar f.mod
        let (br, sd, sn) ← unImmBar f.imm
        some (.barw f.ctl acq vec f.dst br sd sn))
      (do
        let (_, _, _, acq, _) ← unBar f.mod
        let (br, sd, sn) ← unImmBar f.imm
        some (.barwU f.ctl acq br sd sn))
  | 3 => inFrame f do
      let (mask, count, n) ← unImmBarset f.imm
      some (.barset f.ctl mask count n)
  | 4 => byForm f
      (do
        let (sc, ord) ← unFence f.mod
        some (.fence f.ctl sc ord))
      (do
        let (sc, ord) ← unFence f.mod
        some (.fenceU f.ctl sc ord))
  | 5 => inReckoner f do
      some (.phase f.ctl)
  | 6 => inReckoner f do
      some (.txbegin f.ctl)
  | 7 => inReckoner f do
      some (.txend f.ctl f.dst)
  | 8 => inReckoner f do
      some (.txabort f.ctl)
  | _ => .error .opcode

/-- Class 0xE, system, R58. -/
def decodeClass14 (f : Fields) : Row :=
  match (f.op.extractLsb' 0 7).toNat with
  | 0 => byForm f
      (do
        let num ← unImm8 f.imm
        some (.srd f.ctl f.dst num))
      (do
        let num ← unImm8 f.imm
        some (.srdU f.ctl f.dst num))
  | 1 => inFrame f do
      let num ← unImm8 f.imm
      some (.swr f.ctl (unSrc f.imm f.a) num)
  | 2 => inReckoner f do
      some (.tfetch f.ctl f.dst)
  | 3 => inReckoner f do
      some (.launch f.ctl f.dst (unSrc f.imm f.a))
  | 4 => inFrame f do
      let code ← unImm16 f.imm
      some (.tracemark f.ctl (unSrc f.imm f.a) code)
  | 5 => inFrame f do
      some (.ckpt f.ctl)
  | 6 => inReckoner f do
      some (.snap f.ctl f.dst)
  | 7 => inReckoner f do
      some (.unsnap f.ctl (unSrc f.imm f.a))
  | 8 => inFrame f do
      let scope ← unImm2 f.imm
      some (.tlbinv f.ctl (unSrc f.imm f.a) scope)
  | 9 => inFrame f do
      some (.csave f.ctl (unSrc f.imm f.a))
  | 10 => inFrame f do
      some (.crest f.ctl (unSrc f.imm f.a))
  | 11 => inFrame f do
      let ev ← unImm5 f.imm
      some (.signal f.ctl (unSrc f.imm f.a) ev)
  | _ => .error .opcode


/-- The opcode map: the class, then the index within it. -/
def decodeFields (f : Fields) : Row :=
  match (f.op.extractLsb' 7 4).toNat with
  | 0 => decodeClass0 f
  | 1 => decodeClass1 f
  | 2 => decodeClass2 f
  | 3 => decodeClass3 f
  | 4 => decodeClass4 f
  | 5 => decodeClass5 f
  | 6 => decodeClass6 f
  | 7 => decodeClass7 f
  | 8 => decodeClass8 f
  | 9 => decodeClass9 f
  | 10 => decodeClass10 f
  | 11 => decodeClass11 f
  | 12 => decodeClass12 f
  | 13 => decodeClass13 f
  | 14 => decodeClass14 f
  | _ => .error .opcode

/-- The static conditions of R47 on an instruction. -/
def legalWord (i : Instr) (w : BitVec 128) : Bool :=
  (match i.shape with
   | some p => p.legal
   | none => false) && decide (encode i = w)

/-- The instruction in a word, or why there is none. -/
def decode (w : BitVec 128) : Except Illegal Instr :=
  let f := Fields.unpack w
  if 2 ≤ f.ver.toNat then .error .version
  else
    match decodeFields f with
    | .error e => .error e
    | .ok i => if legalWord i w then .ok i else .error .operand

/-- The word that stands in sixteen bytes, lowest address first (R24). -/
def wordOfBytes (bs : List Byte) : BitVec 128 := BitVec.ofNat 128 (bytesToNat bs)

/-- The sixteen bytes of a word as code stores it (R24). -/
def bytesOfWord (w : BitVec 128) : List Byte := natToBytes 16 w.toNat

/-- The instruction whose bits are `w`, numbered from the least significant bit of the word (R24): stored as the hardware stores
it and decoded. -/
def decodeTableWord (nbits w : Nat) : Option Instr :=
  match decode (wordOfBytes (natToBytes 16 (w % 2 ^ nbits))) with
  | .ok i => some i
  | .error _ => none

end Sys2Proof
end

