-- ==== Sys2Proof/Machine/Alu.lean ====
section
/-!
DEFINITION. The integer arithmetic of class 0x1 and the integer parts of classes 0x5 and 0x6 (R116, R122 to R135, R138, R187),
as functions of operand values of `w` bits.
-/
namespace Sys2Proof.Machine

/-- `signed(x, w)` of R117 when the type is signed, the unsigned value otherwise. -/
def aluVal {w : Nat} (uns : Bool) (x : BitVec w) : Int := if uns then (x.toNat : Int) else x.toInt

/-- IADD, R122: the sum and the carry out. -/
def aluAdd {w : Nat} (a b : BitVec w) (c : Bool) : BitVec w × Bool :=
  let x := a.toNat + b.toNat + c.toNat
  (BitVec.ofNat w x, decide (2 ^ w ≤ x))

/-- ISUB, R122: the difference and the borrow out. -/
def aluSub {w : Nat} (a b : BitVec w) (c : Bool) : BitVec w × Bool :=
  let x : Int := (a.toNat : Int) - (b.toNat : Int) - (c.toNat : Int)
  (BitVec.ofInt w x, decide (x < 0))

/-- IADD3, R123. -/
def aluAdd3 (a b c : Word32) : Word32 × Bool :=
  let x := a.toNat + b.toNat + c.toNat
  (BitVec.ofNat 32 x, decide (2 ^ 32 ≤ x))

/-- IMUL, R124. -/
def aluMul (uns : Bool) (a b : Word32) : Word32 := BitVec.ofInt 32 (aluVal uns a * aluVal uns b)

/-- IMULH, R124. -/
def aluMulh (uns : Bool) (a b : Word32) : Word32 := BitVec.ofInt 32 (aluVal uns a * aluVal uns b / 2 ^ 32)

/-- IMAD, R124. -/
def aluMad (uns : Bool) (a b c : Word32) : Word32 := BitVec.ofInt 32 (aluVal uns a * aluVal uns b + c.toNat)

/-- IMADW, R125. -/
def aluMadw (uns : Bool) (a b : Word32) (c : Word64) : Word64 := BitVec.ofInt 64 (aluVal uns a * aluVal uns b + c.toNat)

/-- IDIV, R116 and R126. -/
def aluDiv (uns : Bool) (a b : Word32) : Word32 :=
  if uns then if b = 0 then 0xFFFFFFFF#32 else BitVec.ofNat 32 (a.toNat / b.toNat)
  else if b = 0 then if a.toInt < 0 then 0x80000000#32 else 0x7FFFFFFF#32
  else BitVec.ofInt 32 (a.toInt.tdiv b.toInt)

/-- IREM, R116 and R126. -/
def aluRem (uns : Bool) (a b : Word32) : Word32 :=
  if b = 0 then a
  else if uns then BitVec.ofNat 32 (a.toNat % b.toNat)
  else BitVec.ofInt 32 (a.toInt.tmod b.toInt)

/-- IMIN, R127. -/
def aluMin {w : Nat} (uns : Bool) (a b : BitVec w) : BitVec w := if aluVal uns b < aluVal uns a then b else a

/-- IMAX, R127. -/
def aluMax {w : Nat} (uns : Bool) (a b : BitVec w) : BitVec w := if aluVal uns a < aluVal uns b then b else a

/-- IABS, R127. -/
def aluAbs (a : Word32) : Word32 := BitVec.ofNat 32 a.toInt.natAbs

/-- SHL, R129: the count is taken whole. -/
def aluShl {w : Nat} (a : BitVec w) (n : Nat) : BitVec w := if w ≤ n then 0 else a <<< n

/-- SHR, R129. -/
def aluShr {w : Nat} (a : BitVec w) (n : Nat) : BitVec w := if w ≤ n then 0 else a >>> n

/-- SAR, R129. -/
def aluSar {w : Nat} (a : BitVec w) (n : Nat) : BitVec w := a.sshiftRight (min n w)

/-- FSHL, R130. -/
def aluFshl (a b c : Word32) : Word32 :=
  BitVec.ofNat 32 ((a.toNat * 2 ^ 32 + b.toNat) * 2 ^ (min c.toNat 32) / 2 ^ 32)

/-- FSHR, R130. -/
def aluFshr (a b c : Word32) : Word32 := BitVec.ofNat 32 ((a.toNat * 2 ^ 32 + b.toNat) / 2 ^ (min c.toNat 32))

/-- POPC, R131. -/
def aluPopc (a : Word32) : Word32 := BitVec.ofNat 32 (popcount 32 a.toNat)

/-- The zeros above the highest set bit among the low `n` bits. -/
def leadingZeros (a : Word32) : Nat → Nat
  | 0 => 0
  | n + 1 => if a.getLsbD n then 0 else leadingZeros a n + 1

/-- The zeros below the lowest set bit, from bit `i` on, of `n` bits. -/
def trailingZeros (a : Word32) (i : Nat) : Nat → Nat
  | 0 => 0
  | n + 1 => if a.getLsbD i then 0 else trailingZeros a (i + 1) n + 1

/-- CLZ, R131. -/
def aluClz (a : Word32) : Word32 := BitVec.ofNat 32 (leadingZeros a 32)

/-- CTZ, R131. -/
def aluCtz (a : Word32) : Word32 := BitVec.ofNat 32 (trailingZeros a 0 32)

/-- The low `n` bits of `x` in reverse order. -/
def reverseNat : Nat → Nat → Nat
  | 0, _ => 0
  | n + 1, x => x % 2 * 2 ^ n + reverseNat n (x / 2)

/-- The bits of `a` in reverse order. -/
def aluReverse {w : Nat} (a : BitVec w) : BitVec w := BitVec.ofNat w (reverseNat w a.toNat)

/-- BREV, R131. -/
def aluBrev (a : Word32) : Word32 := aluReverse a

/-- BFX, R132. -/
def aluBfx (uns : Bool) (a pos len : Word32) : Word32 :=
  let p := min pos.toNat 32
  let n := min len.toNat (32 - p)
  if n = 0 then 0
  else
    let x := a.toNat / 2 ^ p % 2 ^ n
    if uns || decide (x < 2 ^ (n - 1)) then BitVec.ofNat 32 x else BitVec.ofInt 32 ((x : Int) - 2 ^ n)

/-- BFI, R132. -/
def aluBfi (a base c : Word32) : Word32 :=
  let p := min (c.toNat % 256) 32
  let n := min (c.toNat / 256 % 256) (32 - p)
  let m : Word32 := BitVec.ofNat 32 ((2 ^ n - 1) * 2 ^ p)
  (base &&& ~~~m) ||| (BitVec.ofNat 32 (a.toNat * 2 ^ p) &&& m)

/-- One byte of BPICK's result, R133. -/
def aluPickByte (x : Word64) (c : Byte) : Byte :=
  let y := x.extractLsb' (8 * (c.toNat % 8)) 8
  let r : Byte :=
    if c.getLsbD 3 then
      match bitsOf c.toNat 4 2 with
      | 0 => 0x00#8
      | 1 => 0xFF#8
      | 2 => if y.getLsbD 7 then 0xFF#8 else 0x00#8
      | _ => aluReverse y
    else y
  if c.getLsbD 6 then ~~~r else r

/-- BPICK, R133. -/
def aluBpick (a b sel : Word32) : Word32 :=
  let x : Word64 := b ++ a
  aluPickByte x (sel.extractLsb' 24 8) ++ aluPickByte x (sel.extractLsb' 16 8) ++
    aluPickByte x (sel.extractLsb' 8 8) ++ aluPickByte x (sel.extractLsb' 0 8)

/-- LEA, R134, on `w` bits, where `b` is the index as the form reads it. -/
def aluLea {w : Nat} (a : BitVec w) (b : Int) (sh : Nat) : BitVec w := BitVec.ofInt w ((a.toNat : Int) + b * 2 ^ sh)

/-- The relation of a compare on operands that are ordered, R135 and R136. -/
def condHolds (c : Cond) (lt eq : Bool) : Bool :=
  match c with
  | .eq => eq
  | .ne => !eq
  | .lt => lt
  | .le => lt || eq
  | .gt => !(lt || eq)
  | .ge => !lt
  | .ord => true
  | .uno => false

/-- ICMP, R135. -/
def aluCmp {w : Nat} (uns : Bool) (c : Cond) (a b : BitVec w) : Bool :=
  condHolds c (decide (aluVal uns a < aluVal uns b)) (decide (a = b))

/-- PSET, R138. -/
def aluPset (op : Pop) (x y : Bool) : Bool :=
  match op with
  | .and => x && y
  | .or => x || y
  | .xor => x ^^ y

/-- A predicate operand with its negation bit (R54). -/
def predOf (p neg : Bool) : Bool := p ^^ neg

/-- RNG, R187. -/
def aluRng (a k0 k1 : Word32) : Word32 :=
  let h := a * 0x85EBCA6B#32 + k0
  let h := h ^^^ (h >>> 15)
  let h := h * 0xC2B2AE35#32 + k1
  h ^^^ (h >>> 13)

/-- The source lane of SHFL, and whether it is valid (R183). -/
def shflLane (m : ShflMode) (l b : Nat) : Option Nat :=
  match m with
  | .idx => if b ≤ 31 then some b else none
  | .up => if b ≤ l then some (l - b) else none
  | .down => if l + b ≤ 31 then some (l + b) else none
  | .xor => if b ≤ 31 then some (l ^^^ b) else none

/-- EXT of R51: a 32-bit result of a U form in its s-register. -/
def aluExt (uns : Bool) (x : Word32) : Word64 := if uns then x.setWidth 64 else x.signExtend 64

end Sys2Proof.Machine
end

