-- ==== Sys2Proof/Machine/Flags.lean ====
section
/-!
DEFINITION. The sticky flags of R108 and the flag parts of the floating formats: what a rounding, an invalid operation or a
division by zero raises (R102 to R107).
-/
namespace Sys2Proof.Machine

/-- The five flags of %fpst, R108: NX, UF, OF, DZ, NV from bit 4 down. -/
abbrev Flags := BitVec 5

def flagNone : Flags := 0#5
def flagNV : Flags := 1#5
def flagDZ : Flags := 2#5
def flagOF : Flags := 4#5
def flagUF : Flags := 8#5
def flagNX : Flags := 16#5

/-- The flags raised by an operation that is invalid when `b` holds (R107). -/
def flagIf (b : Bool) : Flags := if b then flagNV else flagNone

/-- The union of the flags of a list of results. -/
def flagUnion (l : List Flags) : Flags := l.foldl (· ||| ·) flagNone

/-- Overflow raises overflow and inexact (R102, R104). -/
def flagOverflow : Flags := flagOF ||| flagNX

/-- What a rounding raises (R103): inexact, and underflow where the inexact result is tiny after rounding. -/
def flagRound (inexact tiny : Bool) : Flags :=
  if inexact then (if tiny then flagUF ||| flagNX else flagNX) else flagNone

end Sys2Proof.Machine
end

