-- ==== Sys2Proof/Machine/Float.lean ====
section
/-!
DEFINITION. The number formats of R94 to R100, rounding (R101 to R105), the exact sums and products behind every floating
instruction, and the minimum, maximum, compare and class rules (R136, R146, R150). Bit patterns are natural numbers here.
-/
namespace Sys2Proof.Machine

/-- The binary formats of R94. -/
inductive Fmt where | fp32 | fp16 | bf16 | e4m3 | e5m2 | e2m1
  deriving DecidableEq, Repr

/-- Fraction width, R94. -/
def Fmt.frac : Fmt → Nat
  | .fp32 => 23 | .fp16 => 10 | .bf16 => 7 | .e4m3 => 3 | .e5m2 => 2 | .e2m1 => 1

/-- Exponent width, R94. -/
def Fmt.expo : Fmt → Nat
  | .fp32 => 8 | .fp16 => 5 | .bf16 => 8 | .e4m3 => 4 | .e5m2 => 5 | .e2m1 => 2

/-- Bias, R94. -/
def Fmt.bias : Fmt → Nat
  | .fp32 => 127 | .fp16 => 15 | .bf16 => 127 | .e4m3 => 7 | .e5m2 => 15 | .e2m1 => 1

/-- The sign bit as a number. -/
def Fmt.signBit (f : Fmt) : Nat := 2 ^ (f.frac + f.expo)

/-- The default NaN, R96; E2M1 has none, and nothing asks for it. -/
def Fmt.nan : Fmt → Nat
  | .fp32 => 0x7FC00000 | .fp16 => 0x7E00 | .bf16 => 0x7FC0 | .e4m3 => 0x7F | .e5m2 => 0x7E | .e2m1 => 0

/-- The largest finite value, R96. -/
def Fmt.largest : Fmt → Nat
  | .fp32 => 0x7F7FFFFF | .fp16 => 0x7BFF | .bf16 => 0x7F7F | .e4m3 => 0x7E | .e5m2 => 0x7B | .e2m1 => 0x7

/-- +∞, or what an entry of +∞ becomes in a format without one (R96, R102). -/
def Fmt.inf : Fmt → Nat
  | .fp32 => 0x7F800000 | .fp16 => 0x7C00 | .bf16 => 0x7F80 | .e4m3 => 0x7F | .e5m2 => 0x7C | .e2m1 => 0x7

/-- Whether the format has infinities (R96). -/
def Fmt.hasInf : Fmt → Bool
  | .e4m3 | .e2m1 => false
  | _ => true

/-- A value of a format: a NaN, an infinity, or a signed dyadic number `m * 2 ^ e` (R95). Zero keeps its sign. -/
inductive FV where
  | nan (signalling : Bool)
  | inf (neg : Bool)
  | fin (neg : Bool) (m : Nat) (e : Int)
  deriving DecidableEq, Repr

/-- The exponent of the format's last place in its subnormal range. -/
def Fmt.tiny (f : Fmt) : Int := 1 - (f.bias : Int) - (f.frac : Int)

/-- R95 to R97: the value of a bit pattern. -/
def Fmt.read (f : Fmt) (x : Nat) : FV :=
  let neg := decide (x / f.signBit % 2 = 1)
  let e := x / 2 ^ f.frac % 2 ^ f.expo
  let m := x % 2 ^ f.frac
  if f.hasInf ∧ e = 2 ^ f.expo - 1 then if m = 0 then .inf neg else .nan (decide (m < 2 ^ (f.frac - 1)))
  else if f = .e4m3 ∧ e = 15 ∧ m = 7 then .nan false
  else if f = .e2m1 ∧ e = 0 ∧ m = 0 then .fin false 0 0
  else if e = 0 then .fin neg m f.tiny
  else .fin neg (m + 2 ^ f.frac) (f.tiny + (e - 1 : Nat))

def FV.isNan : FV → Bool
  | .nan _ => true
  | _ => false

def FV.isSnan : FV → Bool
  | .nan s => s
  | _ => false

def FV.isInf : FV → Bool
  | .inf _ => true
  | _ => false

def FV.isZero : FV → Bool
  | .fin _ m _ => decide (m = 0)
  | _ => false

def FV.neg : FV → Bool
  | .nan _ => false
  | .inf n => n
  | .fin n _ _ => n

def FV.flip : FV → FV
  | .nan s => .nan s
  | .inf n => .inf (!n)
  | .fin n m e => .fin (!n) m e

/-- E3M5 block scales, R98; 0xFF is a quiet NaN. -/
def readE3M5 (b : Nat) : FV :=
  let e := b / 32 % 8
  let m := b % 32
  if b = 0xFF then .nan false else if e = 0 then .fin false m (-7) else .fin false (32 + m) ((e : Int) - 8)

/-! ### Rounding -/

/-- A sign bit in front of a magnitude; E2M1 writes every zero as 0x0 (R97), and a NaN carries no sign (R102). -/
def Fmt.sign (f : Fmt) (neg : Bool) (mag : Nat) : Nat :=
  if neg && !(decide (f = .e2m1) && decide (mag = 0)) then f.signBit + mag else mag

/-- What overflow gives, R102; with `.sat`, the largest finite value (R104). -/
def Fmt.overflow (f : Fmt) (mode : Rnd) (sat neg : Bool) : Nat :=
  let toInf : Bool :=
    match mode with
    | .rz => false
    | .rd => neg
    | .ru => !neg
    | _ => true
  if toInf && !sat then (if f = .e4m3 then f.nan else f.sign neg f.inf) else f.sign neg f.largest

/-- The whole part and whether a remainder is left of `n / d * 2 ^ t`, with the remainder compared with one half. -/
structure Cut where
  whole : Nat
  exact : Bool
  half : Ordering
  deriving Repr

def cut (n d : Nat) (t : Int) : Cut :=
  let num := n * 2 ^ t.toNat
  let den := d * 2 ^ (-t).toNat
  let q := num / den
  let r := num % den
  ⟨q, decide (r = 0), compare (2 * r) den⟩

/-- Whether the magnitude goes up to the next value, R101. -/
def roundsUp (mode : Rnd) (neg : Bool) (c : Cut) : Bool :=
  !c.exact &&
  match mode with
  | .rz => false
  | .rd => neg
  | .ru => !neg
  | .rna => decide (c.half ≠ .lt)
  | _ => decide (c.half = .gt) || (decide (c.half = .eq) && decide (c.whole % 2 = 1))

/-- The magnitude in units of the last place. -/
def roundCut (mode : Rnd) (neg : Bool) (c : Cut) : Nat := if roundsUp mode neg c then c.whole + 1 else c.whole

/-- floor(log2 (n / d)) for positive `n` and `d`. -/
def log2Ratio (n d : Nat) : Int :=
  let k : Int := (Nat.log2 n : Int) - (Nat.log2 d : Int)
  if d * 2 ^ k.toNat ≤ n * 2 ^ (-k).toNat then k else k - 1

/-- RND of R101 to R103 for the nonzero magnitude `n / d * 2 ^ e`: the bits and the flags. -/
def Fmt.round (f : Fmt) (mode : Rnd) (sat neg : Bool) (n d : Nat) (e : Int) : Nat × Flags :=
  let lead := log2Ratio n d + e
  let quantum := max (lead - f.frac) f.tiny
  let c := cut n d (e - quantum)
  let m := roundCut mode neg c
  let unbounded := roundCut mode neg (cut n d (e - (lead - f.frac)))
  let isTiny := decide (lead - f.frac < f.tiny) &&
    !(decide (lead - f.frac = f.tiny - 1) && decide (unbounded = 2 ^ (f.frac + 1)))
  let bits := (quantum - f.tiny).toNat * 2 ^ f.frac + m
  if f.largest < bits then (f.overflow mode sat neg, flagOverflow)
  else (f.sign neg bits, flagRound (!c.exact) isTiny)

/-! ### Exact sums and products -/

/-- The product of two values, and whether it is the invalid 0 · ∞ (R107). -/
def FV.mul : FV → FV → FV × Bool
  | .nan s, b => (.nan (s || b.isSnan), false)
  | a, .nan s => (.nan (s || a.isSnan), false)
  | .inf n, b => if b.isZero then (.nan false, true) else (.inf (n ^^ b.neg), false)
  | a, .inf n => if a.isZero then (.nan false, true) else (.inf (n ^^ a.neg), false)
  | .fin n m e, .fin n' m' e' => (.fin (n ^^ n') (m * m') (e + e'), false)

/-- The exact sum of two dyadic numbers, each a signed mantissa and an exponent. -/
def dyadicAdd (a b : Int × Int) : Int × Int :=
  let e := min a.2 b.2
  (a.1 * 2 ^ (a.2 - e).toNat + b.1 * 2 ^ (b.2 - e).toNat, e)

/-- A finite value as a dyadic number. -/
def FV.dyadic : FV → Int × Int
  | .fin n m e => (if n then -(m : Int) else (m : Int), e)
  | _ => (0, 0)

/-- The exact sum of finite addends. -/
def exactSum (ts : List FV) : Int × Int := ts.foldl (fun acc t => dyadicAdd acc t.dyadic) (0, 0)

/-- The sign of an exact zero sum, R101. -/
def zeroSign (mode : Rnd) (ts : List FV) : Bool :=
  if ts.all (fun t => t.isZero && t.neg) then true
  else if ts.all (fun t => t.isZero && !t.neg) then false
  else decide (mode = .rd)

/-- One rounding of an exact sum of addends (R101, R106, R107); `nv` says that forming the addends was invalid. Infinities of both
signs raise invalid beside a NaN too (DEDUCED, log 68). -/
def Fmt.sum (f : Fmt) (mode : Rnd) (ts : List FV) (nv : Bool) : Nat × Flags :=
  let clash := ts.any (fun t => t.isInf && t.neg) && ts.any (fun t => t.isInf && !t.neg)
  let invalid := nv || ts.any FV.isSnan || clash
  if ts.any FV.isNan || clash then (f.nan, flagIf invalid)
  else
    match ts.find? FV.isInf with
    | some t => (f.sign t.neg f.inf, flagIf invalid)
    | none =>
      let x := exactSum ts
      if x.1 = 0 then (f.sign (zeroSign mode ts) 0, flagIf invalid)
      else
        let r := f.round mode false (decide (x.1 < 0)) x.1.natAbs 1 x.2
        (r.1, r.2 ||| flagIf invalid)

/-- RND(EXACT(Σ products + Σ addends), f, mode). -/
def Fmt.sumProducts (f : Fmt) (mode : Rnd) (ps : List (FV × FV)) (ts : List FV) : Nat × Flags :=
  let qs := ps.map (fun p => p.1.mul p.2)
  f.sum mode (qs.map (·.1) ++ ts) (qs.any (·.2))

def Fmt.add (f : Fmt) (mode : Rnd) (a b : FV) : Nat × Flags := f.sum mode [a, b] false
def Fmt.sub (f : Fmt) (mode : Rnd) (a b : FV) : Nat × Flags := f.sum mode [a, b.flip] false
def Fmt.mul (f : Fmt) (mode : Rnd) (a b : FV) : Nat × Flags := f.sumProducts mode [(a, b)] []
def Fmt.fma (f : Fmt) (mode : Rnd) (a b c : FV) : Nat × Flags := f.sumProducts mode [(a, b)] [c]

/-- A conversion of one value into `f`, R101 to R104: an infinite source overflows where `.sat` is set or the format has none. -/
def Fmt.convert (f : Fmt) (mode : Rnd) (sat : Bool) (x : FV) : Nat × Flags :=
  match x with
  | .nan s => (f.nan, flagIf s)
  | .inf n =>
    if sat then (f.sign n f.largest, flagOverflow)
    else if f.hasInf then (f.sign n f.inf, flagNone)
    else (if f = .e4m3 then f.nan else f.sign n f.largest, flagOverflow)
  | .fin n m e => if m = 0 then (f.sign n 0, flagNone) else f.round mode sat n m 1 e

/-! ### Minimum, maximum, compare and class -/

/-- The order of two numbers that are no NaN; −0 and +0 are equal here. -/
def FV.lt (a b : FV) : Bool :=
  match a, b with
  | .inf n, .inf n' => n && !n'
  | .inf n, _ => n
  | _, .inf n' => !n'
  | a, b =>
    let x := dyadicAdd a.dyadic b.flip.dyadic
    decide (x.1 < 0)

/-- FMIN (`max` false) and FMAX of R146 on two values and what each is written as: which operand, or none for the default NaN. -/
def minMaxPick (isMax nan : Bool) (a b : FV) : Option Bool :=
  if a.isNan && b.isNan then none
  else if a.isNan then (if nan then none else some true)
  else if b.isNan then (if nan then none else some false)
  else if a.lt b then some isMax
  else if b.lt a then some (!isMax)
  else some (if isMax then a.neg && !b.neg else b.neg && !a.neg)

/-- The flags of R146. -/
def minMaxFlags (a b : FV) : Flags := flagIf (a.isSnan || b.isSnan)

/-- FMIN and FMAX on bit patterns of one format. -/
def Fmt.minMax (f : Fmt) (isMax nan : Bool) (a b : Nat) : Nat × Flags :=
  (match minMaxPick isMax nan (f.read a) (f.read b) with
   | none => f.nan
   | some false => a
   | some true => b, minMaxFlags (f.read a) (f.read b))

/-- FCMP and HCMP2, R136: the result and the flags. -/
def fcmp (c : Cond) (un : Bool) (a b : FV) : Bool × Flags :=
  let r :=
    if a.isNan || b.isNan then decide (c = .uno) || (un && !c.isOrd)
    else condHolds c (a.lt b) (!(a.lt b) && !(b.lt a))
  (r, flagIf (a.isSnan || b.isSnan))

/-- The class bit of FCLS, R150, of an FP32 value. -/
def fclass (x : FV) : Nat :=
  match x with
  | .nan s => if s then 0 else 1
  | .inf n => if n then 2 else 9
  | .fin n m _ =>
    if m = 0 then (if n then 5 else 6)
    else if m < 2 ^ 23 then (if n then 4 else 7)
    else (if n then 3 else 8)

/-! ### Integers -/

/-- R105: an FP32 value as an integer of 32 bits. -/
def toInt32 (uns : Bool) (mode : Rnd) (x : FV) : Word32 × Flags :=
  let lo : Int := if uns then 0 else -2 ^ 31
  let hi : Int := if uns then 2 ^ 32 - 1 else 2 ^ 31 - 1
  match x with
  | .nan _ => (0#32, flagNV)
  | .inf n => (BitVec.ofInt 32 (if n then lo else hi), flagNV)
  | .fin n m e =>
    let c := cut m 1 e
    let k := roundCut mode n c
    let v : Int := if n then -(k : Int) else (k : Int)
    if v < lo then (BitVec.ofInt 32 lo, flagNV)
    else if hi < v then (BitVec.ofInt 32 hi, flagNV)
    else (BitVec.ofInt 32 v, flagRound (!c.exact) false)

/-- A 32-bit integer in FP32, R105. -/
def ofInt32 (mode : Rnd) (x : Int) : Nat × Flags :=
  if x = 0 then (0, flagNone) else Fmt.fp32.round mode false (decide (x < 0)) x.natAbs 1 0

/-- FRND, R148. -/
def frnd (mode : Rnd) (bits : Nat) : Nat × Flags :=
  match Fmt.fp32.read bits with
  | .nan s => (Fmt.fp32.nan, flagIf s)
  | .inf _ => (bits, flagNone)
  | .fin n m e =>
    let k := roundCut mode n (cut m 1 e)
    if k = 0 then (Fmt.fp32.sign n 0, flagNone) else ((Fmt.fp32.round .rz false n k 1 0).1, flagNone)

/-- FFRC, R149. -/
def ffrc (bits : Nat) : Nat × Flags :=
  match Fmt.fp32.read bits with
  | .nan s => (Fmt.fp32.nan, flagIf s)
  | .inf _ => (Fmt.fp32.nan, flagNV)
  | .fin n m e =>
    let k := m % 2 ^ (-e).toNat
    if k = 0 then (Fmt.fp32.sign n 0, flagNone) else ((Fmt.fp32.round .rz false n k 1 e).1, flagNone)

/-- FSCL, R151. -/
def fscl (mode : Rnd) (bits : Nat) (k : Int) : Nat × Flags :=
  match Fmt.fp32.read bits with
  | .nan s => (Fmt.fp32.nan, flagIf s)
  | .inf _ => (bits, flagNone)
  | .fin n m e => if m = 0 then (bits, flagNone) else fsclRange mode n m (e + k)
where
  /-- The exponent is limited to what already overflows or vanishes in every mode, so that no huge power is formed. -/
  fsclRange (mode : Rnd) (n : Bool) (m : Nat) (e : Int) : Nat × Flags :=
    Fmt.fp32.round mode false n m 1 (max (-400) (min 400 e))

/-! ### Elements of a register -/

/-- The format and count of elements that a tag carries (R75, R100). -/
def Tag.fmt : Tag → Fmt
  | .int => .fp32 | .f32 => .fp32 | .f16x2 => .fp16 | .bf16x2 => .bf16 | .e4m3x4 => .e4m3 | .e5m2x4 => .e5m2 | .f4b => .e2m1

/-- Bits of one element of a tag. -/
def Tag.width : Tag → Nat
  | .int => 32 | .f32 => 32 | .f16x2 => 16 | .bf16x2 => 16 | .e4m3x4 => 8 | .e5m2x4 => 8 | .f4b => 4

/-- Element `k` of a register of this tag, R100. -/
def tagElem (t : Tag) (x : Word32) (k : Nat) : Nat := bitsOf x.toNat (Tag.width t * k) (Tag.width t)

/-- A register made of elements of `w` bits, element 0 lowest (R100). -/
def packElems (w : Nat) : List Nat → Nat
  | [] => 0
  | x :: xs => x % 2 ^ w + 2 ^ w * packElems w xs

/-- NEG and ABS on one element, R36: ABS clears the sign, then NEG inverts it. -/
def signMod (f : Fmt) (neg abs : Bool) (x : Nat) : Nat :=
  let x := if abs then x % f.signBit else x
  if neg then (if x / f.signBit % 2 = 1 then x - f.signBit else x + f.signBit) else x

/-- R99: one element of an F4B register, with its side byte and band scale, and whether it is the invalid 0 · ∞, which a side byte
0x00 makes of every nibble (DEDUCED, log 25). -/
def f4bValue (nib side : Nat) (band : FV) : FV × Bool :=
  if side = 0xFF || band.isNan then (.nan false, false)
  else ((((Fmt.e2m1.read nib).mul (readE3M5 side)).1).mul band)

end Sys2Proof.Machine
end

