-- ==== Sys2Proof/Machine/FloatFn.lean ====
section
/-!
DEFINITION. Division, roots and the functions of R112 and R147, and the block conversion of R111. Division and the roots are
exact: a quotient is a ratio, and a root keeps a sticky last bit. The other functions are evaluated in fixed point with `fixP`
fractional bits and a sticky last bit, which decides the rounding of every FP32 argument (log 31).
-/
namespace Sys2Proof.Machine

/-- floor(√x) below 2^k, one bit at a time from the top. -/
def sqrtBits (x : Nat) : Nat → Nat → Nat
  | 0, r => r
  | k + 1, r => if (r + 2 ^ k) * (r + 2 ^ k) ≤ x then sqrtBits x k (r + 2 ^ k) else sqrtBits x k r

/-- floor(√x). -/
def isqrt (x : Nat) : Nat := sqrtBits x (Nat.log2 x / 2 + 1) 0

/-- The FP32 value 1.0. -/
def fpOne : Nat := 0x3F800000

/-- RND of a nonzero dyadic magnitude known to `k` bits with a sticky bit: `s` or a little above it, times 2 ^ e. -/
def roundSticky (mode : Rnd) (neg : Bool) (s : Nat) (exact : Bool) (e : Int) : Nat × Flags :=
  Fmt.fp32.round mode false neg (2 * s + (if exact then 0 else 1)) 1 (e - 1)

/-- FDIV, R112, R147. -/
def fdiv (mode : Rnd) (a b : FV) : Nat × Flags :=
  let f := Fmt.fp32
  let invalid := a.isSnan || b.isSnan
  if a.isNan || b.isNan then (f.nan, flagIf invalid)
  else
    let neg := a.neg ^^ b.neg
    match a, b with
    | .inf _, .inf _ => (f.nan, flagNV)
    | .inf _, _ => (f.sign neg f.inf, flagNone)
    | _, .inf _ => (f.sign neg 0, flagNone)
    | .fin _ m e, .fin _ m' e' =>
      if m' = 0 then (if m = 0 then (f.nan, flagNV) else (f.sign neg f.inf, flagDZ))
      else if m = 0 then (f.sign neg 0, flagNone)
      else f.round mode false neg m m' (e - e')
    | _, _ => (f.nan, flagNone)

/-- FRCP, R112. -/
def frcp (mode : Rnd) (a : FV) : Nat × Flags := fdiv mode (.fin false 1 0) a

/-- FSQRT, R112: 64 further bits keep the root apart from every rounding boundary. -/
def fsqrt (mode : Rnd) (a : FV) : Nat × Flags :=
  let f := Fmt.fp32
  match a with
  | .nan s => (f.nan, flagIf s)
  | .inf n => if n then (f.nan, flagNV) else (f.inf, flagNone)
  | .fin n m e =>
    if m = 0 then (f.sign n 0, flagNone)
    else if n then (f.nan, flagNV)
    else
      let odd := decide (e % 2 = 1)
      let x := (if odd then 2 * m else m) * 2 ^ 128
      let s := isqrt x
      roundSticky mode false s (decide (s * s = x)) ((if odd then e - 1 else e) / 2 - 64)

/-- FRSQ, R112. -/
def frsq (mode : Rnd) (a : FV) : Nat × Flags :=
  let f := Fmt.fp32
  match a with
  | .nan s => (f.nan, flagIf s)
  | .inf n => if n then (f.nan, flagNV) else (0, flagNone)
  | .fin n m e =>
    if m = 0 then (f.sign n f.inf, flagDZ)
    else if n then (f.nan, flagNV)
    else
      let odd := decide (e % 2 = 1)
      let d := if odd then 2 * m else m
      let x := 2 ^ 256 / d
      let s := isqrt x
      roundSticky mode false s (decide (s * s * d = 2 ^ 256)) (-((if odd then e - 1 else e) / 2) - 128)

/-! ### Fixed point -/

/-- Fractional bits of the fixed-point evaluations. -/
def fixP : Nat := 576

def fixOne : Nat := 2 ^ fixP

def fixMul (a b : Nat) : Nat := a * b / fixOne

/-- Σ t^(2k+1)/(2k+1) from the `k`-th term on, alternating when `alt`: atanh, or atan of a small t. `p` is t^(2k+1). -/
def fixOdd (alt : Bool) (t2 : Nat) : Nat → Nat → Nat → Nat → Nat
  | 0, _, _, acc => acc
  | fuel + 1, k, p, acc =>
    let term := p / (2 * k + 1)
    fixOdd alt t2 fuel (k + 1) (fixMul p t2) (if alt && decide (k % 2 = 1) then acc - term else acc + term)

/-- atanh(n/d) for n/d ≤ 1/3. -/
def fixAtanh (n d : Nat) : Nat :=
  let t := n * fixOne / d
  fixOdd false (fixMul t t) 200 0 t 0

/-- atan(1/d) for d ≥ 5. -/
def fixAtan (d : Nat) : Nat :=
  let t := fixOne / d
  fixOdd true (fixMul t t) 140 0 t 0

/-- ln 2 = 2 atanh(1/3). -/
def fixLn2 : Nat := 2 * fixAtanh 1 3

/-- π = 16 atan(1/5) − 4 atan(1/239). -/
def fixPi : Nat := 16 * fixAtan 5 - 4 * fixAtan 239

/-- Σ y^k/k! from the `k`-th term on. -/
def fixExpSum (y : Nat) : Nat → Nat → Nat → Nat → Nat
  | 0, _, _, acc => acc
  | fuel + 1, k, term, acc => fixExpSum y fuel (k + 1) (fixMul term y / (k + 1)) (acc + term)

/-- e^y for 0 ≤ y < 1. -/
def fixExp (y : Nat) : Nat := fixExpSum y 130 0 fixOne 0

/-- Σ (−1)^k y^(2k+1)/(2k+1)! from the `k`-th term on. -/
def fixSinSum (y2 : Nat) : Nat → Nat → Nat → Nat → Nat
  | 0, _, _, acc => acc
  | fuel + 1, k, term, acc =>
    fixSinSum y2 fuel (k + 1) (fixMul term y2 / ((2 * k + 2) * (2 * k + 3)))
      (if k % 2 = 1 then acc - term else acc + term)

/-- sin(π r) for 0 ≤ r ≤ 1/2. -/
def fixSinPi (r : Nat) : Nat :=
  let y := fixMul fixPi r
  fixSinSum (fixMul y y) 80 0 y 0

/-- m · 2^e as a fixed-point number, rounded down. -/
def fixOf (m : Nat) (e : Int) : Nat :=
  let k := e + fixP
  m * 2 ^ k.toNat / 2 ^ (-k).toNat

/-- RND of an irrational value whose fixed-point floor is `x`, scaled by 2 ^ e. -/
def roundFix (mode : Rnd) (neg : Bool) (x : Nat) (e : Int) : Nat × Flags := roundSticky mode neg x false (e - fixP)

/-- FEXP2, R112. Beyond ±400 the result overflows or vanishes in every mode. -/
def fexp2 (mode : Rnd) (a : FV) : Nat × Flags :=
  let f := Fmt.fp32
  match a with
  | .nan s => (f.nan, flagIf s)
  | .inf n => (if n then 0 else f.inf, flagNone)
  | .fin n m e =>
    if m = 0 then (fpOne, flagNone)
    else if 0 ≤ e then
      let k : Int := min (m * 2 ^ e.toNat) 400
      f.round mode false false 1 1 (if n then -k else k)
    else
      let d := 2 ^ (-e).toNat
      let i : Int := if n then -((m + d - 1) / d : Nat) else (m / d : Nat)
      let r := if n then (d - m % d) % d else m % d
      let i := max (-400) (min 400 i)
      if r = 0 then f.round mode false false 1 1 i
      else roundFix mode false (fixExp (fixMul fixLn2 (fixOf r e))) i

/-- FLOG2, R112. -/
def flog2 (mode : Rnd) (a : FV) : Nat × Flags :=
  let f := Fmt.fp32
  match a with
  | .nan s => (f.nan, flagIf s)
  | .inf n => if n then (f.nan, flagNV) else (f.inf, flagNone)
  | .fin n m e =>
    if m = 0 then (f.sign true f.inf, flagDZ)
    else if n then (f.nan, flagNV)
    else
      let k := Nat.log2 m
      let i : Int := e + k
      if m = 2 ^ k then
        (if i = 0 then (0, flagNone) else f.round mode false (decide (i < 0)) i.natAbs 1 0)
      else
        let frac := 2 * fixAtanh (m - 2 ^ k) (m + 2 ^ k) * fixOne / fixLn2
        let x : Int := i * fixOne + frac
        if 0 ≤ x then roundFix mode false x.natAbs 0 else roundFix mode true (x.natAbs - 1) 0

/-- sin(π r) of a reduced argument in units of 2^e: `q` is twice the half-turn count, `r` the rest below one half turn. -/
def fsinReduced (mode : Rnd) (neg : Bool) (r d : Nat) : Nat × Flags :=
  let r := if d < 2 * r then d - r else r
  if 2 * r = d then (Fmt.fp32.sign neg fpOne, flagNone)
  else roundFix mode neg (fixSinPi (r * fixOne / d)) 0

/-- FSINPI, R112. -/
def fsinpi (mode : Rnd) (a : FV) : Nat × Flags :=
  let f := Fmt.fp32
  match a with
  | .nan s => (f.nan, flagIf s)
  | .inf _ => (f.nan, flagNV)
  | .fin n m e =>
    if m = 0 ∨ 0 ≤ e then (f.sign n 0, flagNone)
    else
      let d := 2 ^ (-e).toNat
      if m % d = 0 then (f.sign n 0, flagNone)
      else fsinReduced mode (n ^^ decide (m / d % 2 = 1)) (m % d) d

/-- FCOSPI, R112: cos(πx) = sin(π(|x| + 1/2)). -/
def fcospi (mode : Rnd) (a : FV) : Nat × Flags :=
  let f := Fmt.fp32
  match a with
  | .nan s => (f.nan, flagIf s)
  | .inf _ => (f.nan, flagNV)
  | .fin _ m e =>
    if m = 0 then (fpOne, flagNone)
    else if 0 ≤ e then
      (f.sign (decide (m * 2 ^ e.toNat % 2 = 1)) fpOne, flagNone)
    else
      let d := 2 ^ (-e).toNat
      let y := 2 * m + d
      if y % (2 * d) = 0 then (0, flagNone)
      else fsinReduced mode (decide (y / (2 * d) % 2 = 1)) (y % (2 * d)) (2 * d)

/-- FTANH, R112: (e^2x − 1)/(e^2x + 1), with e^2x = 2^k · e^r. From 256 on it lies below 1 by less than any rounding sees. -/
def ftanh (mode : Rnd) (a : FV) : Nat × Flags :=
  let f := Fmt.fp32
  match a with
  | .nan s => (f.nan, flagIf s)
  | .inf n => (f.sign n fpOne, flagNone)
  | .fin n m e =>
    if m = 0 then (f.sign n 0, flagNone)
    else if 256 * 2 ^ (-e).toNat ≤ m * 2 ^ e.toNat then roundFix mode n (fixOne - 1) 0
    else
      let y := fixOf (2 * m) e
      let k := y / fixLn2
      let big := fixExp (y % fixLn2) * 2 ^ k
      roundFix mode n ((big - fixOne) * fixOne / (big + fixOne)) 0

/-! ### Block conversion, R111 -/

/-- The magnitude of a finite value as numerator and denominator. -/
def FV.ratio : FV → Nat × Nat
  | .fin _ m e => (m * 2 ^ e.toNat, 2 ^ (-e).toNat)
  | _ => (0, 1)

/-- The smallest scale byte from `b` on whose value is at least n/d, or 0xFE. -/
def scaleByte (n d : Nat) : Nat → Nat → Nat
  | 0, b => b
  | fuel + 1, b =>
    let s := (readE3M5 b).ratio
    if n * s.2 ≤ s.1 * d then b else scaleByte n d fuel (b + 1)

/-- One quotient x(k) of R111 as a value class: none for a NaN, and infinities kept apart. -/
inductive BlockX where
  | nan
  | inf (neg : Bool)
  | fin (neg : Bool) (n d : Nat)
  deriving Repr

/-- x(k) = t(k) / band. -/
def blockX (t band : FV) : BlockX :=
  if t.isNan || band.isNan || band.isZero then .nan
  else
    match t, band with
    | .inf _, .inf _ => .nan
    | .inf n, b => .inf (n ^^ b.neg)
    | t, .inf n => .fin (t.neg ^^ n) 0 1
    | t, b =>
      let x := t.ratio
      let y := b.ratio
      .fin (t.neg ^^ b.neg) (x.1 * y.2) (x.2 * y.1)

def BlockX.isNan : BlockX → Bool
  | .nan => true
  | _ => false

/-- The larger of two magnitudes; an infinity is larger than every number. -/
def BlockX.maxMag (acc : Option (Nat × Nat)) (x : BlockX) : Option (Nat × Nat) :=
  match acc, x with
  | none, _ => none
  | some _, .inf _ => none
  | some a, .fin _ n d => if a.1 * d < n * a.2 then some (n, d) else some a
  | some a, .nan => some a

/-- The result of a block conversion: the eight nibbles, the scale byte and the flags. -/
structure Block where
  elems : List Nat
  side : Nat
  flags : Flags
  deriving DecidableEq, Repr

/-- R111 over the eight values. -/
def blockConvert (ts : List FV) (band : FV) : Block :=
  let xs := ts.map (blockX · band)
  if xs.any BlockX.isNan then ⟨ts.map (fun _ => 0), 0xFF, flagNV⟩
  else
    let side :=
      match xs.foldl BlockX.maxMag (some (0, 1)) with
      | none => 0xFE
      | some (n, d) => if n = 0 then 0 else scaleByte n (6 * d) 0xFE 0
    let sc := (readE3M5 side).ratio
    let rs := xs.map (fun x =>
      match x with
      | .fin neg n d =>
        if n = 0 ∨ sc.1 = 0 then (0, flagNone) else Fmt.e2m1.round .rne false neg (n * sc.2) (d * sc.1) 0
      | .inf neg => (Fmt.e2m1.sign neg Fmt.e2m1.largest, flagOverflow)
      | .nan => (0, flagNone))
    ⟨rs.map (·.1), side, flagUnion (rs.map (·.2))⟩

/-! ### Error feedback, R110 -/

/-- t of R110: the source plus the residue. -/
def efTerm (src resid : Nat) : Nat × Flags := Fmt.fp32.add .rne (Fmt.fp32.read src) (Fmt.fp32.read resid)

/-- The new residue of R110 from t and the value written for it. -/
def efResidue (t y : FV) : Nat × Flags :=
  if t.isNan || t.isInf || y.isNan || y.isInf then (0, flagNone) else Fmt.fp32.sub .rne t y

end Sys2Proof.Machine
end

