-- ==== Sys2Proof/Machine/Keccak.lean ====
section
/-!
DEFINITION. SHAKE256, which the digests of the log, of receipts and of the firmware use (R367, R410, R415, R417). The spec names the function
and does not define it: the text is the standard's (log 9).
-/
namespace Sys2Proof.Machine

open Sys2Proof

/-- The 25 lanes of the permutation's state, lane 5 * y + x. -/
abbrev Keccak := List Word64

def Keccak.lane (a : Keccak) (x y : Nat) : Word64 := a.getD (5 * (y % 5) + x % 5) 0#64

/-- Builds a state lane by lane. -/
def Keccak.build (f : Nat → Nat → Word64) : Keccak := (List.range 25).map (fun k => f (k % 5) (k / 5))

/-- Rotation amounts, lane 5 * y + x. -/
def keccakRot : List Nat :=
  [0, 1, 62, 28, 27, 36, 44, 6, 55, 20, 3, 10, 43, 25, 39, 41, 45, 15, 21, 8, 18, 2, 61, 56, 14]

/-- Round constants. -/
def keccakRC : List Word64 :=
  [0x0000000000000001#64, 0x0000000000008082#64, 0x800000000000808A#64, 0x8000000080008000#64, 0x000000000000808B#64,
   0x0000000080000001#64, 0x8000000080008081#64, 0x8000000000008009#64, 0x000000000000008A#64, 0x0000000000000088#64,
   0x0000000080008009#64, 0x000000008000000A#64, 0x000000008000808B#64, 0x800000000000008B#64, 0x8000000000008089#64,
   0x8000000000008003#64, 0x8000000000008002#64, 0x8000000000000080#64, 0x000000000000800A#64, 0x800000008000000A#64,
   0x8000000080008081#64, 0x8000000000008080#64, 0x0000000080000001#64, 0x8000000080008008#64]

/-- One round. -/
def keccakRound (a : Keccak) (rc : Word64) : Keccak :=
  let c := (List.range 5).map (fun x => (List.range 5).foldl (fun acc y => acc ^^^ a.lane x y) 0#64)
  let d := (List.range 5).map (fun x => c.getD ((x + 4) % 5) 0#64 ^^^ (c.getD ((x + 1) % 5) 0#64).rotateLeft 1)
  let a := Keccak.build (fun x y => a.lane x y ^^^ d.getD x 0#64)
  let b := Keccak.build (fun x y =>
    let x0 := (x + 3 * y) % 5
    (a.lane x0 x).rotateLeft (keccakRot.getD (5 * x + x0) 0))
  Keccak.build (fun x y =>
    let v := b.lane x y ^^^ (~~~(b.lane (x + 1) y) &&& b.lane (x + 2) y)
    if x = 0 ∧ y = 0 then v ^^^ rc else v)

def keccakF (a : Keccak) : Keccak := keccakRC.foldl keccakRound a

/-- Bytes per block. -/
def shakeRate : Nat := 136

def Keccak.absorb (a : Keccak) (blk : List Byte) : Keccak :=
  keccakF ((List.range 25).map (fun k =>
    a.getD k 0#64 ^^^ (if k < 17 then BitVec.ofNat 64 (bytesToNat ((blk.drop (8 * k)).take 8)) else 0#64)))

def Keccak.absorbAll (a : Keccak) (bs : List Byte) : Nat → Keccak
  | 0 => a
  | n + 1 => (a.absorb (bs.take shakeRate)).absorbAll (bs.drop shakeRate) n

def Keccak.bytes (a : Keccak) : List Byte := (a.take 17).flatMap (fun w => natToBytes 8 w.toNat)

def Keccak.squeeze (a : Keccak) : Nat → List Byte
  | 0 => []
  | n + 1 => a.bytes ++ (keccakF a).squeeze n

/-- The message with its domain bits and padding. -/
def shakePad (m : List Byte) : List Byte :=
  let z := shakeRate - 1 - m.length % shakeRate
  if z = 0 then m ++ [0x9F#8] else m ++ [0x1F#8] ++ List.replicate (z - 1) 0#8 ++ [0x80#8]

/-- `n` bytes of SHAKE256 of a message. -/
def shake256 (m : List Byte) (n : Nat) : List Byte :=
  ((Keccak.absorbAll (List.replicate 25 0#64) (shakePad m) (m.length / shakeRate + 1)).squeeze (n / shakeRate + 1)).take n

end Sys2Proof.Machine
end

