-- ==== Sys2Proof/Config.lean ====
section
/-!
DEFINITION. What the machine is given from outside and no proof may see: the free values. Each is an opaque constant, applied to
the counter `State.free` or to the operands it depends on (log 2).
-/
namespace Sys2Proof

/-- Which agent moves next. -/
inductive Turn where
  /-- A split of a frame issues its next instruction (R86). -/
  | frame (core f split : Nat)
  /-- The reckoner of a core executes or steps over its next word (R194). -/
  | reck (core : Nat)
  /-- The thread of a mapped queue reads its next packet (R370, R376); `err` says that a read that the packet makes meets an uncorrectable error (R324). -/
  | thread (q : Nat) (err : Bool)
  /-- An event of another agent. -/
  | event (i : Instr)
  deriving DecidableEq, Repr, Inhabited

/-- The turn taken where the agenda names none (log 1). -/
opaque Config.freeTurn : Nat → Turn

/-- Nanoseconds of the time base that pass with a step (log 1). -/
opaque Config.dt : Nat → Nat

/-- A byte whose value the spec leaves open (log 2). -/
opaque Config.freeByte : Nat → Byte

/-- A number whose value the spec leaves open (log 2). -/
opaque Config.freeNat : Nat → Nat

/-- The response of the on-die SRAM PUF, corrected with the helper data of the firmware bundle (R418; log 2). -/
opaque Config.pufResponse : List Byte → List Byte

/-- Falcon-1024 key pair from the 48-byte seed: the 1,793-byte public key and the private key (R418; log 2). -/
opaque Config.falconKeygen : List Byte → List Byte × List Byte

/-- Falcon-1024 signature by the private key over a message, with fresh randomness (R417; log 2). -/
opaque Config.falconSign : List Byte → List Byte → Nat → List Byte

end Sys2Proof
end

