-- ==== Sys2Proof/Machine/State.lean ====
section
/-!
DEFINITION. The state of one package, as plain data: every piece of state that the spec gives the machine (INVENTORY.md lists it
with its rule and reset value), the faults and refusals of a step, and the state at power-up.
-/
namespace Sys2Proof.Machine

open Sys2Proof

/-- A collection keyed by a number: what is not listed is absent. -/
abbrev Assoc (α : Type) := Tab (Option α)

/-- What stands under a key. -/
def Assoc.at {α : Type} (m : Assoc α) (k : Nat) : Option α := Tab.get none m k

/-- Puts `v` under a key. -/
def Assoc.put {α : Type} [DecidableEq α] (m : Assoc α) (k : Nat) (v : α) : Assoc α := Tab.set none m k (some v)

/-- Removes a key. -/
def Assoc.drop {α : Type} (m : Assoc α) (k : Nat) : Assoc α := Tab.erase k m

/-- Why `exec` stops. The machine's own faults are next states (R89); only a call of `exec` outside a step can stop. -/
inductive Fault where
  /-- Raised by `exec` on a word instruction when no party is issuing (`cur` names none, or one of the other kind): `step` never
  does that. Safe: it is no state of the hardware. -/
  | noParty
  deriving DecidableEq, Repr

/-- Why `exec` has no meaning to give. -/
inductive Refusal where
  /-- An instruction that the model does not give a meaning yet, by its mnemonic. Raised by its arm of `exec`; safe. -/
  | notModelled (mnemonic : String)
  deriving DecidableEq, Repr

/-- The fault codes of R91. -/
inductive Code where
  | illegal | fmttag | mapunbound | regang | mapstore | slicerange | addr | path | xlate | perm | align | barmember | barbusy
  | dqmismatch | trap | brk | watch | snapexpired | vpool | atomtype | beadpage | priv | storage
  deriving DecidableEq, Repr

/-- The 8-bit code, R91. -/
def Code.num : Code → Nat
  | .illegal => 0x01 | .fmttag => 0x02 | .mapunbound => 0x03 | .regang => 0x04 | .mapstore => 0x05 | .slicerange => 0x06
  | .addr => 0x07 | .path => 0x08 | .xlate => 0x09 | .perm => 0x0A | .align => 0x0B | .barmember => 0x0C | .barbusy => 0x0D
  | .dqmismatch => 0x0E | .trap => 0x0F | .brk => 0x10 | .watch => 0x11 | .snapexpired => 0x12 | .vpool => 0x13
  | .atomtype => 0x14 | .beadpage => 0x15 | .priv => 0x16 | .storage => 0x17

/-! ### Frames -/

/-- A latch: 32 bits per lane and the tag per rod (R41, R73). -/
structure Latch where
  val : Tab Word32
  tag : Tab Tag
  deriving DecidableEq, Repr

/-- A chain in progress of a split (R40 to R42): its head, and the results of its last members, newest first. -/
structure Chain where
  head : Word64
  latches : List Latch
  deriving DecidableEq, Repr

/-- What a split waits for. -/
inductive SplitSt where
  /-- Nothing: it may issue. -/
  | run
  /-- Stands at a gathering instruction since this clock (R81, R209, R237). -/
  | gather (since : Nat)
  /-- Has arrived, or waits, at a barrier's generation (R211). -/
  | barrier (b : BarRef) (gen : Nat)
  /-- Sleeps until this clock, or without a timeout (R181). -/
  | sleep (til : Option Nat)
  /-- Waits for a commit or a frontier of its own instruction, which it then goes on with (R334, R354, R356). -/
  | commit (id : Nat)
  /-- The commit of its instruction is complete: the instruction goes on. -/
  | resumed (id : Nat)
  /-- Waits for the walks and then the answers of a blocked bead instruction or of TLBINV, CSAVE or CREST; the number is the request. -/
  | blocked (id : Nat)
  /-- Its barrier has released, and its `.acq` refresh waits for what precedes it (R211, R256). -/
  | acquire
  deriving DecidableEq, Repr

/-- A split of a frame (R79). `dbg` says that the debugger holds it (R92), `step` that it is to be held after its next instruction
(R93), and `ends` names the pass or request whose completion ends that step. `walked` says that its instruction has waited for a page walk, `xl` how often it
has been replayed after an XLATE (R407), `stalled` that its store has met pool relief (R348), or its CSAVE or CREST a checkpoint that is pending (R408). `skipB` and `skipW` are the breakpoint addresses and the watchpoint
entries that have stopped its instruction, or the members of its chain, already (R400, R401). -/
structure Split where
  id : Nat
  lanes : Word32
  pc : Word64
  st : SplitSt
  chain : Option Chain
  dbg : Bool
  step : Bool
  ends : Option Nat
  walked : Bool
  stalled : Bool
  xl : Nat
  skipB : List Nat
  skipW : List Nat
  deriving DecidableEq, Repr

/-- An issue deferral that one instruction has left to its frame: the contested clocks that remain, and when it is over in any case (R28). -/
structure Defer where
  contested : Nat
  clocks : Nat
  deriving DecidableEq, Repr

/-- The state of a frame and of its rods and lanes (R73). `heldAt` says since when the debugger holds a split of it (R92). Lane `l` keeps register `r` under `128 * l + r`, predicate `p` under
`8 * l + p` and residue `k` under `32 * l + k`; rod `k` keeps the tag of register `r` under `128 * k + r`. -/
structure Frame where
  v : Tab Word32
  side : Tab Byte
  tags : Tab Tag
  preds : Tab Bool
  resid : Tab Word32
  fpst : Tab (BitVec 5)
  live : Word32
  fmask : Word32
  prio : BitVec 2
  wake : BitVec 7
  splits : List Split
  parked : Tab (List Nat)
  nextSplit : Nat
  taken : Nat
  defer : List Defer
  yielded : Bool
  heldAt : Option Nat
  deriving DecidableEq, Repr

/-! ### The reckoner and its decision queue -/

/-- What a frame does on taking an entry (R168, R173, R176, R196). -/
inductive EntryKind where
  | nop
  | branch (taken : Bool) (target : Word64)
  | exit (guard : Bool) (status : BitVec 16)
  | trap (guard : Bool)
  deriving DecidableEq, Repr

/-- An entry of the decision queue (R196). -/
structure Entry where
  pc : Word64
  kind : EntryKind
  olds : List (Nat × Word64)
  qold : BitVec 8
  qmark : BitVec 8
  deriving DecidableEq, Repr

/-- What completes a pending s-register (R199, R200). -/
inductive PendBy where
  | copy (id : Nat)
  | slot (id : Nat)
  | act (id : Nat)
  /-- The release of a barrier that a frame-form word names, at this address. -/
  | bar (b : BarRef) (pc : Word64)
  deriving DecidableEq, Repr

/-- A pending write of an s-register at a place in the program: after this many entries. -/
structure Pend where
  reg : Nat
  pos : Nat
  src : PendBy
  deriving DecidableEq, Repr

/-- What the reckoner does. -/
inductive ReckSt where
  | run
  /-- Stopped by EXIT.u, by R48 or after the last lane left (R174). -/
  | stopped
  | barrier (b : BarRef) (gen : Nat)
  | sleep (til : Option Nat)
  | commit (id : Nat)
  | resumed (id : Nat)
  deriving DecidableEq, Repr

/-! ### Slots -/

inductive Binding where | unbound | filling | bound
  deriving DecidableEq, Repr

/-- A slot of a quad (R223). -/
structure Slot where
  bytes : Tab Byte
  binding : Binding
  fmt : SlotFmt
  full : Bool
  band : BitVec 16
  deriving DecidableEq, Repr

/-- The start state of R223. -/
def Slot.start : Slot := ⟨[], .unbound, .bf16, false, 0x3F80⟩

/-- What a slot-changing instruction does (R226). -/
inductive SlotAct where
  | bind (fmt : SlotFmt) (off : Nat)
  | clear
  | mode (full : Bool)
  | scale (band : BitVec 16)
  deriving DecidableEq, Repr

/-- A slot-changing instruction that has not taken effect everywhere: the quads it still has to reach, those it is filling, and
for a bind those it has bound and whether an error was met (R228). -/
structure SlotOp where
  id : Nat
  pos : Nat
  slot : Nat
  act : SlotAct
  todo : BitVec 4
  filling : BitVec 4
  bound : BitVec 4
  quads : BitVec 4
  err : Bool
  dst : Option Nat
  deriving DecidableEq, Repr

/-! ### Results that land later -/

/-- Register, tag, side-byte, predicate, residue and flag writes of an instruction whose result lands later. -/
structure Writes where
  v : List (Nat × Word32)
  tags : List (Nat × Tag)
  side : List (Nat × Byte)
  preds : List (Nat × Bool)
  resid : List (Nat × Word32)
  flags : List (Nat × BitVec 5)
  deriving DecidableEq, Repr

/-- A mapped instruction whose passes are in flight (R246): the slots it reads, and what it writes when the last completes. -/
structure Pass where
  id : Nat
  frame : Nat
  lanes : Word32
  slots : List Nat
  regs : List Nat
  pred : Option Nat
  writes : Writes
  deriving DecidableEq, Repr

/-- What an outstanding request of a frame is (R109, R274, R282, R353). -/
inductive ReqKind where
  /-- A load of the slice, device memory, the mesh, the host or a peer. -/
  | load (path : Nat)
  /-- A store that waits for its acknowledgement: mesh, host or peer. -/
  | store (path : Nat)
  /-- An atomic on the own slice or over the mesh. -/
  | atom (flt : Bool) (path : Nat)
  /-- A class 0xB request; `ret` says whether it returns a value. -/
  | service (flt ret : Bool) (bead : Bool)
  deriving DecidableEq, Repr

/-- What a sampled memory instruction's record says of its issue (R405, R407): `num` and `rep` are the checkpoint number and REPLAY of its point of
execution, `flags` bits 3:2 of FLAGS, `levels` the queue times that it can have, `cached` whether it looks into the version caches. -/
structure Sample where
  num : Nat
  rep : Bool
  flags : Nat
  levels : Nat
  cached : Bool
  replays : Nat
  frame : Nat
  core : Nat
  retired : Nat
  pc : Nat
  active : Nat
  opc : Nat
  sectors : Nat
  deriving DecidableEq, Repr

/-- An outstanding request of a frame's lanes. `smp` is its sample record, `inp` says that its data are an input of the replay log (R410).
`got` lists what has come back: lane and value. `wait` are the lanes that still wait. `gen` is the generation tag of the core that its requests carry
(R387, R388), `ret` %retired at its issue. `addrs` says where a lane reads again after a
restore: a slice offset, a mesh address, an IOVA, a physical address (of SINGLE pages, or a package above bit 47); `keep` are the lanes that have stored
to those bytes since, so that the load has its data first (R316). -/
structure Req where
  id : Nat
  frame : Nat
  lanes : Word32
  kind : ReqKind
  pc : Word64
  addrs : List (Nat × Nat)
  keep : Word32
  size : Nat
  sx : Bool
  tag : Tag
  dst : Nat
  nregs : Nat
  wbs : Bool
  pd : Nat
  got : List (Nat × Nat)
  preds : List (Nat × Bool)
  flags : List (Nat × BitVec 5)
  wait : Word32
  err : Bool
  issued : Nat
  pos : Nat
  smp : Option Sample
  inp : Bool
  gen : Nat
  ret : Nat
  deriving DecidableEq, Repr

/-! ### Barriers -/

/-- Who waits at a barrier, and what the release writes for it (R213). Frame 16 is the reckoner. -/
structure Waiter where
  frame : Nat
  split : Nat
  gen : Nat
  act : Word32
  vec : Option Nat
  acq : Bool
  deriving DecidableEq, Repr

/-- A barrier within a workgroup: a core barrier, or the workgroup's part in a cluster or grid barrier (R207). `arrived` has a bit
for each frame and bit 16 for the reckoner. -/
structure Bar where
  members : BitVec 17
  count : Nat
  gen : Nat
  arrived : BitVec 17
  red : Option (Lop × LTy)
  leaves : List (Nat × Word32)
  leafLanes : List (Nat × Word32)
  copies : List (Nat × Bool)
  waiters : List Waiter
  sregs : List Nat
  /-- The workgroup's own arrival has been made (cluster and grid barriers only). -/
  made : Bool
  deriving DecidableEq, Repr


/-! ### Phases, commits and versions -/

/-- A core's open phase (R332). `tag` is 2^40 times the opening core's package number plus SEQ, which is %phase without TX. -/
structure Phase where
  tag : Nat
  s : Nat
  tx : Bool
  deriving DecidableEq, Repr

/-- Who owns a version (R328). -/
inductive Owner where
  /-- Committed at a stamp. -/
  | committed (stamp : Nat)
  /-- Uncommitted, in the phase with this tag. -/
  | phase (tag : Nat)
  /-- A shadow version of an open group of a cluster (R262). -/
  | shadow (cluster group : Nat)
  /-- Set aside by a rollback of a context (R411). -/
  | aside (ctx stamp : Nat)
  /-- Uncommitted, in a phase of another package (R425, R426). -/
  | peer (pkg tag : Nat)
  deriving DecidableEq, Repr

/-- A version of a granule: the bytes it covers, by their place in the granule (R328). `frozen` says that a checkpoint has frozen it: a later store of its
phase makes a version above it (R408). -/
structure Version where
  gran : Nat
  bytes : Tab (Option Byte)
  owner : Owner
  frozen : Bool
  deriving DecidableEq, Repr

/-- A bead: its value and state (R285). -/
structure Bead where
  value : Word64
  up : Bool
  deriving DecidableEq, Repr

/-- A bead of a fresh page: down with value 0. -/
def Bead.fresh : Bead := ⟨0#64, false⟩

/-- Device memory: base images by physical address, versions newest first, and beads by physical address. -/
structure DevMem where
  base : Tab Byte
  vers : List Version
  beads : Tab Bead
  deriving DecidableEq, Repr

/-- A phase-table entry that some die has not received: its stamp, the die it was taken on, when, and the dies that lack it (R330). -/
structure PhaseEntry where
  stamp : Nat
  die : Nat
  taken : Nat
  missing : BitVec 64
  deriving DecidableEq, Repr

/-- How far a commit must reach (R336, R353); `here` is a wait for the frontier of the die that its party stands on (R356). -/
inductive Reach where
  | die | package | system | here
  /-- The same wait where no commit precedes it: that of a FENCE with ACQ alone (R356). -/
  | front
  deriving DecidableEq, Repr

/-- A party by the workgroup that it belongs to; frame 16 is the reckoner. -/
structure Who where
  grid : Nat
  wg : Nat
  frame : Nat
  split : Nat
  deriving DecidableEq, Repr

/-- What goes on when a commit completes. -/
inductive CommitFor where
  /-- A split, or the reckoner; `acq` says that its instruction is a FENCE that refreshes (R354). -/
  | party (w : Who) (acq : Bool)
  | act (grid wg id : Nat)
  | copy (grid wg id : Nat)
  /-- PUBLISH of a group at a place of the program, which then writes a status to an s-register unless WBS says otherwise (R265). -/
  | publish (grid wg : Nat) (reg : Option Nat) (status : Word64) (pos cluster group : Nat)
  | final (grid wg : Nat)
  | packet (q id : Nat)
  deriving DecidableEq, Repr

/-- A commit, or a wait for a frontier, that has not completed (R336, R356). `peers` are the remote commits it also waits for. -/
structure Commit where
  id : Nat
  stamp : Nat
  die : Nat
  reach : Reach
  who : CommitFor
  peers : List Nat
  deriving DecidableEq, Repr

/-- What a U instruction does once the frames have taken its entry (R256, R303, R337, R355). -/
inductive ActKind where
  /-- The commit of BAR.u or BARA.u with REL. -/
  | barRel (reach : Reach)
  /-- The refresh of BAR.u or BARW.u with ACQ, which begins with the release. -/
  | barAcq
  | fence (sc : Scope) (ord : Order)
  | phase
  | txbegin
  | txend (dst : Nat) (wbs : Bool)
  | txabort
  | snap (dst : Nat) (wbs : Bool)
  | launch (dst off : Nat) (wbs : Bool)
  deriving DecidableEq, Repr

/-- A U action: the entry it follows, and whether it has begun and is waiting for its commit. -/
structure Act where
  id : Nat
  pos : Nat
  kind : ActKind
  pc : Word64
  begun : Bool
  status : Word64
  deriving DecidableEq, Repr

/-! ### Copies -/

inductive CopySt where
  | issued
  | moving
  /-- Its AUTOPUB group has taken its stamp, and the commit has not completed (R263). -/
  | publishing
  /-- That commit has completed. -/
  | published
  /-- It has ended, and its status is to be written. -/
  | finishing
  deriving DecidableEq, Repr

/-- A copy in flight (R254, R255, R269). `pkt` names the queue and packet of a COPY packet. `next` is the box element that the next unit
begins with, `fixed` says that Sc is fixed, and `seen` are the 16-byte units of a slice source that it has read (R256). -/
structure Copy where
  id : Nat
  pos : Nat
  reg : Nat
  wbs : Bool
  pkt : Option (Nat × Nat)
  dst : Nat
  src : Nat
  off : Nat
  bar : Option Nat
  st : CopySt
  layout : LayoutRec
  sc : Nat
  group : Nat
  cluster : Nat
  next : Nat
  bytes : Nat
  err : Nat
  fixed : Bool
  seen : List (Nat × List Byte)
  deriving DecidableEq, Repr

/-! ### Requests outside the core -/

/-- Where a request came from: a lane of an outstanding request of a workgroup, a packet of a queue under this number, or an agent of another
package (R428). -/
inductive Source where
  | lane (grid wg req lane : Nat)
  | packet (q id : Nat)
  | peer (pkg : Nat)
  deriving DecidableEq, Repr

/-- A request at, or on its way to, its home. `pkg` is this package or the remote one (R428); `fl` says that its flags go to the
service flag word too (ATOMN, R279). -/
structure SReq where
  id : Nat
  src : Source
  core : Nat
  pkg : Nat
  pa : Nat
  op : SOp
  ptop : Nat
  fl : Bool
  since : Nat
  deriving DecidableEq, Repr

/-- The result of a performed request on its way back from the home's package `pkg` (R274). `err` holds the bits of ENDFLAGS that a request which ends with STORAGE sets,
and is 0 for one that was performed. -/
structure Reply where
  src : Source
  pkg : Nat
  val : Nat
  pred : Bool
  flags : BitVec 5
  err : Nat
  deriving DecidableEq, Repr

/-- A mesh access of one lane on its way to its target (R313). `grid` and `wg` name the workgroup that held the target core when it
issued, if one did. -/
structure MeshReq where
  id : Nat
  src : Source
  score : Nat
  tcore : Nat
  grid : Nat
  wg : Nat
  held : Bool
  off : Int
  size : Nat
  op : Option (AOp × ATy)
  store : Bool
  b : Nat
  c : Nat
  deriving DecidableEq, Repr

/-- An acknowledgement or answer on its way back to a lane. -/
structure MeshAckRec where
  src : Source
  val : Nat
  off : Bool
  flags : BitVec 5
  deriving DecidableEq, Repr

/-- A host access of one lane (R315): a read, or a posted write with its bytes. -/
structure HostReq where
  id : Nat
  src : Source
  ctx : Nat
  iova : Nat
  data : Option (List Byte)
  deriving DecidableEq, Repr

/-- A peer access of one lane (R425). -/
structure PeerReq where
  id : Nat
  src : Source
  pkg : Nat
  pa : Nat
  data : Option (List Byte)
  size : Nat
  deriving DecidableEq, Repr

/-! ### Workgroups -/

/-- A fault with the party and the address of its instruction; frame 16 is the reckoner (R89, R219). -/
structure FaultRec where
  code : Code
  party : Nat
  pc : Nat
  info : Nat
  deriving DecidableEq, Repr

/-- Whether a workgroup runs. -/
inductive RunSt where
  | running
  /-- Stopped until an XLATE is resolved (R323). -/
  | xlate (party split : Nat) (pc : Nat)
  /-- Held at a TRAP, BRK or WATCH of its grid (R90, R377, R401). -/
  | held
  /-- The last lane has left and the final commit is in progress (R219). -/
  | ending
  deriving DecidableEq, Repr

/-- The code object of a workgroup (R70): its TEXT address and size, the stamp it is fetched at (R25), and its TEXT bytes as of that
stamp, by their offset (the die's code cache, R290). -/
structure CodeObj where
  text : Nat
  size : Nat
  stamp : Nat
  bytes : Tab Byte
  frames : Nat
  regs : Nat
  slots : Nat
  extent : Nat
  args : Nat
  preload : List (Nat × List Byte)
  deriving DecidableEq, Repr

/-- A request that a pre-empted workgroup issues again after its restore (R274, R288, R391). -/
structure Replay where
  req : Nat
  lane : Nat
  op : SOp
  pkg : Nat
  pa : Nat
  deriving DecidableEq, Repr

/-- A workgroup with its whole context (R193). `halt` says that a pre-empt request has stopped it (R387), until it is restored (R391). -/
structure Wg where
  grid : Nat
  idx : Nat
  gang : Nat
  pos : Nat
  core : Nat
  /-- The core at the last checkpoint, by which records and log entries name the workgroup (R405). -/
  home : Nat
  code : CodeObj
  frames : List Frame
  s : Tab Word64
  q : Tab Bool
  rpc : Word64
  rst : ReckSt
  rwake : BitVec 7
  lastCopy : Assoc Nat
  pend : List Pend
  dq : List Entry
  dqBase : Nat
  slice : Tab Byte
  slots : Tab Slot
  slotOps : List SlotOp
  passes : List Pass
  bars : List Bar
  cparts : List Bar
  gparts : List Bar
  phase : Phase
  kept : Option (Nat × Nat)
  pins : List Nat
  expired : Nat
  copies : List Copy
  groups : List (Nat × Nat)
  acts : List Act
  reqs : List Req
  atomnFlags : List (Nat × BitVec 5)
  replays : List Replay
  retired : Nat
  total : Nat
  maxst : Nat
  nz : Nat
  endflags : Nat
  fault : Option FaultRec
  mapstore : Bool
  storage : Option FaultRec
  run : RunSt
  halt : Bool
  /-- Its clock is gated (R218). -/
  gated : Bool
  /-- The address of its save area, and the SIZE of the image that was saved last (R390, R392). -/
  savearea : Nat
  imgSize : Nat
  brk : Tab Word64
  wbase : Tab Word64
  wctl : Tab Word32
  rdbg : Bool
  rstep : Bool
  rskip : Bool
  /-- The action, slot change, copy or commit whose completion ends the last step of the reckoner (R93). -/
  rends : Option Nat
  deriving DecidableEq, Repr

/-! ### Grids -/

inductive GridSt where
  | pending | running | held | ended
  deriving DecidableEq, Repr

/-- A cluster or grid barrier above its workgroups (R207): the workgroups that have arrived, and the leaf of each. -/
structure GBar where
  gen : Nat
  arrived : List Nat
  red : Option (Lop × LTy)
  leaves : List (Nat × Word32)
  flags : BitVec 5
  deriving DecidableEq, Repr

def GBar.start : GBar := ⟨0, [], none, [], 0#5⟩

/-- A gang: its cluster and cores, whether it is parked, the number of its placement, whether its PRIO is raised after a reclaim (R397),
whether the end of its entry's slice parked it and that entry has had no slice since (R385), and its cluster barriers (R207, R253). -/
structure Gang where
  idx : Nat
  cluster : Nat
  cores : List Nat
  parked : Bool
  seq : Nat
  raised : Bool
  sliced : Bool
  cbars : List GBar
  deriving DecidableEq, Repr

/-- A grid (R291 to R306). `ranges` are the dispenser shares by die. `since` says when each gang that GMIN needs and that cannot be placed first failed,
oldest first, and `reserved` which clusters are reserved for them (R297). `measured` is the pin of a measured launch, and `opened` its stamp, which stays (R415). -/
structure Grid where
  id : Nat
  lrec : LaunchRec
  argw : List Word64
  code : CodeObj
  queue : Nat
  packet : Option Nat
  die : Nat
  st : GridSt
  placed : Nat
  total : Nat
  gangs : List Gang
  ranges : List (Nat × Nat × Nat)
  gbars : List GBar
  ended : List Nat
  since : List Nat
  reserved : List Nat
  reported : Bool
  waitres : Bool
  dropBead : Option (Nat × Code)
  dropRec : Option (Nat × Code)
  measured : Option Nat
  opened : Option Nat
  deriving DecidableEq, Repr

/-! ### Queues -/

/-- What a queue thread, or an issued packet, waits for. -/
inductive Await where
  /-- The bead request with this number. -/
  | bead (id : Nat)
  /-- A commit. -/
  | commit (id : Nat)
  /-- Nothing: the packet has not been begun. -/
  | fresh
  /-- WAITBEAD's wait, or the header's, is over, with the bead's value. -/
  | past (val : Nat)
  deriving DecidableEq, Repr

/-- A report of a queue (R377): kind, grid, workgroup, fault code, TRAP or BRK code, address. -/
structure Report where
  kind : Nat
  grid : Nat
  wg : Nat
  code : Nat
  trap : Nat
  pc : Nat
  deriving DecidableEq, Repr

/-- A packet that has issued and has not completed (R372), with the bead it puts and whether it signals. `res` is its result; `stop` and `reports` say with
which code and reports its grid's end stops the queue once it has completed (R377), 0 and none where it does not. -/
structure OpenPkt where
  id : Nat
  put : Option Nat
  intr : Bool
  res : Option Nat
  wait : Await
  stop : Nat
  reports : List Report
  deriving DecidableEq, Repr

/-- An indirect buffer in progress (R378): address, length and next unit, the 256-byte units read so far, and its INDIRECT packet. -/
structure IndBuf where
  addr : Nat
  units : Nat
  next : Nat
  got : List (Nat × List Byte)
  pkt : Nat
  deriving DecidableEq, Repr

/-- A queue (R371 to R378). Its STATUS, apart from STOP, follows from its grids and from what its thread waits for. `now` is the packet that the
thread has read and that has not issued; `since` says since when the thread is blocked; `chain` is M(i) and i (R414). -/
structure Queue where
  desc : QueueDesc
  wridx : Nat
  rdidx : Nat
  stop : Nat
  mapped : Bool
  since : Option Nat
  pre : Await
  op : Await
  ind : Option IndBuf
  pkts : List OpenPkt
  reports : List Report
  chain : Option (List Byte × Nat)
  now : Option Instr
  deriving DecidableEq, Repr

/-! ### Partitions, contexts, debugger -/

/-- The current entry of a top-level partition's schedule and when its slice began (R384). -/
structure Sched where
  entry : Nat
  since : Nat
  deriving DecidableEq, Repr

/-- A ring in host memory (R403). Its write index, read index and dropped count stand in its header. -/
structure Ring where
  base : Nat
  log2 : Nat
  func : Nat
  deriving DecidableEq, Repr

/-- An entry of the replay log (R410). `addr` names a bead by its package, above bit 47, and its address. -/
inductive LogEntry where
  | phase (core retired pos : Nat) (digest : List Byte)
  /-- An atomic of a lane, or PUBLISH (lane 32), by the retired count at its issue. -/
  | atomic (core retired lane pos : Nat)
  | grant (core grid tile : Nat)
  | bead (core retired lane addr pos : Nat)
  /-- An input: the retired count of the frame's instruction at its issue, or, of a U instruction (`u`), the count as the value arrives and its place in the
  program; `lane` is 32 where the values are those of the whole instruction. -/
  | input (core : Nat) (u : Bool) (count place lane : Nat) (vals : List Nat)
  | ckpt (num ck : Nat)
  deriving DecidableEq, Repr

/-- A report to the debugger. -/
inductive DbgReport where
  | stop (core party split code info : Nat)
  | expired (ck : Nat)
  | refusedExpired
  | refusedShared
  /-- The core, and the place in the commit order of the first phase that differs (R412). -/
  | diverge (core phase : Nat)
  | reached (core count : Nat)
  | value (v : Nat) (pending valid : Bool)
  | refused
  deriving DecidableEq, Repr

/-- A checkpoint (R408): its number, its stamp, whether its pin has expired, and what it holds: the workgroups on cores, the parked ones, those that
CSAVE holds with their addresses, the grids, the frozen versions of open phases and groups by package, and where its images stand in the debugger's area:
address and bytes. -/
structure Ckpt where
  num : Nat
  ck : Nat
  expired : Bool
  wgs : List Wg
  parked : List Wg
  held : List (Nat × Wg)
  grids : List Grid
  frozen : List (Nat × Version)
  images : List (Nat × Nat)
  deriving DecidableEq, Repr

/-- A replay (R411, R412): the entries still expected, and the core and retired count at which the debugger takes over. -/
structure ReplaySt where
  left : List LogEntry
  stop : Option (Nat × Nat)
  deriving DecidableEq, Repr

/-- A context: a PASID of a function. Page-table roots (R318, R425) and the debugger's state (R400 to R412). -/
structure Ctx where
  root : Nat
  peers : List (Nat × Nat)
  attached : Bool
  frameStop : Bool
  ring : Option Ring
  rring : Option Ring
  sampling : Nat
  interval : Nat
  since : Nat
  num : Nat
  asked : Bool
  /-- The stamp of a checkpoint that has halted the gangs, and that waits for the package frontier (R408). -/
  pending : Option Nat
  /-- That stamp is final: what had left the halted cores has been performed. -/
  settled : Bool
  /-- The workgroups that it has halted. -/
  halted : List (Nat × Nat)
  ckpts : List Ckpt
  recording : Bool
  log : List LogEntry
  read : Nat
  order : Nat
  replay : Option ReplaySt
  reports : List DbgReport
  /-- Where the debugger's checkpoint area begins (R408). -/
  area : Nat
  deriving DecidableEq, Repr

/-- A context that no debugger uses. -/
def Ctx.fresh (root : Nat) : Ctx :=
  ⟨root, [], false, false, none, none, 0, 0, 0, 0, false, none, false, [], [], false, [], 0, 0, none, [], 0⟩

/-! ### Translation -/

/-- Where a translation is held (R321): a core's L1, a cluster's L2, or the units of the package that read page tables for no core: the launch unit and the
queue processor (log 61). -/
inductive TlbAt where | core (c : Nat) | cluster (c : Nat) | unit
  deriving DecidableEq, Repr

/-- The page that a walk reached: page base, log2 of its size, and its leaf (R319). -/
structure PageEnt where
  base : Nat
  log2 : Nat
  pa : Nat
  pkey : Nat
  vmode : Nat
  cach : Bool
  wr : Bool
  deriving DecidableEq, Repr

/-- A TLB entry, tagged by context and package (R321, R425). -/
structure TlbEnt where
  at_ : TlbAt
  ctx : Nat
  pkg : Nat
  page : PageEnt
  deriving DecidableEq, Repr

/-- Who asked for a walk: a frame of a workgroup on a core, at an instruction. -/
structure Ask where
  core : Nat
  grid : Nat
  wg : Nat
  frame : Nat
  pc : Nat
  deriving DecidableEq, Repr

/-- A walk: whom it serves, cores of one die, and for which address (R321). `failed` holds until the cores that asked have seen the XLATE; `stale` are the
TLBINVs that wait for its end, after which it installs nothing (R322). -/
structure Walk where
  id : Nat
  asks : List Ask
  ctx : Nat
  pkg : Nat
  va : Nat
  failed : Bool
  stale : List Nat
  deriving DecidableEq, Repr

/-! ### Other packages, and what travels -/

/-- A commit of a workgroup, from the core that it stood on, on its way to a remote package, or waiting for its frontier (R426, R427). -/
structure PeerCm where
  id : Nat
  pkg : Nat
  tag : Nat
  tr : Option Nat
  grid : Nat
  wg : Nat
  core : Nat
  deriving DecidableEq, Repr

/-- A remote package as this one sees it (R425 to R428): its device memory and its last stamp. -/
structure Remote where
  mem : DevMem
  last : Nat
  deriving DecidableEq, Repr

/-- A bead request that waits at its home (R287): pkg and address of the bead, and the request. -/
structure BeadWait where
  pkg : Nat
  pa : Nat
  req : SReq
  deriving DecidableEq, Repr

/-- An entry of the queue processor's event log (R429, R324). -/
inductive LogEv where
  | portDown (port : Nat)
  | storage (addr : Nat)
  deriving DecidableEq, Repr

/-- What firmware and the boot ROM have made of the bundle (R367, R418). -/
structure FwSt where
  accepted : Bool
  version : Nat
  digest : List Byte
  pool : Nat
  pub : List Byte
  priv : List Byte
  keyed : Bool
  deriving DecidableEq, Repr

/-- A host snapshot pin (R349) and whether it has expired (R348). -/
structure HostPin where
  stamp : Nat
  expired : Bool
  deriving DecidableEq, Repr

/-! ### The package -/

/-- The machine. -/
structure State where
  agenda : List (Turn × Nat)
  cur : Option Party
  free : Nat
  tick : Nat
  ids : Nat
  fw : FwSt
  ready : Tab Word32
  feat : Tab Word32
  featSet : BitVec 8
  featOn : Bool
  pkg : Nat
  fabric : List (Nat × List Nat)
  remotes : Assoc Remote
  dieIn : BitVec 64
  homeTab : Tab Nat
  oos : List Nat
  dev : DevMem
  last : Nat
  phaseTab : List PhaseEntry
  /-- The recording context, plus one, for which a stamp was taken (R411). -/
  taker : Tab Nat
  commits : List Commit
  peerCms : List PeerCm
  cores : Assoc Wg
  parked : List Wg
  seq : Tab Nat
  /-- Generation tags of the cores (R387). -/
  gen : Tab Nat
  /-- Memory instructions that the frames of each core have issued (R406). -/
  samples : Tab Nat
  /-- %sigin of each core (R420). -/
  sigin : Tab Word32
  sgroup : Tab Nat
  svcQ : Assoc (List SReq)
  waits : List BeadWait
  /-- Operations performed on each bead so far, by package and address (R288, R410). -/
  beadOrd : Tab Nat
  returned : List SReq
  replies : List (Nat × Reply)
  svcFlags : Tab (BitVec 5)
  mesh : List MeshReq
  acks : List (Nat × MeshAckRec)
  hostq : List HostReq
  peerq : List PeerReq
  hostMem : Tab Byte
  hostPg : Tab Nat
  tlb : List TlbEnt
  walks : List Walk
  grids : List Grid
  lastGrid : Nat
  parts : Assoc PartDesc
  scheds : Assoc Sched
  queues : Assoc Queue
  /-- Queues that wait to be mapped, in order of notification (R370). -/
  waitMap : List Nat
  created : Tab Nat
  pktCopies : List Copy
  hostPins : List HostPin
  relief : Option Nat
  lowPool : Bool
  msiPend : List (Nat × Nat)
  msiSince : Assoc Nat
  msiSent : List (Nat × Nat)
  coalesce : Tab Nat
  evlog : List LogEv
  ctxs : Assoc Ctx
  saved : Assoc Wg
  deriving DecidableEq, Repr

/-- The package right after power-up (R422), before the firmware download. The values marked in INVENTORY.md as the model's choice are
those of log 1 to 3. -/
def State.reset : State where
  agenda := []
  cur := none
  free := 0
  tick := 0
  ids := 0
  fw := ⟨false, 0, [], 0, [], [], false⟩
  ready := []
  feat := []
  featSet := 0
  featOn := false
  pkg := 0
  fabric := []
  remotes := []
  dieIn := 0
  homeTab := []
  oos := []
  dev := ⟨[], [], []⟩
  last := 0
  phaseTab := []
  taker := []
  commits := []
  peerCms := []
  cores := []
  parked := []
  seq := []
  gen := []
  samples := []
  sigin := []
  sgroup := []
  svcQ := []
  waits := []
  beadOrd := []
  returned := []
  replies := []
  svcFlags := []
  mesh := []
  acks := []
  hostq := []
  peerq := []
  hostMem := []
  hostPg := []
  tlb := []
  walks := []
  grids := []
  lastGrid := 0
  parts := []
  scheds := []
  queues := []
  waitMap := []
  created := []
  pktCopies := []
  hostPins := []
  relief := none
  lowPool := false
  msiPend := []
  msiSince := []
  msiSent := []
  coalesce := []
  evlog := []
  ctxs := []
  saved := []

end Sys2Proof.Machine
end

