-- ==== Sys2Proof/Machine/Base.lean ====
section
/-!
DEFINITION. Reading and writing the pieces of the state: cores and workgroups, frames and splits, registers, grids, queues, time.
-/
namespace Sys2Proof.Machine

open Sys2Proof

/-! ### Numbers of cores, clusters and dies (R71, R272) -/

/-- Cores are numbered 96 * die + core; the cluster of the package is 24 * die + cluster. -/
def dieOf (core : Nat) : Nat := core / 96
def clusterOf (core : Nat) : Nat := core / 4
def coreInDie (core : Nat) : Nat := core % 96
/-- The reckoner as a party (R219). -/
def reckParty : Nat := 16

/-- The canonical form of a memory: addresses strictly rising, no byte listed that an unlisted address reads as (log 3). -/
def Memory.wf (m : Tab Byte) : Bool := Tab.wf 0 m

/-- `n` numbers from 0, whose bit of `m` is set. -/
def lanesOf (m : Word32) : List Nat := (List.range 32).filter (fun l => m.getLsbD l)
/-- The rods that hold a lane of `m` (R71). -/
def rodsOf (m : Word32) : List Nat := (List.range 8).filter (fun k => decide (m.toNat / 16 ^ k % 16 ≠ 0))
def maskOf (ls : List Nat) : Word32 := BitVec.ofNat 32 ((ls.map (fun l => 2 ^ l)).foldl (· ||| ·) 0)
def lowestLane (m : Word32) : Option Nat := (List.range 32).find? (fun l => m.getLsbD l)
def setBit32 (m : Word32) (l : Nat) : Word32 := m ||| BitVec.ofNat 32 (2 ^ l)

/-- Writes a list of pairs, in order. -/
def Tab.setAll {α : Type} [DecidableEq α] (d : α) (t : Tab α) (kvs : List (Nat × α)) : Tab α :=
  kvs.foldl (fun t kv => Tab.set d t kv.1 kv.2) t

/-- Writes bytes at any addresses, in order. -/
def Tab.poke (t : Tab Byte) (kvs : List (Nat × Byte)) : Tab Byte := Tab.setAll 0 t kvs

/-! ### Free numbers and time -/

/-- A number that no part of the state uses yet. -/
def State.newId (s : State) : Nat × State := (s.ids, { s with ids := s.ids + 1 })
/-- 800 MHz cycles of the time base: floor(%tick * 4 / 5) (R190). -/
def State.cycle (s : State) : Nat := s.tick * 4 / 5
/-- Cycles since a moment of the time base. -/
def State.cyclesSince (s : State) (t : Nat) : Nat := (s.tick - t) * 4 / 5
/-- A byte that the spec leaves open; each use takes the next one (log 2). -/
def State.freeByteOf (s : State) : Byte := Config.freeByte s.free

/-! ### Workgroups -/

def State.onCore (s : State) (c : Nat) : Option Wg := Assoc.at s.cores c
def State.setCore (s : State) (c : Nat) (w : Wg) : State := { s with cores := Assoc.put s.cores c w }
/-- The workgroups on cores, with their cores. -/
def State.live (s : State) : List (Nat × Wg) := s.cores.filterMap (fun p => p.2.map (fun w => (p.1, w)))
/-- The workgroups that CSAVE holds, with the address of their image. -/
def State.held (s : State) : List (Nat × Wg) := s.saved.filterMap (fun p => p.2.map (fun w => (p.1, w)))
/-- Every workgroup that has not ended. -/
def State.wgs (s : State) : List Wg := s.live.map (·.2) ++ s.parked ++ s.held.map (·.2)
def Wg.is (w : Wg) (g i : Nat) : Bool := decide (w.grid = g ∧ w.idx = i)
def State.wg? (s : State) (g i : Nat) : Option Wg := s.wgs.find? (fun w => w.is g i)

/-- Applies `f` to every workgroup, wherever it stands. -/
def State.mapWgs (s : State) (f : Wg → Wg) : State :=
  { s with cores := s.cores.map (fun p => (p.1, p.2.map f)), parked := s.parked.map f,
           saved := s.saved.map (fun p => (p.1, p.2.map f)) }

/-- Applies `f` to one workgroup. -/
def State.updWg (s : State) (g i : Nat) (f : Wg → Wg) : State := s.mapWgs (fun w => if w.is g i then f w else w)

/-- Removes a workgroup. -/
def State.dropWg (s : State) (g i : Nat) : State :=
  { s with cores := s.cores.filter (fun p => match p.2 with | some w => !w.is g i | none => false),
           parked := s.parked.filter (fun w => !w.is g i),
           saved := s.saved.filter (fun p => match p.2 with | some w => !w.is g i | none => false) }

def Wg.frame? (w : Wg) (f : Nat) : Option Frame := w.frames[f]?
/-- Whether the parties of a workgroup may issue (R89, R387). -/
def Wg.goes (w : Wg) : Bool := decide (w.run = .running) && !w.halt
def Wg.setFrame (w : Wg) (f : Nat) (fr : Frame) : Wg := { w with frames := w.frames.set f fr }
def Wg.mapFrames (w : Wg) (g : Frame → Frame) : Wg := { w with frames := w.frames.map g }
/-- The frames of a quad that have a live lane (R72, R226). -/
def Wg.quadFrames (w : Wg) (q : Nat) : List Frame :=
  ((List.range w.frames.length).filter (fun f => decide (f % 4 = q))).filterMap
    (fun f => (w.frames[f]?).bind (fun fr => if fr.live = 0 then none else some fr))
def Wg.liveFrames (w : Wg) : List Frame := w.frames.filter (fun fr => decide (fr.live ≠ 0))
def Wg.allDead (w : Wg) : Bool := w.frames.all (fun fr => decide (fr.live = 0))

def Frame.split? (fr : Frame) (id : Nat) : Option Split := fr.splits.find? (fun p => decide (p.id = id))
def Frame.setSplit (fr : Frame) (p : Split) : Frame :=
  { fr with splits := fr.splits.map (fun q => if q.id = p.id then p else q) }
def Frame.mapSplits (fr : Frame) (g : Split → Split) : Frame := { fr with splits := fr.splits.map g }
/-- A split that stops inside a chain, or that another takes over from, goes back to the chain's head and loses its latches (R17, R42, R78); one
whose chain has come to a gathering instruction gathers again. A last member that has begun, and waits for its commit, its refresh, its barrier or its
answers, keeps its place and its latches (DEDUCED, log 18). -/
def Split.restart (p : Split) : Split :=
  match p.chain, p.st with
  | some ch, .run | some ch, .gather _ => { p with pc := ch.head, chain := none, st := .run }
  | _, _ => p
def Frame.restartChain (fr : Frame) : Frame := fr.mapSplits Split.restart
/-- A switch to a split: the others that are inside a chain go back to its head (R42). -/
def Frame.switchTo (fr : Frame) (id : Nat) : Frame := fr.mapSplits (fun p => if p.id = id then p else p.restart)
/-- Every chain of the workgroup restarts. -/
def Wg.restartChains (w : Wg) : Wg := w.mapFrames Frame.restartChain

/-! ### What the debugger holds (R92, R93) -/

/-- The debugger holds a split of the frame from now on, if it does not already. -/
def Frame.hold (fr : Frame) (now : Nat) : Frame := { fr with heldAt := some (fr.heldAt.getD now) }

/-- A frame of which the debugger holds no split any more: the time that it held one does not count for a gathering (R92). -/
def Frame.unhold (fr : Frame) (now : Nat) : Frame :=
  if fr.splits.any (·.dbg) then fr
  else match fr.heldAt with
    | none => fr
    | some h => { fr with heldAt := none, splits := fr.splits.map (fun p => match p.st with
        | .gather t => { p with st := .gather (t + (now - max t h)) }
        | _ => p) }

/-- The debugger lets a frame go. -/
def Frame.letGo (fr : Frame) (now : Nat) : Frame :=
  (fr.mapSplits (fun p => { p with dbg := false, step := false, ends := none })).unhold now

/-- Whether a split has lanes parked in some rod (R80). -/
def Frame.isParked (fr : Frame) (id : Nat) : Bool := fr.parked.any (fun p => p.2.contains id)

/-! ### Registers of a frame (R73) -/

def vKey (l r : Nat) : Nat := 128 * l + r
def pKey (l p : Nat) : Nat := 8 * l + p
def eKey (l e : Nat) : Nat := 32 * l + e
def tKey (rod r : Nat) : Nat := 128 * rod + r

def Frame.vreg (fr : Frame) (l r : Nat) : Word32 := Tab.get 0#32 fr.v (vKey l r)
def Frame.sideOf (fr : Frame) (l r : Nat) : Byte := Tab.get 0#8 fr.side (vKey l r)
def Frame.tagOf (fr : Frame) (rod r : Nat) : Tag := Tab.get Tag.int fr.tags (tKey rod r)
/-- p7 reads 1 (R73). -/
def Frame.pred (fr : Frame) (l p : Nat) : Bool := if p = 7 then true else Tab.get false fr.preds (pKey l p)
def Frame.residOf (fr : Frame) (l e : Nat) : Word32 := Tab.get 0#32 fr.resid (eKey l e)
def Frame.flagsOf (fr : Frame) (l : Nat) : BitVec 5 := Tab.get 0#5 fr.fpst l
/-- Raises flags in a lane; they are sticky (R108). -/
def Frame.raiseFlags (fr : Frame) (l : Nat) (x : BitVec 5) : Frame :=
  { fr with fpst := Tab.set 0#5 fr.fpst l (fr.flagsOf l ||| x) }
/-- Writes to p7 are discarded (R33, R73). -/
def Frame.setPreds (fr : Frame) (ps : List (Nat × Bool)) : Frame :=
  { fr with preds := Tab.setAll false fr.preds (ps.filter (fun p => decide (p.1 % 8 ≠ 7))) }

/-- Makes the writes of an instruction. Latch results are no part of them (R32). -/
def Frame.write (fr : Frame) (w : Writes) : Frame :=
  let fr := fr.setPreds w.preds
  let fr := { fr with v := Tab.setAll 0#32 fr.v w.v, tags := Tab.setAll Tag.int fr.tags w.tags,
                      side := Tab.setAll 0#8 fr.side w.side, resid := Tab.setAll 0#32 fr.resid w.resid }
  w.flags.foldl (fun fr p => fr.raiseFlags p.1 p.2) fr

def Writes.none : Writes := ⟨[], [], [], [], [], []⟩

/-! ### Registers of the reckoner (R193) -/

def Wg.sreg (w : Wg) (n : Nat) : Word64 := Tab.get 0#64 w.s n
def Wg.setS (w : Wg) (n : Nat) (x : Word64) : Wg := { w with s := Tab.set 0#64 w.s n x }
/-- q7 reads 1 (R193). -/
def Wg.qpred (w : Wg) (p : Nat) : Bool := if p = 7 then true else Tab.get false w.q p
/-- Writes to q7 are discarded (R193). -/
def Wg.setQ (w : Wg) (p : Nat) (b : Bool) : Wg := if p = 7 then w else { w with q := Tab.set false w.q p b }
/-- A landed write satisfies its pending mark (R199). -/
def Wg.landS (w : Wg) (src : PendBy) : Wg := { w with pend := w.pend.filter (fun p => decide (p.src ≠ src)) }

/-- A core barrier in its default definition (R208). -/
def Bar.start (frames : Nat) : Bar :=
  ⟨BitVec.ofNat 17 (2 ^ frames - 1), frames, 0, 0, none, [], [], [], [], [], false⟩

/-- The workgroup's own barrier, or its part in a cluster or grid barrier (R207). -/
def Wg.bar (w : Wg) (b : BarRef) : Bar :=
  match b with
  | .core n => w.bars.getD n.toNat (Bar.start w.code.frames)
  | .cluster n => w.cparts.getD n.toNat (Bar.start w.code.frames)
  | .grid n => w.gparts.getD n.toNat (Bar.start w.code.frames)

def Wg.setBar (w : Wg) (b : BarRef) (x : Bar) : Wg :=
  match b with
  | .core n => { w with bars := w.bars.set n.toNat x }
  | .cluster n => { w with cparts := w.cparts.set n.toNat x }
  | .grid n => { w with gparts := w.gparts.set n.toNat x }

/-! ### Entries of the decision queue (R196 to R198) -/

/-- The place in program order after the entries placed so far. -/
def Wg.place (w : Wg) : Nat := w.dqBase + w.dq.length
/-- The entry at a place. -/
def Wg.entryAt (w : Wg) (n : Nat) : Option Entry := if n < w.dqBase then none else w.dq[n - w.dqBase]?
/-- The entries that a frame at place `n` has not taken, oldest first. -/
def Wg.untaken (w : Wg) (n : Nat) : List Entry := w.dq.drop (n - w.dqBase)
/-- Frees every entry that all frames with a live lane have taken (R196). -/
def Wg.freeEntries (w : Wg) : Wg :=
  let low := (w.liveFrames.map (·.taken)).foldl min w.place
  { w with dq := w.dq.drop (low - w.dqBase), dqBase := max w.dqBase low }
/-- Whether every frame with a live lane has taken the entry at place `n` (R256, R337). -/
def Wg.takenBy (w : Wg) (n : Nat) : Bool := w.liveFrames.all (fun fr => decide (n < fr.taken))

/-- sN as a frame at place `taken` sees it (R198); none while the value that it must see is pending (R199, R200). A barrier's mark holds
for a frame only once its own program counter has passed the barrier's word, or the frame has taken a later entry. -/
def Wg.sFrame (w : Wg) (taken : Nat) (pc : Word64) (n : Nat) : Option Word64 :=
  match (w.untaken taken).findSome? (fun e => (e.olds.find? (fun o => decide (o.1 = n))).map (·.2)) with
  | some x =>
    if w.pend.any (fun p => decide (p.reg = n ∧ p.pos < taken)) then none else some x
  | none =>
    let waits := fun (p : Pend) =>
      match p.src with
      | .bar _ bpc => decide (p.pos < taken ∨ (p.pos = taken ∧ bpc.toNat < pc.toNat))
      | _ => decide (p.pos < taken)
    if w.pend.any (fun p => decide (p.reg = n) && waits p) then none else some (w.sreg n)

/-! ### Grids, queues, contexts -/

def State.grid? (s : State) (g : Nat) : Option Grid := s.grids.find? (fun x => decide (x.id = g))
def State.updGrid (s : State) (g : Nat) (f : Grid → Grid) : State :=
  { s with grids := s.grids.map (fun x => if x.id = g then f x else x) }
def Grid.flag (g : Grid) (n : Nat) : Bool := g.lrec.flags.testBit n
def Grid.coop (g : Grid) : Bool := g.flag 0
def Grid.contain (g : Grid) : Bool := g.flag 1
def Grid.system (g : Grid) : Bool := g.flag 2
def recPrio (r : LaunchRec) : Nat := bitsOf r.flags 8 3
def recChild (r : LaunchRec) : Nat := bitsOf r.flags 16 4
def recTop (r : LaunchRec) : Nat := bitsOf r.flags 20 4
/-- PRIO, as capped at the acceptance (R375). -/
def Grid.prio (g : Grid) : Nat := recPrio g.lrec
/-- The PRIO of a gang, raised by one after a reclaim (R397). -/
def Gang.prio (k : Gang) (g : Grid) : Nat := if k.raised then min 7 (g.prio + 1) else g.prio
def Grid.ptop (g : Grid) : Nat := recTop g.lrec
/-- s2 (R291). -/
def Grid.count (g : Grid) : Nat := if g.coop then g.lrec.gang * g.total else g.lrec.gang * g.lrec.gmax

def State.queue? (s : State) (q : Nat) : Option Queue := Assoc.at s.queues q
def State.setQueue (s : State) (q : Nat) (x : Queue) : State := { s with queues := Assoc.put s.queues q x }
def State.updQueue (s : State) (q : Nat) (f : Queue → Queue) : State :=
  match s.queue? q with
  | some x => s.setQueue q (f x)
  | none => s

/-- The context of a queue: its function and PASID (R315, R318). -/
def ctxOfDesc (d : QueueDesc) : Nat := d.func * 2 ^ 20 + d.pasid
def State.ctx? (s : State) (c : Nat) : Option Ctx := Assoc.at s.ctxs c
def State.updCtx (s : State) (c : Nat) (f : Ctx → Ctx) : State :=
  match s.ctx? c with
  | some x => { s with ctxs := Assoc.put s.ctxs c (f x) }
  | none => s
/-- The context that a grid runs in. -/
def State.ctxOf (s : State) (g : Grid) : Nat := match s.queue? g.queue with | some q => ctxOfDesc q.desc | none => 0
def State.ctxOfWg (s : State) (w : Wg) : Nat := match s.grid? w.grid with | some g => s.ctxOf g | none => 0
/-- Whether a debugger is attached to a workgroup's context. -/
def State.attached (s : State) (w : Wg) : Bool := match s.ctx? (s.ctxOfWg w) with | some c => c.attached | none => false
def State.report (s : State) (c : Nat) (r : DbgReport) : State := s.updCtx c (fun x => { x with reports := x.reports ++ [r] })

/-- Whether an accepted feature bit is set (R369). -/
def State.feature (s : State) (n : Nat) : Bool :=
  s.featOn && ((Tab.get 0#32 s.feat (n / 32)).getLsbD (n % 32) || decide (n = 0))

/-! ### Wakes (R181, R189) -/

/-- Ends the SLEEPs of a frame, with a reason. -/
def Frame.wakeSleep (fr : Frame) (bit : BitVec 7) : Frame :=
  if fr.splits.any (fun p => match p.st with | .sleep _ => true | _ => false) then
    { fr with wake := fr.wake ||| bit,
              splits := fr.splits.map (fun p => match p.st with
                | .sleep _ => { p with st := .run }
                | _ => p) }
  else fr

/-- Ends the SLEEP of one split, with a reason. -/
def Frame.wakeSplit (fr : Frame) (id : Nat) (bit : BitVec 7) : Frame :=
  match fr.split? id with
  | some p => (match p.st with
    | .sleep _ => { fr.setSplit { p with st := .run } with wake := fr.wake ||| bit }
    | _ => fr)
  | none => fr

def wakeBarrier : BitVec 7 := 1#7
def wakeEngine : BitVec 7 := 2#7
def wakeBead : BitVec 7 := 4#7
def wakeTimeout : BitVec 7 := 8#7
def wakePreempt : BitVec 7 := 16#7
def wakeDebug : BitVec 7 := 32#7
def wakeIntr : BitVec 7 := 64#7

/-- Ends the reckoner's SLEEP, with a reason. -/
def Wg.wakeReck (w : Wg) (bit : BitVec 7) : Wg :=
  match w.rst with
  | .sleep _ => { w with rst := .run, rwake := w.rwake ||| bit }
  | _ => w

/-- An event that wakes every sleeping party of the core. -/
def Wg.wakeAll (w : Wg) (bit : BitVec 7) : Wg := (w.mapFrames (fun fr => fr.wakeSleep bit)).wakeReck bit

end Sys2Proof.Machine
end

