-- ==== Sys2Proof/Machine/Mem.lean ====
section
/-!
DEFINITION. Device memory: granules and versions (R328, R338), stamps and frontiers (R329, R330), phases and their commits (R332 to
R336, R341, R342, R426), and the page tables that translate device addresses (R318 to R321).
-/
namespace Sys2Proof.Machine

open Sys2Proof

/-! ### Versions -/

def Version.covers (v : Version) (pa : Nat) : Bool := decide (v.gran = pa / 64) && (Tab.get none v.bytes (pa % 64)).isSome
def Version.stamp? (v : Version) : Option Nat := match v.owner with | .committed t => some t | _ => none

/-- The greater stamp wins (R338). -/
def newer (a : Option (Nat × Byte)) (t : Nat) (b : Byte) : Option (Nat × Byte) :=
  match a with
  | none => some (t, b)
  | some (t0, b0) => if t0 < t then some (t, b) else some (t0, b0)

/-- The committed version of a byte with the greatest stamp not above `lim`, where a limit is given. -/
def pickByte (vs : List Version) (lim : Option Nat) (pa : Nat) : Option (Nat × Byte) :=
  vs.foldl (fun acc v =>
    match v.owner, (if v.gran = pa / 64 then Tab.get none v.bytes (pa % 64) else none) with
    | .committed t, some b => if lim.all (fun x => decide (t ≤ x)) then newer acc t b else acc
    | _, _ => acc) none

/-- A byte as a snapshot at `lim` sees it, or its newest committed value; the base image where no version covers it (R338). -/
def DevMem.byteAt (m : DevMem) (lim : Option Nat) (pa : Nat) : Byte :=
  match pickByte m.vers lim pa with
  | some (_, b) => b
  | none => Tab.get 0#8 m.base pa

/-- The uncommitted byte of a phase (R310). -/
def DevMem.ownByte (m : DevMem) (tag pa : Nat) : Option Byte :=
  m.vers.findSome? (fun v => if v.owner = .phase tag ∧ v.gran = pa / 64 then Tab.get none v.bytes (pa % 64) else none)

def DevMem.bytesAt (m : DevMem) (lim : Option Nat) (pa n : Nat) : List Byte :=
  (List.range n).map (fun j => m.byteAt lim (pa + j))

/-- The newest committed bytes as a number, as an atomic and a page walk read them (R281, R318). -/
def DevMem.newestLE (m : DevMem) (pa n : Nat) : Nat := bytesToNat (m.bytesAt none pa n)

/-- The bytes of a load at `lim`: the phase's own uncommitted byte if any, else the committed one (R310). -/
def DevMem.loadBytes (m : DevMem) (own : Option Nat) (lim : Option Nat) (pa n : Nat) : List Byte :=
  (List.range n).map (fun j =>
    match own.bind (fun tag => m.ownByte tag (pa + j)) with
    | some b => b
    | none => m.byteAt lim (pa + j))

/-- Puts one byte into the version of this owner in its granule, but for a frozen one (R328, R408). -/
def mergeByte (o : Owner) (pa : Nat) (b : Byte) : List Version → List Version
  | [] => []
  | v :: t =>
    if v.owner = o ∧ v.gran = pa / 64 ∧ v.frozen = false then { v with bytes := Tab.set none v.bytes (pa % 64) (some b) } :: t
    else v :: mergeByte o pa b t

/-- Puts one byte into the version of an owner; a new version stands above the older ones. -/
def putByte (o : Owner) (pa : Nat) (b : Byte) (vs : List Version) : List Version :=
  if vs.any (fun v => decide (v.owner = o ∧ v.gran = pa / 64 ∧ v.frozen = false)) then mergeByte o pa b vs
  else ⟨pa / 64, [(pa % 64, some b)], o, false⟩ :: vs

def DevMem.put (m : DevMem) (o : Owner) (pa : Nat) (bs : List Byte) : DevMem :=
  { m with vers := (bs.zipIdx pa).foldl (fun vs p => putByte o p.2 p.1 vs) m.vers }

/-- Gives every version of one owner to another: a commit, a publishing, a setting aside. -/
def DevMem.reown (m : DevMem) (o o' : Owner) : DevMem :=
  { m with vers := m.vers.map (fun v => if v.owner = o then { v with owner := o', frozen := false } else v) }

/-- Frees every version of an owner (R346). -/
def DevMem.discard (m : DevMem) (o : Owner) : DevMem := { m with vers := m.vers.filter (fun v => decide (v.owner ≠ o)) }

/-- The addresses that the versions of an owner cover. -/
def DevMem.written (m : DevMem) (o : Owner) : List Nat :=
  (m.vers.filter (fun v => decide (v.owner = o))).flatMap (fun v => v.bytes.map (fun p => 64 * v.gran + p.1))

/-- Whether a committed version with a stamp in (lo, hi] covers one of these bytes (R341). -/
def DevMem.conflicts (m : DevMem) (lo hi : Nat) (pas : List Nat) : Bool :=
  m.vers.any (fun v => match v.owner with
    | .committed t => decide (lo < t ∧ t ≤ hi) && pas.any (fun pa => v.covers pa)
    | _ => false)

def DevMem.bead (m : DevMem) (pa : Nat) : Bead := Tab.get Bead.fresh m.beads pa
def DevMem.setBead (m : DevMem) (pa : Nat) (b : Bead) : DevMem := { m with beads := Tab.set Bead.fresh m.beads pa b }

/-! ### The memory of this package and of the others -/

/-- The device memory of a package as this package sees it. -/
def State.memOf (s : State) (pkg : Nat) : DevMem :=
  if pkg = s.pkg then s.dev else match Assoc.at s.remotes pkg with | some r => r.mem | none => ⟨[], [], []⟩

def State.setMemOf (s : State) (pkg : Nat) (m : DevMem) : State :=
  if pkg = s.pkg then { s with dev := m }
  else match Assoc.at s.remotes pkg with
    | some r => { s with remotes := Assoc.put s.remotes pkg { r with mem := m } }
    | none => { s with remotes := Assoc.put s.remotes pkg ⟨m, 0⟩ }

/-- Whether a port leads to a package: this package itself, or a listed port that is ready (R368, R424). -/
def State.pkgLive (s : State) (pkg : Nat) : Bool :=
  decide (pkg = s.pkg) || s.fabric.any (fun e => decide (e.1 = pkg) && e.2.any (fun k => (Tab.get 0#32 s.ready (0x300 + 4 * k)).getLsbD 31))

/-! ### Stamps and frontiers -/

/-- The dies that are ready (R368). -/
def State.readyDies (s : State) : BitVec 64 :=
  BitVec.ofNat 64 ((s.ready.filter (fun p => decide (0x200 ≤ p.1 ∧ p.1 < 0x300) && p.2.getLsbD 31)).foldl (fun m p => m ||| 2 ^ ((p.1 - 0x200) / 4)) 0)

/-- Takes a stamp and enters it in the phase table, as one step (R329). -/
def State.takeStamp (s : State) (die : Nat) : Nat × State :=
  (s.last + 1,
   { s with last := s.last + 1,
            phaseTab := if s.readyDies = 0 then s.phaseTab else s.phaseTab ++ [⟨s.last + 1, die, s.tick, s.readyDies⟩] })

/-- Takes a stamp of a package: this one's, or a remote one's own sequence (R426, R428). -/
def State.takeStampOf (s : State) (pkg die : Nat) : Nat × State :=
  if pkg = s.pkg then s.takeStamp die
  else match Assoc.at s.remotes pkg with
    | some r => (r.last + 1, { s with remotes := Assoc.put s.remotes pkg { r with last := r.last + 1 } })
    | none => (1, { s with remotes := Assoc.put s.remotes pkg (Remote.mk ⟨[], [], []⟩ 1) })

/-- The least stamp of the entries that `p` selects, less one; the last stamp where it selects none. -/
def frontierOf (last : Nat) (es : List PhaseEntry) (p : PhaseEntry → Bool) : Nat :=
  ((es.filter p).map (fun e => e.stamp - 1)).foldl min last

/-- The stable frontier F of a die (R330). -/
def State.frontier (s : State) (die : Nat) : Nat := frontierOf s.last s.phaseTab (fun e => e.missing.getLsbD die)
/-- The package frontier: the least F over the dies in service (R330, R331). -/
def State.pkgFrontier (s : State) : Nat := frontierOf s.last s.phaseTab (fun e => decide (e.missing &&& s.dieIn ≠ 0))

/-- A committed store of its own: its stamp is taken and its bytes are visible in one step (R281, R374, R394). -/
def State.storeCommitted (s : State) (pkg die pa : Nat) (bs : List Byte) : Nat × State :=
  let (t, s) := s.takeStampOf pkg die
  (t, s.setMemOf pkg ((s.memOf pkg).put (.committed t) pa bs))

/-! ### Phases -/

/-- The next phase number of a core (R332). -/
def State.newTag (s : State) (core : Nat) : Nat × State :=
  let n := Tab.get 0 s.seq core
  (core * 2 ^ 40 + n, { s with seq := Tab.set 0 s.seq core ((n + 1) % 2 ^ 40) })

/-- The packages other than this one that hold versions of a phase (R426). -/
def State.peersOf (s : State) (tag : Nat) : List Nat :=
  (s.remotes.filter (fun p => match p.2 with
    | some r => r.mem.vers.any (fun v => decide (v.owner = .phase tag))
    | none => false)).map (·.1)

/-- Discards every version of a phase, here and on other packages (R341, R426). -/
def State.discardPhase (s : State) (tag : Nat) : State :=
  { s with dev := s.dev.discard (.phase tag),
           remotes := s.remotes.map (fun p => (p.1, p.2.map (fun r => { r with mem := r.mem.discard (.phase tag) }))) }

/-- How many different bytes the versions of an owner cover: a frozen version and the one above it may share some (R408). -/
def DevMem.distinct (m : DevMem) (o : Owner) : Nat := (Tab.setAll false [] ((m.written o).map (fun pa => (pa, true)))).length

/-- The distinct bytes that a phase has written, here and at other packages, as TXEND's status counts them (R343). -/
def State.phaseBytes (s : State) (tag : Nat) : Nat :=
  min (s.dev.distinct (.phase tag) + (s.peersOf tag).foldl (fun n p => n + (s.memOf p).distinct (.phase tag)) 0) (2 ^ 40 - 1)

/-- What a commit of a phase does, but for its wait: its outcome (R343), the stamp it took (0 for none), the peer commits it sent,
and how many bytes the phase wrote. -/
structure Committed where
  outcome : Nat
  stamp : Nat
  peers : List Nat
  bytes : Nat
  s : State

/-- COMMIT of R334 on the phase of a workgroup, with the validation of a transactional phase (R341, R342): takes T, makes the phase's
versions visible, sends the peer commits and opens the next phase, plain, at T; or discards the phase. -/
def State.commitPhase (s : State) (g i : Nat) : Committed :=
  match s.wg? g i with
  | none => ⟨0, 0, [], 0, s⟩
  | some w =>
    let die := dieOf w.core
    let wr := s.dev.written (.phase w.phase.tag)
    let bytes := s.phaseBytes w.phase.tag
    let (tag, s) := s.newTag w.core
    if w.phase.tx && s.dev.conflicts w.phase.s (s.last + 1) wr then
      let s := s.discardPhase w.phase.tag
      ⟨1, 0, [], bytes, s.updWg g i (fun w => { w with phase := ⟨tag, max w.phase.s (s.frontier die), false⟩ })⟩
    else
      let pk := s.peersOf w.phase.tag
      let (t, s) := s.takeStamp die
      let s := { s with dev := s.dev.reown (.phase w.phase.tag) (.committed t) }
      let ids := (List.range pk.length).map (fun k => s.ids + k)
      let s := { s with ids := s.ids + pk.length,
                        peerCms := s.peerCms ++ (pk.zip ids).map (fun (p : Nat × Nat) => PeerCm.mk p.2 p.1 w.phase.tag none g i w.core) }
      ⟨0, t, ids, bytes, s.updWg g i (fun w => { w with phase := ⟨tag, t, false⟩ })⟩

/-- A commit other than TXEND: a transaction that it ends leaves its outcome for the next TXEND (R342). -/
def State.commitKeep (s : State) (g i : Nat) : Committed :=
  let tx := match s.wg? g i with | some w => w.phase.tx | none => false
  let c := s.commitPhase g i
  if tx then { c with s := c.s.updWg g i (fun w => { w with kept := some (c.outcome, c.bytes) }) } else c

/-- REFRESH: S becomes F of the die; it never falls (R335). -/
def State.refresh (s : State) (g i : Nat) : State :=
  s.updWg g i (fun w => { w with phase := { w.phase with s := max w.phase.s (s.frontier (dieOf w.core)) } })

/-- TXABORT (R341), and the abort of a transaction by pool relief (R348), which also raises S to the die's F and keeps outcome 2. -/
def State.abortTx (s : State) (g i : Nat) (relief : Bool) : State :=
  match s.wg? g i with
  | none => s
  | some w =>
    if w.phase.tx then
      let n := s.phaseBytes w.phase.tag
      let s := s.discardPhase w.phase.tag
      let (tag, s) := s.newTag w.core
      s.updWg g i (fun w =>
        { w with phase := ⟨tag, if relief then max w.phase.s (s.frontier (dieOf w.core)) else w.phase.s, false⟩,
                 kept := if relief then some (2, n) else w.kept })
    else s

/-- Registers a commit, or a wait for a frontier, that has not completed. -/
def State.addCommit (s : State) (stamp die : Nat) (r : Reach) (who : CommitFor) (peers : List Nat) : Nat × State :=
  let (id, s) := s.newId
  (id, { s with commits := s.commits ++ [⟨id, stamp, die, r, who, peers⟩] })

/-- The workgroup that a commit keeps waiting, or none where it is no workgroup's. -/
def State.commitWg (s : State) (c : Commit) : Option Wg :=
  match c.who with
  | .party x _ => s.wg? x.grid x.wg
  | .act g i _ => s.wg? g i
  | _ => none

/-- Whether a commit is complete (R336, R353, R427), or a wait for a frontier is over: that of the die on whose core the party stands (R356). -/
def State.commitDone (s : State) (c : Commit) : Bool :=
  (match c.reach with
   | .die => decide (c.stamp ≤ s.frontier c.die)
   | .here | .front => (match s.commitWg c with
     | some w => decide ((s.onCore w.core).map (fun (x : Wg) => x.is w.grid w.idx) = some true ∧ c.stamp ≤ s.frontier (dieOf w.core))
     | none => decide (c.stamp ≤ s.frontier c.die))
   | _ => decide (c.stamp ≤ s.pkgFrontier)) &&
  (match c.reach with
   | .system => c.peers.all (fun id => !s.peerCms.any (fun p => decide (p.id = id)))
   | _ => true)

/-- The low-water stamp L (R346). -/
def State.lowWater (s : State) : Nat :=
  let ss := s.wgs.map (fun w => w.phase.s)
  let pins := s.wgs.flatMap (·.pins) ++ (s.hostPins.filter (fun p => !p.expired)).map (·.stamp)
  let cks := s.ctxs.flatMap (fun p => match p.2 with
    | some c => (c.ckpts.filter (fun k => !k.expired)).map (·.ck) ++ c.pending.toList
    | none => [])
  let cps := (s.wgs.flatMap (·.copies) ++ s.pktCopies).filterMap (fun c => if c.fixed then some c.sc else none)
  let ms := s.grids.filterMap (·.measured)
  (ss ++ pins ++ cks ++ cps ++ ms).foldl min s.last

/-! ### Page tables -/

/-- Whether bit field [lo + n - 1 : lo] of a page-table entry is zero. -/
def pteZero (e lo n : Nat) : Bool := decide (bitsOf e lo n = 0)

/-- Whether an entry found at a level is well formed (R319); level 3 is the last. -/
def pteOk (e lvl : Nat) : Bool :=
  let leaf := e.testBit 3
  pteZero e 56 8 && pteZero e 48 4 && pteZero e 8 8 && pteZero e 1 2 && decide (bitsOf e 6 2 ≠ 3) &&
  decide (bitsOf e 16 32 * 2 ^ 16 < 2 ^ 42) &&
  (if leaf then decide (lvl ≠ 0) && pteZero e 16 (if lvl = 1 then 14 else if lvl = 2 then 5 else 0) else decide (lvl ≠ 3))

/-- log2 of the page that a leaf of a level maps, which is also the lowest index bit of the level (R318). -/
def levelShift : Nat → Nat
  | 0 => 39 | 1 => 30 | 2 => 21 | _ => 16

/-- A walk from a table at a level (R318, R319): the levels still to read are counted by the last argument. -/
def walkFrom (m : DevMem) (table lvl va : Nat) : Nat → Option PageEnt
  | 0 => none
  | fuel + 1 =>
    let sh := levelShift lvl
    let idx := if lvl = 3 then bitsOf va 16 5 else bitsOf va sh 9
    let e := m.newestLE (table + 8 * idx) 8
    if !e.testBit 0 || !pteOk e lvl then none
    else
      let pa := bitsOf e 16 32 * 2 ^ 16
      if e.testBit 3 then
        some ⟨va / 2 ^ sh * 2 ^ sh, sh, pa, bitsOf e 52 4, bitsOf e 6 2, e.testBit 5, e.testBit 4⟩
      else walkFrom m pa (lvl + 1) va fuel

/-- What the tables below one of a level take up (R318): base, log2 of the size, and whether it is a page that a leaf maps, or a table. -/
def tableSpans (m : DevMem) (table lvl : Nat) : Nat → List (Nat × Nat × Bool)
  | 0 => []
  | fuel + 1 =>
    (table, if lvl = 3 then 8 else 12, false) :: (List.range (if lvl = 3 then 32 else 512)).flatMap (fun i =>
      let e := m.newestLE (table + 8 * i) 8
      if !e.testBit 0 || !pteOk e lvl then []
      else if e.testBit 3 then [(bitsOf e 16 32 * 2 ^ 16, levelShift lvl, true)]
      else tableSpans m (bitsOf e 16 32 * 2 ^ 16) (lvl + 1) fuel)

/-- Physical pages below a root: base and log2 of the size of each leaf. -/
def tablePages (m : DevMem) (root : Nat) : List (Nat × Nat) :=
  (tableSpans m root 0 4).filterMap (fun p => if p.2.2 then some (p.1, p.2.1) else none)

/-- A whole walk of the offset [47:0] of a device address. -/
def walkPage (m : DevMem) (root va : Nat) : Option PageEnt := walkFrom m root 0 (va % 2 ^ 48) 4

def PageEnt.holds (p : PageEnt) (va : Nat) : Bool := decide (va / 2 ^ p.log2 * 2 ^ p.log2 = p.base)
def PageEnt.phys (p : PageEnt) (va : Nat) : Nat := p.pa + va % 2 ^ p.log2

/-- The root of a context's table for a package: its own, or the one bound to it there (R318, R425). -/
def State.rootFor (s : State) (ctx pkg : Nat) : Option Nat :=
  (s.ctx? ctx).bind (fun c => if pkg = s.pkg then some c.root else (c.peers.find? (fun p => decide (p.1 = pkg))).map (·.2))

/-- The page that a walk reaches now. -/
def State.walkNow (s : State) (ctx pkg va : Nat) : Option PageEnt :=
  (s.rootFor ctx pkg).bind (fun r => walkPage (s.memOf pkg) r va)

/-- The translation that a core's TLBs hold (R321). -/
def State.tlbFind (s : State) (core ctx pkg va : Nat) : Option PageEnt :=
  (s.tlb.find? (fun e => (decide (e.at_ = .core core) || decide (e.at_ = .cluster (clusterOf core))) &&
    decide (e.ctx = ctx ∧ e.pkg = pkg) && e.page.holds va)).map (·.page)

/-- What translation gives: every page, or an XLATE, or walks that the instruction must wait for. -/
inductive Xlate where
  | hit (ps : List PageEnt)
  | fault (s : State)
  | wait (s : State)

/-- A translation of a place other than a core: what it holds, else what a walk reaches (R321). -/
def State.pageAt (s : State) (t : TlbAt) (ctx pkg va : Nat) : Option PageEnt :=
  match s.tlb.find? (fun e => decide (e.at_ = t ∧ e.ctx = ctx ∧ e.pkg = pkg) && e.page.holds va) with
  | some e => some e.page
  | none => s.walkNow ctx pkg va

/-- That place holds the translation from now on, until a TLBINV covers it (R321, R322). -/
def State.keepPage (s : State) (t : TlbAt) (ctx pkg va : Nat) : State :=
  match s.pageAt t ctx pkg va with
  | some p => if s.tlb.any (fun e => decide (e = ⟨t, ctx, pkg, p⟩)) then s else { s with tlb := s.tlb ++ [⟨t, ctx, pkg, p⟩] }
  | none => s

/-- The translations of `n` bytes. -/
def State.keepRange (s : State) (t : TlbAt) (ctx pkg va n : Nat) : State :=
  (List.range ((n + 65535) / 65536)).foldl (fun s k => s.keepPage t ctx pkg (va + 65536 * k))
    (if n = 0 then s else s.keepPage t ctx pkg (va + n - 1))

/-- Whether a walk is for the page of an address, as far as is known before it ends: the smallest page that holds it. -/
def Walk.seeks (k : Walk) (ctx pkg va : Nat) : Bool := decide (k.ctx = ctx ∧ k.pkg = pkg ∧ k.va / 2 ^ 16 = va / 2 ^ 16)
def Walk.serves (k : Walk) (core : Nat) : Bool := k.asks.any (fun a => decide (a.core = core))

/-- The walk in progress, or failed, that serves a core for an address. -/
def State.walkFor (s : State) (core ctx pkg va : Nat) : Option Walk := s.walks.find? (fun k => k.serves core && k.seeks ctx pkg va)

/-- A walk begins, or is shared with the cores of the die that wait for the same page (R321). -/
def State.askWalk (s : State) (a : Ask) (ctx pkg va : Nat) : State :=
  if (s.walkFor a.core ctx pkg va).isSome then s
  else
    let shared := fun (k : Walk) => !k.failed && k.stale.isEmpty && k.seeks ctx pkg va && k.asks.any (fun b => decide (dieOf b.core = dieOf a.core))
    if s.walks.any shared then { s with walks := s.walks.map (fun k => if shared k then { k with asks := k.asks ++ [a] } else k) }
    else
      let (id, s) := s.newId
      { s with walks := s.walks ++ [⟨id, [a], ctx, pkg, va, false, []⟩] }

/-- Translates the addresses of an instruction of a core (R309 item 4, R321). -/
def State.translate (s : State) (a : Ask) (ctx pkg : Nat) (vas : List Nat) : Xlate :=
  let core := a.core
  let rs := vas.map (fun va => s.tlbFind core ctx pkg va)
  if rs.all Option.isSome then .hit (rs.filterMap id)
  else
    let miss := vas.filter (fun va => (s.tlbFind core ctx pkg va).isNone)
    if miss.any (fun va => match s.walkFor core ctx pkg va with | some w => w.failed | none => false) then
      .fault { s with walks := s.walks.filterMap (fun k =>
        if k.failed && miss.any (fun va => k.seeks ctx pkg va) then
          (match k.asks.filter (fun b => decide (b.core ≠ core)) with
           | [] => none
           | as => some { k with asks := as })
        else some k) }
    else .wait (miss.foldl (fun s va => s.askWalk a ctx pkg va) s)

end Sys2Proof.Machine
end

