-- ==== Sys2Proof/Machine/Log.lean ====
section
/-!
DEFINITION. The replay log of a context (R410), what a replay expects (R411, R412), the logged commit of a phase, and the records of the
trace path (R403, R405, R407).
-/
namespace Sys2Proof.Machine

open Sys2Proof

/-! ### The log -/

/-- Records or entries that a ring holds after its 64-byte header (R403). -/
def Ring.slots (r : Ring) : Nat := (2 ^ r.log2 - 64) / 64

/-- The key of a host address: the context's function and PASID above the IOVA (R315). -/
def hostKey (ctx iova : Nat) : Nat := ctx * 2 ^ 57 + iova
def State.hostLE (s : State) (ctx iova n : Nat) : Nat := Tab.readLE s.hostMem (hostKey ctx iova) n
def State.setHost (s : State) (ctx iova : Nat) (bs : List Byte) : State :=
  { s with hostMem := Tab.writeBytes s.hostMem (hostKey ctx iova) bs }

/-- Ring entries that `n` values of an input take: three to an entry (log 63). -/
def inputUnits (n : Nat) : Nat := max 1 ((n + 2) / 3)

/-- Ring entries that a log entry takes. -/
def LogEntry.units : LogEntry → Nat
  | .input _ _ _ _ _ vals => inputUnits vals.length
  | _ => 1
def logUnits (l : List LogEntry) : Nat := (l.map LogEntry.units).foldl (· + ·) 0

/-- The ring entries of a log entry, of 64 bytes each: its kind, the core, the retired count, and what it holds (R410; log 63). -/
def LogEntry.bytes (e : LogEntry) : List Byte :=
  let head := fun (kind n core place count : Nat) =>
    natToBytes 1 kind ++ natToBytes 1 n ++ natToBytes 2 core ++ natToBytes 4 place ++ natToBytes 8 count
  match e with
  | .phase core n pos d => head 1 0 core 0 n ++ natToBytes 8 pos ++ d ++ natToBytes 32 0
  | .atomic core n lane pos => head 2 lane core 0 n ++ natToBytes 8 pos ++ natToBytes 40 0
  | .grant core grid tile => head 3 0 core 0 0 ++ natToBytes 8 grid ++ natToBytes 8 tile ++ natToBytes 32 0
  | .bead core n lane addr pos => head 4 lane core 0 n ++ natToBytes 8 addr ++ natToBytes 8 pos ++ natToBytes 32 0
  | .input core u n place lane vals =>
    (List.range (inputUnits vals.length)).flatMap (fun k =>
      head (if u then 6 else 5) lane core place n ++ (List.range 3).flatMap (fun j => natToBytes 16 (vals.getD (3 * k + j) 0)))
  | .ckpt num ck => head 7 0 0 0 num ++ natToBytes 8 ck ++ natToBytes 40 0

/-- Whether a context may log `n` more ring entries: recording is off, or its ring has room (R410). -/
def State.logRoomFor (s : State) (c n : Nat) : Bool :=
  match s.ctx? c with
  | some x => !x.recording || (match x.rring with
    | some r => decide (logUnits x.log + n ≤ x.read + r.slots)
    | none => true)
  | none => true
def State.logRoom (s : State) (c : Nat) : Bool := s.logRoomFor c 1

def LogEntry.isStamp : LogEntry → Bool
  | .phase .. | .atomic .. => true
  | _ => false
/-- A bead of a package, as entries of the log and the count of its operations name it. -/
def beadKey (pkg pa : Nat) : Nat := pkg * 2 ^ 48 + pa
def LogEntry.isBeadAt (a : Nat) : LogEntry → Bool
  | .bead _ _ _ addr _ => decide (addr = a)
  | _ => false
/-- The input of one instruction of a core, or of one lane of it: of a frame's by its retired count, of a U instruction by its place. -/
def LogEntry.isInputOf (core : Nat) (u : Bool) (at_ lane : Nat) : LogEntry → Bool
  | .input k v n p l _ => decide (k = core ∧ v = u ∧ (if u then p else n) = at_ ∧ l = lane)
  | _ => false
def LogEntry.isGrantOf (core : Nat) : LogEntry → Bool
  | .grant k _ _ => decide (k = core)
  | _ => false
def LogEntry.core : LogEntry → Nat
  | .phase k .. | .atomic k .. | .grant k .. | .bead k .. | .input k .. => k
  | .ckpt .. => 0

/-- The next entry of a kind that a replay of the context expects. -/
def State.expects (s : State) (c : Nat) (p : LogEntry → Bool) : Option LogEntry :=
  ((s.ctx? c).bind (·.replay)).bind (fun r => r.left.find? p)

/-- A replayed entry has come; a replay without entries and without a stop is over, and execution goes on live (R411). -/
def State.replayed (s : State) (c : Nat) (e : LogEntry) : State :=
  s.updCtx c (fun x => match x.replay with
    | some r =>
      let left := r.left.erase e
      { x with replay := if left.isEmpty && r.stop.isNone then none else some { r with left := left } }
    | none => x)

/-- Writes an entry into a replay ring at a place, with the header's write index behind it (R403, R410). -/
def State.ringPut (s : State) (r : Ring) (at_ : Nat) (e : LogEntry) : State :=
  let h := r.func * 2 ^ 20
  let s := (List.range e.units).foldl (fun s k =>
    s.setHost h (r.base + 64 + 64 * ((at_ + k) % r.slots)) ((e.bytes.drop (64 * k)).take 64)) s
  s.setHost h r.base (natToBytes 8 (at_ + e.units))

/-- Logs an entry of a context that records: in the log, and in the host ring. -/
def State.logAdd (s : State) (c : Nat) (e : LogEntry) : State :=
  match s.ctx? c with
  | none => s
  | some x =>
    if !x.recording then s
    else
      let s := match x.rring with | some r => s.ringPut r (logUnits x.log) e | none => s
      s.updCtx c (fun x => { x with log := x.log ++ [e] })

/-- Logs a stamp of the context, with its place in the commit order. -/
def State.logStamp (s : State) (c : Nat) (mk : Nat → LogEntry) : State :=
  match s.ctx? c with
  | none => s
  | some x => if x.recording then (s.logAdd c (mk x.order)).updCtx c (fun x => { x with order := x.order + 1 }) else s

/-- Every party of a context stops, and the debugger holds it (R78); a SLEEP ends (R181; log 70). -/
def State.holdCtx (s : State) (c : Nat) : State :=
  s.mapWgs (fun w =>
    if s.ctxOfWg w = c then
      { (w.wakeAll wakeDebug).mapFrames (fun fr => (fr.restartChain.mapSplits (fun p => { p with dbg := true })).hold s.tick) with rdbg := true }
    else w)

/-- Replay stops with DIVERGE, which names the phase by its place in the commit order (R412). -/
def State.diverge (s : State) (c core phase : Nat) : State := (s.holdCtx c).report c (.diverge core phase)

/-- The frame instruction of a retired count lies behind a workgroup, and none of its requests is still to be answered. -/
def Wg.passed (w : Wg) (n : Nat) : Bool := decide (n < w.retired) && !w.reqs.any (fun r => decide (r.ret = n))

/-- The retired count at the issue of a request, and its lane, by which the log knows it; PUBLISH has lane 32. -/
def Wg.issueOf (w : Wg) (src : Source) : Nat × Nat :=
  match src with
  | .lane _ _ n l => (((w.reqs.find? (fun (r : Req) => decide (r.id = n))).map (·.ret)).getD w.retired, l)
  | .packet _ _ | .peer _ => (w.retired, 32)

/-- Whether a commit, or the atomic `at_`, of a workgroup may take its stamp now: the log has room, and in a replay its turn has come (R410, R412). A commit
whose core has passed the atomic that is expected goes on, and diverges. -/
def State.mayStamp (s : State) (c : Nat) (w : Wg) (at_ : Option (Nat × Nat)) : Bool :=
  s.logRoom c && (match s.expects c LogEntry.isStamp with
    | some (.phase k ..) => at_.isNone && decide (k = w.home)
    | some (.atomic k n l _) => decide (k = w.home) && (match at_ with
      | some a => decide (l = a.2 ∧ (n = a.1 ∨ l = 32))
      | none => decide (l ≠ 32) && w.passed n)
    | _ => true)

/-- Whether the bead operation `at_` of a workgroup may be performed now. -/
def State.mayBead (s : State) (c : Nat) (w : Wg) (at_ : Nat × Nat) (key : Nat) : Bool :=
  s.logRoom c && (match s.expects c (LogEntry.isBeadAt key) with
    | some (.bead k n l _ _) => decide (k = w.home ∧ (n, l) = at_)
    | _ => true)

/-- The last stamp was taken for a context, as a rollback asks (R411). -/
def State.markStamp (s : State) (c : Nat) : State :=
  match s.ctx? c with
  | some _ => { s with taker := Tab.set 0 s.taker s.last (c + 1) }
  | none => s

/-- What the versions of a phase hold in a granule: mask and bytes, the upper version winning. -/
def granItem (vs : List Version) (g : Nat) : List Byte :=
  let bs := (List.range 64).filterMap (fun k =>
    (vs.findSome? (fun v => if v.gran = g then Tab.get none v.bytes k else none)).map (fun b => (k, b)))
  natToBytes 8 ((bs.map (fun p => 2 ^ p.1)).foldl (· + ·) 0) ++ bs.map (·.2)

/-- The bytes and masks that a phase holds in one package's memory, by rising granule (log 9). -/
def DevMem.digestOf (m : DevMem) (pkg : Nat) (o : Owner) : List Byte :=
  let vs := m.vers.filter (fun v => decide (v.owner = o))
  (Tab.setAll false [] (vs.map (fun v => (v.gran, true)))).flatMap (fun p => natToBytes 8 (2 ^ 48 * pkg + p.1) ++ granItem vs p.1)

/-- The digest of what a phase commits, here and at other packages (R410; log 9). -/
def State.digest (s : State) (tag : Nat) : List Byte :=
  shake256 (s.dev.digestOf 0 (.phase tag) ++ (s.peersOf tag).flatMap (fun p => (s.memOf p).digestOf (p + 1) (.phase tag))) 8

/-- Whether the instruction that an entry expects as an input lies behind the workgroup and has not been reached (R412). -/
def Wg.missed (w : Wg) : LogEntry → Bool
  | .input k false n _ _ _ => decide (k = w.home) && w.passed n
  | .input k true _ p _ _ => decide (k = w.home ∧ p < w.place) && !w.copies.any (fun x => decide (x.pos = p))
  | _ => false

/-- An input of a workgroup. -/
def LogEntry.isInputAt (core : Nat) : LogEntry → Bool
  | .input k .. => decide (k = core)
  | _ => false

/-- Whether a replay of the context expects an entry that `p` selects. -/
def State.stillExpects (s : State) (c : Nat) (p : LogEntry → Bool) : Bool := (s.expects c p).isSome

/-- An input that can no longer be reached: the context stops with DIVERGE, once for these entries (R412). It names the phase that comes next. -/
def State.inputMissed (s : State) (c core : Nat) (p : LogEntry → Bool) : State :=
  let at_ := match s.expects c LogEntry.isStamp with
    | some (.phase _ _ n _) | some (.atomic _ _ _ n) => n
    | _ => match s.ctx? c with | some x => x.order | none => 0
  (s.updCtx c (fun x => { x with replay := x.replay.map (fun r => { r with left := r.left.filter (fun e => !p e) }) })).diverge c core at_

/-- Logs a PHASE entry, or checks it against the one that the replay expects. -/
def State.logPhase (s : State) (c : Nat) (w : Wg) (digest : List Byte) : State :=
  match s.expects c LogEntry.isStamp with
  | some e =>
    let s := s.replayed c e
    let late := match (s.ctx? c).bind (·.replay) with
      | some r => r.left.any (fun i => w.missed i)
      | none => false
    match e with
    | .phase _ n p d => if decide (n ≠ w.retired) || decide (d ≠ digest) || late then s.diverge c w.home p else s
    | .atomic _ _ _ p => s.diverge c w.home p
    | _ => s
  | none => s.logStamp c (fun n => .phase w.home w.retired n digest)

/-- Logs the stamp of an atomic. -/
def State.logAtomicOf (s : State) (c : Nat) (w : Wg) (at_ : Nat × Nat) : State :=
  match s.expects c LogEntry.isStamp with
  | some e => s.replayed c e
  | none => s.logStamp c (fun n => .atomic w.home at_.1 at_.2 n)

/-- A value from outside the versioned memory: it is logged, or the replay gives the logged one of the same instruction, which `at_` names by its retired
count or, a U instruction, by its place. -/
def State.logInput (s : State) (c : Nat) (w : Wg) (u : Bool) (at_ lane : Nat) (vals : List Nat) : List Nat × State :=
  match s.expects c (LogEntry.isInputOf w.home u at_ lane) with
  | some e => (match e with | .input _ _ _ _ _ vs => vs | _ => vals, s.replayed c e)
  | none => (vals, s.logAdd c (.input w.home u (if u then w.retired else at_) (if u then at_ else 0) lane vals))

/-- The context and workgroup of a request's source. -/
def State.sourceOf (s : State) (src : Source) : Option (Nat × Wg) :=
  match src with
  | .lane g i _ _ => (s.wg? g i).map (fun w => (s.ctxOfWg w, w))
  | .packet _ _ | .peer _ => none

/-- Logs the stamp of a class 0xB request, which it took in a package. -/
def State.logAtomic (s : State) (src : Source) (pkg : Nat) : State :=
  match s.sourceOf src with
  | some (c, w) => (if pkg = s.pkg then s.markStamp c else s).logAtomicOf c w (w.issueOf src)
  | none => s

/-- An operation is performed on a bead: it takes its place in the bead's order (R288). -/
def State.countBead (s : State) (key : Nat) : State := { s with beadOrd := Tab.set 0 s.beadOrd key (Tab.get 0 s.beadOrd key + 1) }

/-- Logs a bead operation, with its place in the bead's order (R410). -/
def State.logBead (s : State) (src : Source) (key : Nat) : State :=
  match s.sourceOf src with
  | some (c, w) =>
    match s.expects c (LogEntry.isBeadAt key) with
    | some e => s.replayed c e
    | none => s.logAdd c (.bead w.home (w.issueOf src).1 (w.issueOf src).2 key (Tab.get 0 s.beadOrd key))
  | none => s

/-- A commit of a workgroup's phase (R334), logged where the context records or replays (R410). `keep` says that it is no TXEND (R342). -/
def State.commitFor (s : State) (g i : Nat) (keep : Bool) : Committed :=
  let k := if keep then s.commitKeep g i else s.commitPhase g i
  match s.wg? g i with
  | some w =>
    let c := s.ctxOfWg w
    let on := match s.ctx? c with | some x => x.recording || x.replay.isSome | none => false
    if k.outcome ≠ 0 then k
    else if on then { k with s := (k.s.markStamp c).logPhase c w (s.digest w.phase.tag) }
    else { k with s := k.s.markStamp c }
  | none => k

/-! ### A checkpoint that waits (R408) -/

/-- Whether a checkpoint of a context has begun and is still to be taken. -/
def State.ckptPending (s : State) (c : Nat) : Bool := match s.ctx? c with | some x => x.pending.isSome | none => false
/-- Whether it has halted this workgroup, and nothing else has since. -/
def State.ckptHalted (s : State) (c : Nat) (w : Wg) : Bool :=
  match s.ctx? c with | some x => x.pending.isSome && x.halted.contains (w.grid, w.idx) | none => false
def State.inCkpt (s : State) (w : Wg) : Bool := s.ckptHalted (s.ctxOfWg w) w

/-! ### The trace path -/

/-- Numbers that the spec leaves open; each use takes the next ones (log 2). -/
def State.takeFree (s : State) (n : Nat) : List Nat × State :=
  ((List.range n).map (fun k => Config.freeNat (s.free + k)), { s with free := s.free + n })

/-- Writes a 64-byte record into a context's trace ring: dropped and counted where the ring is full, discarded where there is none
(R403). The write and read indexes count records. -/
def State.traceRecord (s : State) (c : Nat) (bs : List Byte) : State :=
  match (s.ctx? c).bind (·.ring) with
  | none => s
  | some r =>
    let h := r.func * 2 ^ 20
    let wr := s.hostLE h r.base 8
    if wr < s.hostLE h (r.base + 8) 8 + r.slots then
      (s.setHost h (r.base + 64 + 64 * (wr % r.slots)) bs).setHost h r.base (natToBytes 8 (wr + 1))
    else s.setHost h (r.base + 16) (natToBytes 8 (s.hostLE h (r.base + 16) 8 + 1))

/-- The checkpoint number of a context, and whether it replays. -/
def State.ckptNum (s : State) (c : Nat) : Nat := match s.ctx? c with | some x => x.num | none => 0
def State.inReplay (s : State) (c : Nat) : Bool := match s.ctx? c with | some x => x.replay.isSome | none => false

/-- The fields that every record begins with (R405). -/
def recHead (num : Nat) (rep : Bool) (kind frame core retired pc active : Nat) : List Byte :=
  natToBytes 1 kind ++ natToBytes 1 frame ++ natToBytes 2 (core + if rep then 2 ^ 15 else 0) ++ natToBytes 4 num ++
    natToBytes 8 retired ++ natToBytes 8 pc ++ natToBytes 4 active

/-- The head of a record whose point of execution is now. -/
def State.recordHead (s : State) (c kind frame core retired pc active : Nat) : List Byte :=
  recHead (s.ckptNum c) (s.inReplay c) kind frame core retired pc active

/-- A sample record (R407); `last` is the lane whose answer came last, where the requests have answers of their own. How long an access waited at a
level that it reaches, and whether the version caches hit, is timing, and so is the order of answers that come together: free values. -/
def State.sampleRecord (s : State) (c : Nat) (x : Sample) (last : Option Nat) : State :=
  let (f, s) := s.takeFree 9
  let n := fun (k : Nat) => f.getD k 0
  let lanes := lanesOf (BitVec.ofNat 32 x.active)
  let lane := last.getD (lanes.getD (n 0 % max 1 lanes.length) 0)
  let hits := if x.cached then n 1 % 4 else 0
  let levels := if hits % 2 = 1 then min 2 x.levels else if hits = 2 then min 3 x.levels else x.levels
  s.traceRecord c (recHead x.num x.rep 2 x.frame x.core x.retired x.pc x.active ++ natToBytes 2 x.opc ++ natToBytes 1 lane ++
    natToBytes 1 (min 255 x.replays) ++ natToBytes 2 x.sectors ++ natToBytes 2 (x.flags + hits) ++ natToBytes 4 0 ++
    (List.range 6).flatMap (fun k => natToBytes 4 (if k < levels then n (3 + k) else 0)))

end Sys2Proof.Machine
end

