-- ==== Sys2Proof/Machine/Beads.lean ====
section
/-!
DEFINITION. The service frames (R272 to R288): the home of a granule, the atomic operations, bit sets and beads, and waiter lists.
-/
namespace Sys2Proof.Machine

open Sys2Proof

/-! ### Atomic operations (R204, R278, R279) -/

/-- Element formats of a float type, least significant element first. -/
def atomFmt : ATy → Fmt
  | .bf16x2 => .bf16 | .f16x2 => .fp16 | _ => .fp32
def atomElems : ATy → Nat
  | .bf16x2 | .f16x2 => 2 | _ => 1
def atomWidth (ty : ATy) : Nat := 32 / atomElems ty

/-- A float operation element by element, with the union of the flags. -/
def atomFloat (f : Fmt → Nat → Nat → Nat × BitVec 5) (ty : ATy) (old b : Nat) : Nat × BitVec 5 :=
  let w := atomWidth ty
  let rs := (List.range (atomElems ty)).map (fun k => f (atomFmt ty) (bitsOf old (w * k) w) (bitsOf b (w * k) w))
  (packElems w (rs.map (·.1)), flagUnion (rs.map (·.2)))

/-- An integer of an atomic type: signed for .i, unsigned for .n. -/
def atomInt (ty : ATy) (x : Nat) : Int :=
  match ty with
  | .i32 => (BitVec.ofNat 32 x).toInt
  | .i64 => (BitVec.ofNat 64 x).toInt
  | _ => x

/-- The new bytes, where the operation writes, and its flags. `c` is the compare value. -/
def atomApply (op : AOp) (ty : ATy) (old b c : Nat) : Option Nat × BitVec 5 :=
  match op with
  | .add =>
    if ty.isFloat then
      let r := atomFloat (fun f x y => f.add .rne (f.read x) (f.read y)) ty old b
      (some r.1, r.2)
    else (some ((old + b) % 256 ^ ty.bytes), flagNone)
  | .min =>
    if ty.isFloat then let r := atomFloat (fun f => f.minMax false false) ty old b; (some r.1, r.2)
    else (some (if atomInt ty b < atomInt ty old then b else old), flagNone)
  | .max =>
    if ty.isFloat then let r := atomFloat (fun f => f.minMax true false) ty old b; (some r.1, r.2)
    else (some (if atomInt ty old < atomInt ty b then b else old), flagNone)
  | .and => (some (Nat.land old b), flagNone)
  | .or => (some (Nat.lor old b), flagNone)
  | .xor => (some (Nat.xor old b), flagNone)
  | .exch => (some b, flagNone)
  | .cas => (if old = c then some b else none, flagNone)

/-- Tag of the old value (R204, R278). -/
def atomTag : ATy → Tag
  | .f32 => .f32 | .bf16x2 => .bf16x2 | .f16x2 => .f16x2 | _ => .int

/-! ### Homes (R272) -/

/-- The slot of a granule in HOMETAB. -/
def homeSlot (pa : Nat) : Nat :=
  let g := bitsOf pa 6 42
  let h := Nat.xor (bitsOf g 0 32) (bitsOf g 32 10 * 2 ^ 22) * 0x85EBCA77 % 2 ^ 32
  h * 1536 / 2 ^ 32

/-- The home cluster; HOMETAB lists only what differs from HOMETAB[c] = c. A remote package's table is its own, and every entry of it
is taken as its default (log 5). -/
def State.homeOf (s : State) (pkg pa : Nat) : Nat :=
  if pkg = s.pkg then Tab.get (homeSlot pa) s.homeTab (homeSlot pa) else homeSlot pa

/-- The key of a home's queue: the cluster, and the package above it. -/
def homeKey (pkg home : Nat) : Nat := 1536 * pkg + home

/-! ### Performing a request -/

/-- What a bead operation does where the bead's state admits it (R286): the new bead, the value returned, and the predicate. -/
def beadApply (op : SOp) (b : Bead) : Option (Bead × Word64 × Bool) :=
  match op with
  | .bput v => if b.up then none else some (⟨v, true⟩, v, true)
  | .btake => if b.up then some (⟨b.value, false⟩, b.value, true) else none
  | .bpeek => some (b, b.value, b.up)
  | .binit up v => some (⟨v, up⟩, v, up)
  | .bwait => if b.up then some (b, b.value, true) else none
  | _ => none

def opIsBead : SOp → Bool
  | .bput _ | .btake | .bpeek | .binit _ _ | .bwait => true
  | _ => false

/-- The bead operations that can wait for their bead (R286, R287). -/
def opWaits : SOp → Bool
  | .bput _ | .btake | .bwait => true
  | _ => false

/-- The bit list of ABSET8 and ABTST8 (R284): byte and bit of each index. -/
def bitList (v : Nat) : List (Nat × Nat) := (List.range 8).map (fun i => (bitsOf v (8 * i) 8 / 8, bitsOf v (8 * i) 8 % 8))

/-- The block after ABSET8. -/
def setBits (blk : List Byte) (v : Nat) : List Byte :=
  (bitList v).foldl (fun bs p => bs.set p.1 ((bs.getD p.1 0#8) ||| BitVec.ofNat 8 (2 ^ p.2))) blk

def testBits (blk : List Byte) (v : Nat) : Bool := (bitList v).all (fun p => (blk.getD p.1 0#8).getLsbD p.2)

def State.sendReply (s : State) (r : Reply) : State :=
  let (id, s) := s.newId
  { s with replies := s.replies ++ [(id, r)] }

/-- Performs an atomic or a bit set at its home on the newest committed bytes (R278, R281, R284). -/
def State.performAtomic (s : State) (r : SReq) : State :=
  let m := s.memOf r.pkg
  let die := s.homeOf r.pkg r.pa / 24
  match r.op with
  | .atom op ty b =>
    let old := m.newestLE r.pa ty.bytes
    let x := atomApply op ty old b 0
    let s := match x.1 with
      | some new => (((s.storeCommitted r.pkg die r.pa (natToBytes ty.bytes new)).2).logAtomic r.src r.pkg)
      | none => s
    let s := { s with svcFlags := if r.fl && decide (r.pkg = s.pkg) then Tab.set 0#5 s.svcFlags (16 * s.homeOf r.pkg r.pa + r.ptop)
                        (Tab.get 0#5 s.svcFlags (16 * s.homeOf r.pkg r.pa + r.ptop) ||| x.2) else s.svcFlags }
    s.sendReply ⟨r.src, r.pkg, old, false, x.2, 0⟩
  | .cas ty b c =>
    let old := m.newestLE r.pa ty.bytes
    let s := if old = c then ((s.storeCommitted r.pkg die r.pa (natToBytes ty.bytes b)).2).logAtomic r.src r.pkg else s
    s.sendReply ⟨r.src, r.pkg, old, false, flagNone, 0⟩
  | .abset v =>
    let blk := m.bytesAt none r.pa 32
    let new := setBits blk v
    let changed := ((blk.zip new).zipIdx).filterMap (fun p => if p.1.1 = p.1.2 then none else some (p.2, p.1.2))
    let s := if changed.isEmpty then s
      else
        let (t, s) := s.takeStampOf r.pkg die
        let m := changed.foldl (fun m p => m.put (.committed t) (r.pa + p.1) [p.2]) (s.memOf r.pkg)
        (s.setMemOf r.pkg m).logAtomic r.src r.pkg
    s.sendReply ⟨r.src, r.pkg, 0, false, flagNone, 0⟩
  | .abtst v =>
    s.sendReply ⟨r.src, r.pkg, if testBits (m.bytesAt none r.pa 32) v then 1 else 0, false, flagNone, 0⟩
  | _ => s

/-- Performs a bead operation that the bead's state admits; none where it does not. -/
def State.performBead (s : State) (r : SReq) : Option State :=
  match beadApply r.op ((s.memOf r.pkg).bead r.pa) with
  | none => none
  | some (b, v, p) =>
    let s := s.setMemOf r.pkg ((s.memOf r.pkg).setBead r.pa b)
    some (((s.logBead r.src (beadKey r.pkg r.pa)).countBead (beadKey r.pkg r.pa)).sendReply ⟨r.src, r.pkg, v.toNat, p, flagNone, 0⟩)

/-- Whether the log, or a replay, lets a bead operation be performed now (R410, R412). -/
def State.beadMay (s : State) (r : SReq) : Bool :=
  match s.sourceOf r.src with
  | some (c, w) => s.mayBead c w (w.issueOf r.src) (beadKey r.pkg r.pa)
  | none => true

/-- The oldest waiter of a bead that its state admits (R287). -/
def State.nextWaiter (s : State) (pkg pa : Nat) : Option BeadWait :=
  s.waits.find? (fun w => decide (w.pkg = pkg ∧ w.pa = pa) && (beadApply w.req.op ((s.memOf pkg).bead pa)).isSome && s.beadMay w.req)

/-- Performs admitted waiters of a bead, oldest first, until none is admitted. -/
def State.serveWaiters (s : State) (pkg pa : Nat) : Nat → State
  | 0 => s
  | fuel + 1 =>
    match s.nextWaiter pkg pa with
    | none => s
    | some w =>
      let s := { s with waits := s.waits.erase w }
      match s.performBead w.req with
      | some s => s.serveWaiters pkg pa fuel
      | none => s

/-- A bead set up as BINIT with UP = 1 does (R298); the oldest taker comes next. -/
def State.beadUp (s : State) (pa : Nat) (v : Word64) : State :=
  let s := ({ s with dev := s.dev.setBead pa ⟨v, true⟩ } : State).countBead (beadKey s.pkg pa)
  s.serveWaiters s.pkg pa s.waits.length

/-- A request reaches the head of its home's queue: it is performed, or joins the bead's waiters, or is returned as the 65th (R287). -/
def State.service (s : State) (r : SReq) : State :=
  if opIsBead r.op then
    match s.performBead r with
    | some s => s.serveWaiters r.pkg r.pa s.waits.length
    | none =>
      if 64 ≤ (s.waits.filter (fun w => decide (w.pkg = r.pkg ∧ w.pa = r.pa))).length then
        { s with returned := s.returned ++ [{ r with since := s.tick }] }
      else { s with waits := s.waits ++ [⟨r.pkg, r.pa, r⟩] }
  else s.performAtomic r

/-- Puts a request among others in the order in which they were issued: their numbers rise. -/
def issueOrder (r : SReq) : List SReq → List SReq
  | [] => [r]
  | k :: t => if r.id ≤ k.id then r :: k :: t else k :: issueOrder r t

/-- Takes the service requests that `p` selects and that are not performed: on their way to their home, at it or waiting there. They come in the order of their
issue, in which a lane's and an instruction's go to their homes again (R282). -/
def State.takeService (s : State) (p : SReq → Bool) : List SReq × State :=
  (((s.svcQ.flatMap (fun k => k.2.getD []) ++ s.waits.map (fun w => w.req) ++ s.returned).filter p).foldr issueOrder [],
   { s with
    svcQ := s.svcQ.filterMap (fun k => let l := (k.2.getD []).filter (fun r => !p r); if l.isEmpty then none else some (k.1, some l)),
    waits := s.waits.filter (fun w => !p w.req), returned := s.returned.filter (fun r => !p r) })

/-- The request queue of a home: 256 entries. What is sent beyond them waits on its way, in its order, and enters as room comes (R272; log 62). -/
def State.homeQueue (s : State) (k : Nat) : List SReq := ((Assoc.at s.svcQ k).getD []).take 256

/-- Sends a request to its home's queue. -/
def State.sendService (s : State) (r : SReq) : State :=
  let k := homeKey r.pkg (s.homeOf r.pkg r.pa)
  { s with svcQ := Assoc.put s.svcQ k ((Assoc.at s.svcQ k).getD [] ++ [r]) }

end Sys2Proof.Machine
end

