-- ==== Sys2Proof/Machine/GridOps.lean ====
section
/-!
DEFINITION. Queues and grids as other rules use them: interrupts (R380), packet completion (R372, R373), stops and reports (R376, R377),
completion records and beads (R219, R298), holds, halts under CONTAIN and teardown (R90, R296, R377).
-/
namespace Sys2Proof.Machine

open Sys2Proof

/-! ### Interrupts and queue stops -/

/-- Signals a vector of a function: at once, or by the coalescing timer (R380). -/
def State.signal (s : State) (func vec : Nat) : State :=
  if Tab.get 0 s.coalesce func = 0 then { s with msiSent := s.msiSent ++ [(func, vec)] }
  else
    { s with msiPend := if s.msiPend.contains (func, vec) then s.msiPend else s.msiPend ++ [(func, vec)],
             msiSince := if (Assoc.at s.msiSince func).isSome then s.msiSince else Assoc.put s.msiSince func s.tick }

def State.signalQueue (s : State) (q : Nat) : State :=
  match s.queue? q with
  | some x => s.signal x.desc.func x.desc.vector
  | none => s

/-- Stops a queue with a code and signals (R376, R380). -/
def State.stopQueue (s : State) (q code : Nat) : State := (s.updQueue q (fun x => { x with stop := code })).signalQueue q

def State.addReport (s : State) (q : Nat) (r : Report) : State := s.updQueue q (fun x => { x with reports := x.reports ++ [r] })

/-- STATUS bit 3: a grid of the queue holds a workgroup (R371). -/
def State.qHeld (s : State) (q : Nat) : Bool := s.grids.any (fun g => decide (g.queue = q ∧ g.st = .held))
/-- STATUS bit 2. -/
def State.qWaitres (s : State) (q : Nat) : Bool := s.grids.any (fun g => decide (g.queue = q) && g.waitres)
/-- STATUS bit 1. -/
def State.qGangplace (s : State) (q : Nat) : Bool := s.grids.any (fun g => decide (g.queue = q ∧ g.st = .pending) && g.reported)

/-- How long ago a grid was accepted, in grids accepted since (R291). -/
def State.gridAge (s : State) (id : Nat) : Nat := (s.lastGrid + (2 ^ 32 - 1) - id) % (2 ^ 32 - 1)

/-- The report that a queue shows: that of the oldest grid among its reports (R377). -/
def State.qReport (s : State) (q : Nat) : Option Report :=
  match s.queue? q with
  | none => none
  | some x => x.reports.foldl (fun (best : Option Report) r => match best with
      | none => some r
      | some b => if s.gridAge b.grid < s.gridAge r.grid then some r else some b) none

/-- RGRID, RWG, RCODE and RPC of the queue's notify page (R371): 0 with no report. -/
def State.qRgrid (s : State) (q : Nat) : Word32 := match s.qReport q with | some r => BitVec.ofNat 32 r.grid | none => 0
def State.qRwg (s : State) (q : Nat) : Word32 := match s.qReport q with | some r => BitVec.ofNat 32 r.wg | none => 0
def State.qRcode (s : State) (q : Nat) : Word32 :=
  match s.qReport q with | some r => BitVec.ofNat 32 (r.code % 256 + r.kind * 2 ^ 8 + r.trap * 2 ^ 16) | none => 0
def State.qRpc (s : State) (q : Nat) : Word64 := match s.qReport q with | some r => BitVec.ofNat 64 r.pc | none => 0

def Await.blocks : Await → Bool
  | .bead _ | .commit _ => true
  | _ => false

/-- The queue's STATUS register (R371). -/
def State.qStatus (s : State) (q : Nat) : Word32 :=
  match s.queue? q with
  | none => 0
  | some x => BitVec.ofNat 32 (x.stop * 2 ^ 24 + (if s.qHeld q then 8 else 0) + (if s.qWaitres q then 4 else 0) +
      (if s.qGangplace q then 2 else 0) + (if x.since.isSome then 1 else 0))

/-! ### Bead addresses of queues (R373) -/

/-- Form of a bead address: a multiple of 8 on the device or the peer path, no bit outside its fields. -/
def beadForm (a : Nat) : Bool :=
  decide (a % 8 = 0) &&
  (decide (bitsOf a 60 4 = 0 ∧ bitsOf a 48 12 = 0) || decide (bitsOf a 60 4 = 8 ∧ bitsOf a 56 4 = 0)) && decide (a < 2 ^ 64)

/-- Where a bead address of a queue leads: package and physical address; none gives BEADPAGE. -/
def State.beadAt (s : State) (d : QueueDesc) (a : Nat) : Option (Nat × Nat) :=
  let pkg := if bitsOf a 60 4 = 8 then bitsOf a 48 8 else s.pkg
  if bitsOf a 60 4 = 8 && (decide (pkg = s.pkg) || !s.fabric.any (fun e => decide (e.1 = pkg))) then none
  else match s.pageAt .unit (ctxOfDesc d) pkg (a % 2 ^ 48) with
    | some p => if p.vmode = 2 && decide (p.pkey = d.ptop) then some (pkg, p.phys (a % 2 ^ 48)) else none
    | none => none

/-- Whether a bead address names a package to which no ready port leads: nothing goes there, and a request to it ends without being performed (R424, R429;
DESIGN CHOICE, log 42). -/
def State.beadCut (s : State) (a : Nat) : Bool :=
  decide (bitsOf a 60 4 = 8) && s.fabric.any (fun e => decide (e.1 = bitsOf a 48 8)) && !s.pkgLive (bitsOf a 48 8)

/-- Sends a bead request of a queue's packet to the bead at an address that leads there; its number names the wait. -/
def State.sendBead (s : State) (q : Nat) (d : QueueDesc) (a pkg pa : Nat) (op : SOp) : Nat × State :=
  let (id, s) := (s.keepPage .unit (ctxOfDesc d) pkg (a % 2 ^ 48)).newId
  (id, s.sendService ⟨id, .packet q id, 6144, pkg, pa, op, d.ptop, false, s.tick⟩)

/-! ### Packets -/

/-- A packet is complete: it leaves, signals, and the queue stops where its grid's end asks for that (R372, R377, R380). -/
def State.closePkt (s : State) (q : Nat) (p : OpenPkt) : State :=
  let s := s.updQueue q (fun x => { x with pkts := x.pkts.filter (fun (y : OpenPkt) => decide (y.id ≠ p.id)) })
  let s := if p.intr then s.signalQueue q else s
  if p.stop = 0 then s else (p.reports.foldl (fun s r => s.addReport q r) s).stopQueue q p.stop

/-- A packet has its result: its bead is put, waiting as BPUT does, and then it signals and is complete (R372, R373). With a
bead page that is bad, only the stop signals (DEDUCED, log 13). -/
def State.packetDone (s : State) (q id res : Nat) : State :=
  match s.queue? q with
  | none => s
  | some x =>
    match x.pkts.find? (fun p => decide (p.id = id)) with
    | none => s
    | some p =>
      match p.put with
      | some a =>
        if s.beadCut a then s.closePkt q p
        else match s.beadAt x.desc a with
        | some (pkg, pa) =>
          let (rid, s) := s.sendBead q x.desc a pkg pa (.bput (BitVec.ofNat 64 res))
          s.updQueue q (fun x => { x with pkts := x.pkts.map (fun y => if y.id = id then { y with res := some res, wait := .bead rid } else y) })
        | none => (s.stopQueue q 0x14).closePkt q { p with intr := false }
      | none => s.closePkt q p

/-- The answer to a bead request of a packet: the wait of its header, its own operation, or the put of its completion bead (R372 to R374). -/
def State.packetReply (s : State) (q id val : Nat) : State :=
  match s.queue? q with
  | none => s
  | some x =>
    if x.pre = .bead id then s.updQueue q (fun x => { x with pre := .past val, since := none })
    else if x.op = .bead id then s.updQueue q (fun x => { x with op := .past val, since := none })
    else match x.pkts.find? (fun (p : OpenPkt) => decide (p.wait = .bead id)) with
      | some p => s.closePkt q p
      | none => s

/-! ### Completion records and beads (R219, R298) -/

/-- The bytes of a completion record. -/
def recordBytes (w : Wg) (gang : Nat) (endStamp : Nat) : List Byte :=
  let off := w.frames.any (fun fr => decide (fr.fmask ≠ 0))
  let ends := Nat.lor w.endflags ((if w.fault.isSome then 1 else 0) + (if off then 2 else 0))
  natToBytes 8 w.grid ++ natToBytes 4 w.idx ++ natToBytes 2 w.maxst ++
  natToBytes 1 (match w.fault with | some f => f.code.num | none => 0) ++
  natToBytes 1 (match w.fault with | some f => f.party | none => 0xFF) ++
  natToBytes 4 w.nz ++ natToBytes 4 ends ++ natToBytes 8 w.total ++ natToBytes 8 endStamp ++
  natToBytes 8 (match w.fault with | some f => f.pc | none => 0) ++ natToBytes 4 gang ++ natToBytes 12 0 ++
  (List.range 16).flatMap (fun f => natToBytes 4 (match w.frames[f]? with | some fr => fr.fmask.toNat | none => 0))

/-- The page of a completion area, and why it cannot be used: XLATE, PERM, or what `kind` says of its VMODE. -/
def State.areaPage (s : State) (g : Grid) (a : Nat) (bead : Bool) : Except Code PageEnt :=
  if 2 ^ 48 ≤ a then .error .xlate
  else match s.pageAt .unit (s.ctxOf g) s.pkg a with
    | none => .error .xlate
    | some p =>
      if !p.wr || decide (p.pkey ≠ g.ptop) then .error .perm
      else if bead then (if p.vmode = 2 then .ok p else .error .beadpage)
      else (if p.vmode = 2 then .error .atomtype else .ok p)

/-- The lowest workgroup index affected is kept (R377). -/
def keepLowest (old : Option (Nat × Code)) (i : Nat) (c : Code) : Option (Nat × Code) :=
  match old with
  | some (j, d) => if i < j then some (i, c) else some (j, d)
  | none => some (i, c)

/-- Writes a workgroup's record under a stamp that is already taken, or under one of its own; gives the stamp (R219). -/
def State.writeRecord (s : State) (g : Grid) (w : Wg) (stamp : Option Nat) : Nat × State :=
  let die := dieOf w.core
  let (t, s) := match stamp with
    | some t => (t, s)
    | none => let (t, s) := s.takeStamp die
              (t, s.markStamp (s.ctxOf g))
  if g.lrec.carea = 0 then (t, s)
  else
    let a := g.lrec.carea + 128 * w.idx
    match s.areaPage g a false with
    | .error c => (t, s.updGrid g.id (fun g => { g with dropRec := keepLowest g.dropRec w.idx c }))
    | .ok p =>
      let s := s.keepPage .unit (s.ctxOf g) s.pkg a
      let put := fun (s : State) (o : Nat) => { s with dev := s.dev.put (.committed o) (p.phys a) (recordBytes w w.gang t) }
      match stamp with
      | none => (t, put s t)
      | some _ => let (o, s) := s.takeStamp die
                  (t, put (s.markStamp (s.ctxOf g)) o)

/-- Puts the completion bead of an index up (R298). -/
def State.putEndBead (s : State) (g : Grid) (i v : Nat) : State :=
  if g.lrec.beads = 0 then s
  else
    let a := g.lrec.beads + 8 * i
    match s.areaPage g a true with
    | .error c => s.updGrid g.id (fun g => { g with dropBead := keepLowest g.dropBead i c })
    | .ok p => (s.keepPage .unit (s.ctxOf g) s.pkg a).beadUp (p.phys a) (BitVec.ofNat 64 v)

def State.putEndBeads (s : State) (g : Grid) (is : List Nat) (v : Nat) : State := is.foldl (fun s i => s.putEndBead g i v) s

/-- Indices that the grid could have placed and has not (R298). -/
def Grid.unplaced (g : Grid) : List Nat :=
  (List.range (g.lrec.gang * (g.lrec.gmax - g.placed))).map (fun k => g.lrec.gang * g.placed + k)

def Grid.placedIdx (g : Grid) : List Nat := List.range (g.lrec.gang * g.placed)

/-! ### Discarding what a workgroup holds -/

/-- Stops a workgroup's copies and discards its open groups, its phase and its waits (R268, R377). -/
def State.discardWg (s : State) (w : Wg) : State :=
  let s := s.discardPhase w.phase.tag
  let s := w.groups.foldl (fun s p => { s with dev := s.dev.discard (.shadow p.1 p.2) }) s
  { s with commits := s.commits.filter (fun c => match c.who with
      | .party x _ => !(decide (x.grid = w.grid ∧ x.wg = w.idx))
      | .act g i _ | .copy g i _ | .publish g i _ _ _ _ _ | .final g i => !(decide (g = w.grid ∧ i = w.idx))
      | .packet _ _ => true) }

/-- The gang's cores return to placement when every member has ended (R296). -/
def State.closeGangs (s : State) (g : Nat) : State :=
  s.updGrid g (fun x => { x with gangs := x.gangs.filter (fun k =>
    (List.range x.lrec.gang).any (fun p => !x.ended.contains (x.lrec.gang * k.idx + p))) })

/-- A workgroup has ended: it leaves its core, and its gang's cores when it was the last (R296, R298). -/
def State.endWg (s : State) (g i : Nat) : State :=
  ((s.dropWg g i).updGrid g (fun x => { x with ended := x.ended ++ [i] })).closeGangs g

/-- A held workgroup has ended: its report goes, and its grid is held only while another workgroup of it is (R377). -/
def State.unhold (s : State) (g i : Nat) : State :=
  match s.grid? g with
  | none => s
  | some x =>
    let s := s.updQueue x.queue (fun q => { q with reports := q.reports.filter (fun r => !(decide (r.grid = g ∧ r.wg = i ∧ r.kind = 1))) })
    if s.wgs.any (fun w => decide (w.grid = g ∧ w.run = .held)) then s else s.updGrid g (fun y => { y with st := if y.st = .held then .running else y.st })

/-- A halt under CONTAIN (R219, R296): the phase is discarded, the record written under its own stamp, then the bead put; a workgroup that was held is held no
longer (R377). -/
def State.haltContained (s : State) (g : Grid) (w : Wg) : State :=
  let s := s.discardWg w
  let (t, s) := s.writeRecord g w none
  let s := s.putEndBead g w.idx t
  let s := s.endWg g.id w.idx
  if w.run = .held then s.unhold g.id w.idx else s

/-- The stop code and the report of a grid's completion areas: BEADPAGE where a put was dropped, RECORD where only records were (R298, R377). -/
def Grid.areaStop (g : Grid) : Option (Nat × Report) :=
  match g.dropBead, g.dropRec with
  | some (i, c), r =>
    let i' := match r with | some (j, _) => min i j | none => i
    let c' := match r with | some (j, d) => if j < i then d else c | none => c
    some (0x14, ⟨3, g.id, i', c'.num, 0, 0⟩)
  | none, some (i, c) => some (0x16, ⟨3, g.id, i, c.num, 0, 0⟩)
  | none, none => none

/-- The grid's packet completes with the grid id, and then the queue stops with the reports, where there are any (R377). -/
def State.endPacket (s : State) (g : Grid) (code : Nat) (rs : List Report) : State :=
  match g.packet with
  | some id =>
    (s.updQueue g.queue (fun x => { x with pkts := x.pkts.map (fun (p : OpenPkt) => if p.id = id then { p with stop := code, reports := rs } else p) })).packetDone
      g.queue id g.id
  | none => if code = 0 then s else (rs.foldl (fun s r => s.addReport g.queue r) s).stopQueue g.queue code

/-- The address that RPC shows for a fault: 0 for an imprecise one (R221, R324, R371). -/
def rpcOf (code pc : Nat) : Nat := if code = Code.storage.num ∨ code = Code.mapstore.num then 0 else pc

/-- Tears a grid down (R377): phases, copies and groups discarded, cores, pins and reservations released, beads put, the packet completed,
the queue stopped with FAULT and a report of kind 2, and beside it the report of a completion area that a put met (log 13). -/
def State.teardown (s : State) (g : Grid) (code trap wg pc : Nat) : State :=
  let ws := s.wgs.filter (fun w => decide (w.grid = g.id))
  let s := ws.foldl (fun s w => s.discardWg w) s
  let s := ws.foldl (fun s w => s.dropWg g.id w.idx) s
  let s := s.putEndBeads g (g.placedIdx.filter (fun i => !g.ended.contains i)) 0xFFFFFFFFFFFFFFFE
  let s := s.putEndBeads g g.unplaced 0xFFFFFFFFFFFFFFFF
  let area := ((s.grid? g.id).getD g).areaStop
  let s := { s with grids := s.grids.filter (fun x => decide (x.id ≠ g.id)) }
  let s := s.updQueue g.queue (fun x => { x with reports := x.reports.filter (fun r => decide (r.grid ≠ g.id)) })
  s.endPacket g 0x15 (⟨2, g.id, wg, code, trap, rpcOf code pc⟩ :: area.elim [] (fun a => [a.2]))

/-- Holds a grid, or under CONTAIN one workgroup of it, at a TRAP or BRK (R90, R377). -/
def State.holdGrid (s : State) (g : Grid) (w : Wg) (code : Code) (trap pc : Nat) : State :=
  let was := s.qHeld g.queue
  let s := s.mapWgs (fun x =>
    if x.grid = g.id ∧ (x.idx = w.idx ∨ !g.contain) ∧ x.run = .running then { x.restartChains with run := .held } else x)
  let s := s.updGrid g.id (fun g => { g with st := .held })
  let s := s.addReport g.queue ⟨1, g.id, w.idx, code.num, trap, pc⟩
  if was then s else s.signalQueue g.queue

/-- Resumes every held workgroup of a grid (R90, R377). -/
def State.resumeGrid (s : State) (g : Grid) : State :=
  let s := s.mapWgs (fun x => if x.grid = g.id ∧ x.run = .held then { x with run := .running } else x)
  let s := s.updGrid g.id (fun g => { g with st := .running })
  s.updQueue g.queue (fun x => { x with reports := x.reports.filter (fun r => !(decide (r.grid = g.id ∧ r.kind = 1))) })

/-- Ends a grid whose placed workgroups have all ended (R298, R377). -/
def State.endGrid (s : State) (g : Grid) : State :=
  let s := s.putEndBeads g g.unplaced 0xFFFFFFFFFFFFFFFF
  let g' := (s.grid? g.id).getD g
  let s := { s with grids := s.grids.filter (fun x => decide (x.id ≠ g.id)) }
  match g'.areaStop with
  | some (code, r) => s.endPacket g code [r]
  | none => s.endPacket g 0 []

end Sys2Proof.Machine
end

