-- ==== Sys2Proof/Machine/Uses.lean ====
section
/-!
DEFINITION. What a word instruction reads, writes and is, as the machine needs it before the instruction executes: registers, latches,
slots, predicates, residues, and its kind.
-/
namespace Sys2Proof

/-! ### What an instruction touches -/

/-- Registers that a source reads: KIND 00 (R34, R35). -/
def Use.vregs (u : Use) : List Nat :=
  match u.src with
  | .reg n _ _ _ => (List.range (Use.group false u)).map (fun k => n.toNat + k)
  | _ => []
def Use.sregs (u : Use) : List Nat := match u.src with | .sreg n _ _ => [n.toNat] | _ => []
def Use.latches (u : Use) : List Nat := match u.src with | .latch n _ _ => [n.toNat] | _ => []
def Use.slots (u : Use) : List Nat := match u.src.slot with | some k => [k.toNat] | none => []

/-- Registers that DST names (R32). -/
def Shape.dstNames (p : Shape) : List Nat :=
  match p.dst with
  | some (d, n) => (List.range n).map (fun k => d.toNat + k)
  | none => []

/-- Registers that the instruction writes: with WBS = 1 none (R32). -/
def Shape.dstRegs (p : Shape) : List Nat := if p.ctl.wbs then [] else p.dstNames

def Shape.vregs (p : Shape) : List Nat := p.uses.flatMap Use.vregs
def Shape.slotsRead (p : Shape) : List Nat := p.uses.flatMap Use.slots
def Shape.anyMapped (p : Shape) : Bool := p.uses.any (fun u => u.src.mapped)

/-- Predicates that an instruction reads or writes beside its guard and PD. -/
def Instr.predsUsed : Instr → List Nat
  | .iadd _ _ _ true n _ _ _ _ | .isub _ _ _ true n _ _ _ _ => [n.toNat]
  | .sel _ _ n _ _ _ _ _ => [n.toNat]
  | .pset _ _ _ _ x _ y _ => [x.toNat, y.toNat]
  | .vote _ _ _ _ x _ => [x.toNat]
  | .pmov _ _ _ _ => List.range 7
  | .hcmp2 .. => List.range 7
  | _ => []

/-- Residues that an instruction reads or writes (R104, R165). -/
def Instr.residUsed : Instr → List Nat
  | .cvt _ .ef _ _ pl _ _ k => (List.range pl.count).map (fun j => k.toNat + j)
  | .cvt2 _ .ef _ _ _ _ _ k | .cvt8 _ .ef _ _ _ _ _ k => (List.range 8).map (fun j => k.toNat + j)
  | .cvt4 _ true _ _ _ k => (List.range 8).map (fun j => k.toNat + j)
  | .efmov _ _ _ _ k => [k.toNat]
  | _ => []

/-- Whether an instruction waits for the flags of earlier ones (R109, R190, R191). -/
def Instr.readsFlags : Instr → Bool
  | .srd _ _ n => decide (n = 0x18#8)
  | .swr _ _ n => decide (n = 0x18#8)
  | _ => false

/-- Classes 0x8 to 0xB: memory, atomics and beads (R388, R406). -/
def Shape.memory (p : Shape) : Bool := decide (8 ≤ p.op.toNat / 128 ∧ p.op.toNat / 128 ≤ 11)
/-- STG and STX, whose bytes enter the open phase (R310, R425). -/
def Shape.phaseStore (p : Shape) : Bool := decide (p.op = 0x481#11) || decide (p.op = 0x503#11)
/-- Loads at the snapshot: LDG and LDRO (R310, R334, R337). -/
def Shape.devLoad (p : Shape) : Bool := decide (p.op = 0x480#11) || decide (p.op = 0x482#11)
/-- Loads that see the snapshot or the phase's own bytes, and wait for the actions that change them: LDX too (R337, R425). -/
def Shape.phaseLoad (p : Shape) : Bool := p.devLoad || decide (p.op = 0x502#11)

/-- Slots named by the U instructions of class 0x7 (R11). -/
def Instr.mapSlot : Instr → Option Nat
  | .mapbind _ _ _ _ _ m | .mapclr _ _ m | .mapmode _ _ _ m | .mapscl _ _ _ m | .maprd _ _ _ m _ _ => some m.toNat
  | _ => none

/-- s-registers that a U instruction names beside its sources and its DST: a barrier's, and the group of TFETCH (R199, R299). -/
def Instr.sBeside : Instr → List Nat
  | .barU _ _ _ _ _ _ _ true n | .barwU _ _ _ true n => [n.toNat]
  | .tfetch c d => if c.wbs then [] else (List.range 4).map (fun k => d.toNat + k)
  | _ => []

/-- R60. -/
def Instr.privileged : Instr → Bool
  | .tlbinv .. | .csave .. | .crest .. | .signal .. => true
  | _ => false

end Sys2Proof
end

