-- ==== Sys2Proof/Machine/Ops.lean ====
section
/-!
DEFINITION. The shared operations of the parties of a core: taking a fault and going on after one (R89 to R91, R377), splits and parked
parts (R79 to R83), the conditions under which an instruction issues (R27, R40, R41, R47, R60, R86, R198, R199, R226), and its retirement.
-/
namespace Sys2Proof.Machine

open Sys2Proof

/-- The outcome of a step of this machine. -/
abbrev Out3 := Host.Outcome State Fault Refusal

/-! ### Splits and parked parts -/

def Split.gathers (p : Split) : Bool := match p.st with | .gather _ => true | _ => false

/-- A rod whose running part has left or stands at a gathering instruction switches to its next parked part (R81, R83). -/
def Frame.settleRod (fr : Frame) (r : Nat) : Frame :=
  match Tab.get [] fr.parked r with
  | [] => fr
  | p :: ps =>
    let here := fr.splits.filter (fun q => (rodsOf q.lanes).contains r && !(p :: ps).contains q.id)
    if here.all Split.gathers then { fr with parked := Tab.set [] fr.parked r ps } else fr

def Frame.settle (fr : Frame) : Frame := (List.range 8).foldl Frame.settleRod fr

/-- Lanes leave the live set, by EXIT or by a slice fault (R83, R88, R173); with them the debugger may have lost its last split of the frame (R92). -/
def Frame.kill (fr : Frame) (m : Word32) (now : Nat) : Frame :=
  let ss := (fr.splits.map (fun p => { p with lanes := p.lanes &&& ~~~m })).filter (fun p => decide (p.lanes ≠ 0))
  let fr := { fr with live := fr.live &&& ~~~m, splits := ss,
                      parked := fr.parked.filterMap (fun (k : Nat × List Nat) =>
                        let l := k.2.filter (fun id => ss.any (fun p => decide (p.id = id) && (rodsOf p.lanes).contains k.1))
                        if l.isEmpty then none else some (k.1, l)) }
  fr.settle.unhold now

/-- Distinct numbers in ascending order. -/
def insertSorted (n : Nat) : List Nat → List Nat
  | [] => [n]
  | m :: t => if n < m then n :: m :: t else if n = m then m :: t else m :: insertSorted n t
def sortNat (l : List Nat) : List Nat := l.foldr insertSorted []

/-- Inserts a split id among parked ones by ascending PC (R80). -/
def parkBy (pcOf : Nat → Nat) (id : Nat) : List Nat → List Nat
  | [] => [id]
  | m :: t => if pcOf id < pcOf m then id :: m :: t else m :: parkBy pcOf id t

/-- The lanes of a split go to their next PCs: the split goes on, divides, or is gone; new parts and parked ones stand in one list by rising address
(R80; DEDUCED, log 67). -/
def Frame.advance (fr : Frame) (sp : Split) (npc : Nat → Word64) : Frame :=
  let lanes := lanesOf sp.lanes
  match sortNat (lanes.map (fun l => (npc l).toNat)) with
  | [] => { fr with splits := fr.splits.filter (fun q => decide (q.id ≠ sp.id)) }.settle
  | [pc] => fr.setSplit { sp with pc := BitVec.ofNat 64 pc }
  | pcs =>
    let parts := (pcs.zipIdx fr.nextSplit).map (fun k =>
      { sp with id := k.2, pc := BitVec.ofNat 64 k.1, lanes := maskOf (lanes.filter (fun l => decide ((npc l).toNat = k.1))) })
    let all := fr.splits.filter (fun q => decide (q.id ≠ sp.id)) ++ parts
    let pcOf := fun id => match all.find? (fun q => decide (q.id = id)) with | some q => q.pc.toNat | none => 0
    let fr := { fr with splits := all, nextSplit := fr.nextSplit + parts.length }
    (rodsOf sp.lanes).foldl (fun fr r =>
      match (parts.filter (fun q => (rodsOf q.lanes).contains r)).map (·.id) with
      | [] => fr
      | _ :: rest => { fr with parked := Tab.set [] fr.parked r (rest.foldl (fun ps id => parkBy pcOf id ps) (Tab.get [] fr.parked r)) }) fr

/-- Every live rod stands at a gathering instruction, with no part parked (R81, R209, R237). -/
def Frame.allGather (fr : Frame) : Bool := fr.splits.all Split.gathers && decide (fr.parked = [])
def Frame.oneAddress (fr : Frame) : Bool :=
  match fr.splits with
  | [] => true
  | p :: ps => ps.all (fun q => decide (q.pc = p.pc))

/-- Every live rod of a frame stands at a gathering instruction, but not all at one address: the gathering has failed (R81, R209, R237), unless the
debugger holds one of them, for which the others wait without a fault (R92). -/
def Frame.gatherBad (fr : Frame) : Bool := fr.allGather && !fr.oneAddress && !fr.splits.any (·.dbg)

/-- The split of the frame that holds the lowest lane. -/
def Frame.lowestSplit (fr : Frame) : Option Split := (lowestLane fr.live).bind (fun l => fr.splits.find? (fun p => p.lanes.getLsbD l))

/-- The chain of a merged split: where every part stands in a chain of one head and length, each lane keeps its latches. -/
def mergeChains (ss : List Split) : Option Chain :=
  match ss with
  | [] => none
  | p :: ps => ps.foldl (fun (acc : Option Chain) (q : Split) =>
      match acc, q.chain with
      | some a, some b =>
        if a.head = b.head ∧ a.latches.length = b.latches.length then
          some ⟨a.head, (a.latches.zip b.latches).map (fun (z : Latch × Latch) =>
            ⟨Tab.setAll 0#32 z.1.val z.2.val, Tab.setAll Tag.int z.1.tag z.2.tag⟩)⟩
        else none
      | _, _ => none) p.chain

/-- The merge: all live lanes form one split (R81). -/
def Frame.merge (fr : Frame) : Frame :=
  match fr.lowestSplit with
  | some p => { fr with splits := [{ p with id := fr.nextSplit, lanes := fr.live, st := .run, chain := mergeChains fr.splits,
                                            step := fr.splits.any (·.step) }],
                        nextSplit := fr.nextSplit + 1, parked := [] }
  | none => fr

/-! ### Faults and traps -/

/-- The fault that ends a workgroup's run for good: it halts alone under CONTAIN, else its grid is torn down (R89, R296, R377). -/
def State.finalFault (s : State) (w : Wg) (r : FaultRec) : State :=
  match s.grid? w.grid with
  | none => s
  | some g =>
    let s := if s.attached w then s.report (s.ctxOf g) (.stop w.core r.party 0 r.code.num r.info) else s
    if g.contain then
      s.haltContained g { w with fault := some r, endflags := Nat.lor w.endflags 1 }
    else s.teardown g r.code.num 0 w.idx r.pc

/-- Changes a split. -/
def State.updSplit (s : State) (core f id : Nat) (g : Split → Split) : State :=
  match (s.onCore core).bind (fun w => (w.frame? f).map (fun fr => (w, fr))) with
  | some (w, fr) => s.setCore core (w.setFrame f (fr.mapSplits (fun p => if p.id = id then g p else p)))
  | none => s

/-- TAKING A FAULT. A party of the workgroup on a core faults at an instruction, which takes effect in no lane (R89). XLATE stops the
workgroup until it is resolved (R323), TRAP and BRK hold it (R90), every other code is final. `info` is the TRAP or BRK code. -/
def State.raise (s : State) (core party split : Nat) (pc : Word64) (code : Code) (info : Nat) : State :=
  match s.onCore core with
  | none => s
  | some w =>
    let w := w.restartChains
    let s := s.setCore core w
    match code with
    | .xlate =>
      (s.setCore core { w with run := .xlate party split pc.toNat }).updSplit core party split (fun p => { p with xl := p.xl + 1 })
    | .trap | .brk =>
      match s.grid? w.grid with
      | some g => s.holdGrid g w code info pc.toNat
      | none => s
    | _ => s.finalFault w ⟨code, party, pc.toNat, info⟩

/-- GOING ON AFTER A FAULT (R90, R323, R377): the workgroup that raised XLATE runs on where it stopped, and executes the instruction again, since its split
has not moved; in a grid that TRAP or BRK holds as a whole it is held too. -/
def State.resumeXlate (s : State) (g i : Nat) : State :=
  let held : Bool := (match s.grid? g with | some x => decide (x.st = .held) && !x.contain | none => false)
  s.updWg g i (fun w => match w.run with | .xlate _ _ _ => { w with run := if held then .held else .running } | _ => w)

/-- A split stopped by the debugger (R92): it is held, and reported; with frame-stop its frame's other splits are held too, and a SLEEP of theirs ends
(R181). -/
def State.debugStop (s : State) (core f : Nat) (sp : Split) (code info : Nat) (fstop : Bool) : State :=
  match s.onCore core with
  | none => s
  | some w =>
    match w.frame? f with
    | none => s
    | some fr =>
      let c := s.ctxOfWg w
      let stopAll := fstop || (match s.ctx? c with | some x => x.frameStop | none => false)
      let fr := (if stopAll then fr.wakeSleep wakeDebug else fr).restartChain.hold s.tick
      let fr := { fr with splits := fr.splits.map (fun p =>
                    if p.id = sp.id then { p with dbg := true, skipB := sp.skipB, skipW := sp.skipW, step := false }
                    else if stopAll then { p with dbg := true } else p) }
      (s.setCore core (w.setFrame f fr)).report c (.stop core f sp.id code info)

/-! ### The party that issues -/

/-- A frame's instruction at its issue: the core and workgroup, the frame, the split, the lanes whose guard holds (R84), CTL, and the
state. -/
structure FCtx where
  s : State
  core : Nat
  w : Wg
  f : Nat
  fr : Frame
  sp : Split
  act : Word32
  c : Ctl

/-- The reckoner's instruction at its execution, and whether its guard holds (R30). -/
structure RCtx where
  s : State
  core : Nat
  w : Wg
  on : Bool
  c : Ctl

/-- What comes of an attempt to issue. -/
inductive Issue (α : Type) where
  /-- No party of the right kind issues. -/
  | nobody
  /-- The party does not issue now; the state may have changed (a walk begun, a deferral counted). -/
  | wait (s : State)
  /-- It faults. -/
  | fault (code : Code)
  | go (x : α)

/-- The frame party that issues, if it may run at all. -/
def State.frameParty (s : State) : Option (Nat × Nat × Nat) :=
  match s.cur with
  | some (.frame core f sp) => some (core, f, sp)
  | _ => none

/-! ### What an instruction touches -/

def overlap (a b : List Nat) : Bool := a.any (fun x => b.contains x)

/-- Whether results that have not landed touch these registers, in these lanes or their rods, whose tags they write (R76), or in these lanes
these predicates and residues: the scoreboard of a frame. -/
def Wg.busy (w : Wg) (f : Nat) (lanes : Word32) (rs ps es : List Nat) (flags : Bool) : Bool :=
  w.passes.any (fun p => decide (p.frame = f) &&
    ((overlap (rodsOf p.lanes) (rodsOf lanes) && overlap p.regs rs) ||
     (decide (p.lanes &&& lanes ≠ 0) &&
      (p.pred.any (fun n => ps.contains n) || overlap (p.writes.resid.map (fun k => k.1 % 32)) es || flags)))) ||
  w.reqs.any (fun r => decide (r.frame = f) &&
    ((overlap (rodsOf r.wait) (rodsOf lanes) && !r.wbs && overlap ((List.range r.nregs).map (fun k => r.dst + k)) rs) ||
     (decide (r.wait &&& lanes ≠ 0) && ((decide (r.pd ≠ 7) && ps.contains r.pd) ||
      (flags && (match r.kind with | .atom fl _ => fl | .service fl _ _ => fl | _ => false))))))

/-! ### Conditions of ILLEGAL that need the machine (R11, R27, R40, R41, R369) -/

/-- Features that an instruction needs. -/
def featureOk (s : State) : Instr → Bool
  | .mapbind _ .f4b _ _ _ _ => s.feature 6
  | .cvt4 .. | .unp4 .. => s.feature 6
  | .txbegin _ | .txend _ _ | .txabort _ => s.feature 5
  | .ldx .. | .stx .. => s.feature 9
  | _ => true

/-- Members of its chain that a split has passed (R40, R41). -/
def Split.preds (sp : Split) : Nat := match sp.chain with | some ch => ch.latches.length | none => 0

/-- Frames at or above `.frames` named by BARSET (R216). -/
def barsetFits (w : Wg) : Instr → Bool
  | .barset _ mask _ _ => (List.range 16).all (fun f => !mask.getLsbD f || decide (f < w.code.frames))
  | _ => true

/-- UND raises ILLEGAL wherever it is reached, whatever its guard (R47, R175). -/
def notUnd : Instr → Bool
  | .und _ _ => false
  | _ => true

/-- A frame instruction is legal where it stands (R10, R40, R41, R47, R216). Whether it may read a latch follows from the members before it alone, so a word
with VER = 0 that ends a chain may (DEDUCED, log 74). -/
def frameLegal (s : State) (w : Wg) (sp : Split) (i : Instr) (p : Shape) : Bool :=
  notUnd i &&
  (p.dstNames ++ p.vregs).all (fun r => decide (r < w.code.regs)) &&
  p.slotsRead.all (fun k => decide (k < w.code.slots)) &&
  (p.uses.flatMap Use.latches).all (fun k => decide (k < sp.preds)) &&
  (!p.ctl.chain || decide (sp.preds < 3)) &&
  (!p.ctl.v1 || s.feature 1) && featureOk s i && barsetFits w i

/-- The same of a U instruction. -/
def reckLegal (s : State) (w : Wg) (i : Instr) (p : Shape) : Bool :=
  notUnd i && (!p.ctl.v1 || s.feature 1) && featureOk s i && (match i.mapSlot with | some k => decide (k < w.code.slots) | none => true)

/-! ### Guards -/

/-- The lanes of a split whose guard is true (R30, R84). -/
def guardMask (fr : Frame) (sp : Split) (c : Ctl) : Word32 :=
  maskOf ((lanesOf sp.lanes).filter (fun l => fr.pred l c.gp.toNat ^^ c.gn))
/-- The guard of a U instruction (R30). -/
def guardQ (w : Wg) (c : Ctl) : Bool := w.qpred c.gp.toNat ^^ c.gn

/-! ### The instruction that a party stands at -/

/-- The word of TEXT at an address, as of the grid's stamp (R25). -/
def CodeObj.word (o : CodeObj) (pc : Word64) : BitVec 128 := wordOfBytes (Tab.readBytes o.bytes (pc.toNat - o.text) 16)

def CodeObj.shapeAt (o : CodeObj) (pc : Word64) : Option Shape :=
  match decode (o.word pc) with
  | .ok i => i.shape
  | .error _ => none

/-- Whether a party at an address is about to read an s-register. -/
def CodeObj.readsS (o : CodeObj) (u : Bool) (pc : Word64) (n : Nat) : Bool :=
  match o.shapeAt pc with
  | some p => decide (p.u = u) && p.uses.any (fun x => if u then x.vregs.contains n else x.sregs.contains n)
  | none => false

/-! ### Waits (R199, R218) -/

/-- s-registers that a U instruction reads or writes, and whose pending writes it waits for (R199); CANCEL does not wait for its own source
(R266). -/
def sNeeds (i : Instr) (p : Shape) : List Nat :=
  let srcs := p.uses.flatMap (fun u => match u.src with | .reg n _ _ _ => [n.toNat] | _ => [])
  match i with
  | .cancel .. => []
  | _ => srcs ++ p.dstRegs ++ i.sBeside

/-- The U instruction that the reckoner stands at. -/
def Wg.reckInstr (w : Wg) : Option (Instr × Shape) :=
  if (w.code.word w.rpc).getLsbD 119 then
    match decode (w.code.word w.rpc) with
    | .ok i => i.shape.map (fun p => (i, p))
    | .error _ => none
  else none

/-- The s-registers whose pending writes keep the reckoner at its instruction (R199). -/
def Wg.reckHeld (w : Wg) : List Nat :=
  match w.rst, w.reckInstr with
  | .run, some (i, p) => if guardQ w p.ctl then (sNeeds i p).filter (fun n => w.pend.any (fun q => decide (q.reg = n))) else []
  | _, _ => []

/-- Whether the reckoner waits at a 17th COPY (R254). -/
def Wg.reckFull (w : Wg) : Bool :=
  match w.rst, w.reckInstr with
  | .run, some (.copy .., p) => guardQ w p.ctl && decide (16 ≤ w.copies.length)
  | _, _ => false

/-- The TFETCH that the reckoner of a workgroup stays at. -/
def Wg.tfetchAt (w : Wg) : Option (Ctl × BitVec 7) :=
  match w.rst with
  | .commit _ =>
    match decode (w.code.word w.rpc) with
    | .ok (.tfetch c dst) => some (c, dst)
    | _ => none
  | _ => none

/-- An instruction that arrives at a barrier: whether it is a U form, the barrier, and whether a commit comes first (R211). -/
def arrivalOf : Instr → Option (Bool × BarRef × Bool)
  | .bar _ _ _ rel _ _ _ _ b _ _ | .bara _ _ _ rel _ b _ => some (false, b, rel)
  | .barU _ _ _ rel _ _ b _ _ | .baraU _ _ _ rel _ b _ => some (true, b, rel)
  | _ => none

/-- The barrier at which the reckoner arrives a second time, after the commit of its `.rel`, and whose release it waits for (R210). -/
def Wg.reckAgain (w : Wg) : Option BarRef :=
  match w.reckInstr with
  | some (i, p) =>
    match arrivalOf i with
    | some (true, b, rel) =>
      if guardQ w p.ctl && (w.bar b).arrived.getLsbD 16 && (match w.rst with | .run => !rel | .resumed _ => rel | _ => false) then some b else none
    | _ => none
  | none => none

/-- The barrier at which a frame, gathered and after the commit of its `.rel`, arrives a second time, and whose release it waits for (R210). -/
def Wg.splitAgain (w : Wg) (f : Nat) (fr : Frame) (p : Split) : Option BarRef :=
  match decode (w.code.word p.pc) with
  | .ok i =>
    match arrivalOf i with
    | some (false, b, rel) =>
      if (w.bar b).arrived.getLsbD f && decide (fr.splits.length ≤ 1) && (match p.st with | .run => !rel | .resumed _ => rel | _ => false) then some b
      else none
    | _ => none
  | .error _ => none

/-- A write of sN has landed: the parties that waited for it set this bit in their %wake (R189). -/
def Wg.regWake (w : Wg) (bit : BitVec 7) (n : Nat) : Wg :=
  let r := w.reckHeld.contains n
  let w := w.mapFrames (fun fr =>
    if fr.splits.any (fun p => decide (p.st = .run) && w.code.readsS false p.pc n && (w.sFrame fr.taken p.pc n).isNone) then
      { fr with wake := fr.wake ||| bit }
    else fr)
  if r then { w with rwake := w.rwake ||| bit } else w

/-! ### Waiting for the order of the program -/

/-- Whether a slot-changing instruction before this place, on a slot of a quad, has not taken effect (R226). -/
def Wg.slotBusy (w : Wg) (taken q k : Nat) : Bool :=
  w.slotOps.any (fun o => decide (o.slot = k ∧ o.pos < taken) && (o.todo.getLsbD q || o.filling.getLsbD q))

/-- Whether a U commit, refresh, SNAP or FENCE that the frame has passed is still to take effect (R337, R355). A store waits as a load does, so that it
enters the phase that stands after it in program order (DEDUCED, log 16). Other instructions, barrier arrivals among them, pass it (log 96). -/
def Wg.actsBefore (w : Wg) (taken : Nat) (p : Shape) : Bool :=
  w.acts.any (fun a => decide (a.pos < taken) && (match a.kind with
    | .fence _ _ | .barRel _ | .phase | .txbegin | .txend _ _ => p.memory
    | .launch _ _ _ => false
    | .barAcq | .snap _ _ | .txabort => p.phaseLoad || p.phaseStore))

/-- Whether a request is a store or a class 0xB request that a commit waits for (R334). -/
def Req.beforeCommit (r : Req) : Bool :=
  match r.kind with
  | .store 12 => false
  | .store _ | .service _ _ _ => true
  | _ => false

/-- The numbers of R46 in order of width. -/
def scopeRank : Scope → Nat
  | .frame => 0 | .core => 1 | .cluster => 2 | .die => 3 | .package => 4 | .system => 5

/-- Whether a FENCE of this scope waits for a request (R353, R427). -/
def Req.drains (r : Req) (sc : Scope) : Bool :=
  match r.kind with
  | .load 0 | .load 1 | .load 5 | .atom _ 5 => true
  | .service _ _ _ => decide (1 ≤ scopeRank sc)
  | .load 4 | .store 4 | .atom _ 4 => decide (2 ≤ scopeRank sc)
  | .load 12 | .store 12 | .load 8 | .store 8 => decide (5 ≤ scopeRank sc)
  | _ => decide (1 ≤ scopeRank sc)

def ordCommits : Order → Bool
  | .rel | .ar | .sc => true
  | .acq => false

/-- The outstanding requests of a party of a frame: those that wait for an answer in a lane of it, or in a lane that has left the frame since. -/
def Wg.reqsOf (w : Wg) (f : Nat) (lanes : Word32) : List Req :=
  let gone := match w.frame? f with | some fr => ~~~fr.live | none => 0#32
  w.reqs.filter (fun (r : Req) => decide (r.frame = f ∧ r.wait &&& (lanes ||| gone) ≠ 0))

/-- Whether a commit or refresh of a party at a place must still wait: for a copy before it to fix its stamp (R256), for the U actions before
it (R337), for the log (R410). -/
def State.commitWaits (s : State) (w : Wg) (place : Nat) (commit : Bool) : Bool :=
  w.copies.any (fun (c : Copy) => decide (c.pos < place ∧ c.st = .issued)) ||
  w.acts.any (fun (a : Act) => decide (a.pos < place)) ||
  (commit && !s.mayStamp (s.ctxOfWg w) w none)

/-- Whether a write over the mesh to its own slice, which a frame that `fs` names issued before taking the entry at a place, is still to be performed
(R227, R256, R303). -/
def State.sliceWrites (s : State) (w : Wg) (pos : Nat) (fs : Nat → Bool) : Bool :=
  s.mesh.any (fun (m : MeshReq) => match m.src with
    | .lane g i n _ => w.is g i && m.held && decide (m.grid = g ∧ m.wg = i) && (m.store || m.op.isSome) &&
        w.reqs.any (fun (r : Req) => decide (r.id = n ∧ r.pos ≤ pos) && fs r.frame)
    | .packet _ _ | .peer _ => false)

/-- Mesh loads of the workgroup from its own slice that are still to be performed, whichever core it stood on as they issued: a store waits for them
(R316). -/
def State.meshLoadsHere (s : State) (w : Wg) : Bool :=
  s.mesh.any (fun (r : MeshReq) => decide (r.grid = w.grid ∧ r.wg = w.idx) && r.held && !r.store && r.op.isNone &&
    (match r.src with | .lane g i _ _ => w.is g i | .packet _ _ | .peer _ => false))

/-- Whether a special register's reads are logged inputs (R190, R410). -/
def srLogged (n : Nat) : Bool := decide (n = 0x21 ∨ n = 0x22)

def Split.isResumed (p : Split) : Bool := match p.st with | .resumed _ => true | _ => false

/-- What an instruction waits for by its own rule before it has an effect: a commit for the party's stores and class 0xB requests and for what
the core orders before it (R256, R334, R337), a fence for what it drains (R353, R354), a store of the slice for mesh loads from it (R316), a host
access for those of its lanes before it (R315), and a read that is logged for room in the log (R410). -/
def State.ruleWaits (s : State) (w : Wg) (f taken : Nat) (sp : Split) (act : Word32) : Instr → Bool
  | .fence _ sc o =>
    let mine := w.reqsOf f sp.lanes
    decide (act ≠ 0) && !sp.isResumed && (mine.any (fun r => r.drains sc) ||
      (decide (2 ≤ scopeRank sc) && (s.commitWaits w taken (ordCommits o) || (ordCommits o && mine.any Req.beforeCommit))))
  | .bar _ _ _ rel _ _ _ _ _ _ _ =>
    (rel && decide (sp.st = .run) && ((w.reqsOf f sp.lanes).any Req.beforeCommit || s.commitWaits w taken true)) ||
    (decide (sp.st = .acquire) && s.commitWaits w taken false)
  | .bara _ _ _ rel _ _ _ => rel && decide (sp.st = .run) && ((w.reqsOf f sp.lanes).any Req.beforeCommit || s.commitWaits w taken true)
  | .barw .. => decide (sp.st = .acquire) && s.commitWaits w taken false
  | .stl .. | .atoml .. => s.meshLoadsHere w
  | .srd _ _ n => decide (act ≠ 0) && srLogged n.toNat && !s.logRoom (s.ctxOfWg w)
  | .ldh .. => w.reqs.any (fun r => decide (r.frame = f ∧ r.wait &&& act ≠ 0 ∧ r.kind = .store 12))
  | .sth .. => w.reqs.any (fun r => decide (r.frame = f ∧ r.wait &&& act ≠ 0 ∧ r.kind = .load 12))
  | _ => false

/-- What holds a frame instruction back: results in flight (R109, R199), slot changes (R226), the room for requests (R388), U actions and
snapshots (R334, R337), and its own rule. A merge holds nothing back: class 0xB requests and accesses over the mesh that are on their way pass it (R81, R282, R314;
DESIGN CHOICE, log 91). -/
def State.held? (s : State) (core : Nat) (w : Wg) (f : Nat) (fr : Frame) (sp : Split) (act lanes : Word32) (i : Instr) (p : Shape) : Bool :=
  let pd := match p.pd with | some n => [n.toNat] | none => []
  w.busy f lanes (p.dstRegs ++ p.vregs) (pd ++ i.predsUsed) i.residUsed i.readsFlags ||
  p.uses.any (fun u => u.sregs.any (fun n => (w.sFrame fr.taken sp.pc n).isNone)) ||
  p.slotsRead.any (fun k => w.slotBusy fr.taken (f % 4) k) ||
  (p.memory && decide (16 ≤ (w.reqs.filter (fun (r : Req) => decide (r.frame = f))).length)) ||
  w.actsBefore fr.taken p ||
  (p.devLoad && decide (s.frontier (dieOf core) < w.phase.s)) ||
  s.ruleWaits w f fr.taken sp act i

/-- Whether the instruction gathers for a FULL-policy source. -/
def fullMapped (w : Wg) (f : Nat) (p : Shape) : Bool :=
  p.slotsRead.any (fun k => (Tab.get Slot.start w.slots (8 * (f % 4) + k)).full)

/-- Whether what a split stalled at still holds it: a pending checkpoint its CSAVE or CREST (R408), pool relief a store (R348). -/
def State.stillStalled (s : State) (w : Wg) (sp : Split) : Bool :=
  match decode (w.code.word sp.pc) with
  | .ok (.csave ..) | .ok (.crest ..) => s.ctxs.any (fun p => s.ckptPending p.1)
  | _ => s.relief.isSome

/-- Whether an instruction gathers its frame: REJOIN, the barrier instructions, FULL-policy sources (R81, R209, R237). -/
def gathersAt (w : Wg) (f : Nat) (i : Instr) (p : Shape) : Bool :=
  (match i with | .rejoin _ | .bar .. | .bara .. | .barw .. => true | _ => false) || fullMapped w f p

/-- Whether a checkpoint that CKPT has asked for is to be taken at this issue boundary (R408, R409). -/
def State.ckptDue (s : State) (c : Nat) : Bool :=
  match s.ctx? c with
  | some x => x.asked && decide (x.interval ≠ 0) && x.replay.isNone
  | none => false

/-- Whether a split waits for a page walk that has not ended (R321). -/
def State.walkWaits (s : State) (core : Nat) (w : Wg) (f : Nat) (sp : Split) : Bool :=
  s.walks.any (fun k => !k.failed && k.asks.any (fun a => decide (a = ⟨core, w.grid, w.idx, f, sp.pc.toNat⟩)))

/-- Whether a split is ready (R86): its next instruction's operands and resources are available, and it waits on nothing: no page walk (R321), no
pool relief (R348) and no checkpoint (R408, R409) either. At a word with U = 1 that is the entry (R197). -/
def State.splitReady (s : State) (core : Nat) (w : Wg) (f : Nat) (fr : Frame) (sp : Split) : Bool :=
  !sp.dbg && !fr.isParked sp.id && (match sp.st with | .run | .resumed _ | .acquire => true | _ => false) &&
  !(sp.stalled && s.stillStalled w sp) && !s.walkWaits core w f sp && !s.ckptDue (s.ctxOfWg w) &&
  (if (w.code.word sp.pc).getLsbD 119 then !(w.untaken fr.taken).isEmpty || decide (w.rst = .stopped) || decide (1 < fr.splits.length)
   else match decode (w.code.word sp.pc) with
     | .error _ => true
     | .ok i => match i.shape with
       | none => true
       | some p =>
         let act := guardMask fr sp p.ctl
         !frameLegal s w sp i p ||
         (!w.busy f sp.lanes [] [p.ctl.gp.toNat] [] false && (w.splitAgain f fr sp).isNone &&
          !s.held? core w f fr sp act (if fullMapped w f p then fr.live else act) i p))

/-- Whether another frame of the quad has a ready split, of the same %prio where `samePrio` says so (R28, R29). A frame that is deferred itself counts too:
of two deferred frames each gives way to the other until one of their deferrals is over (DESIGN CHOICE, log 78). -/
def State.rivals (s : State) (core : Nat) (w : Wg) (f : Nat) (samePrio : Bool) : Bool :=
  (List.range w.frames.length).any (fun g => decide (g ≠ f ∧ g % 4 = f % 4) &&
    (match w.frames[g]?, w.frames[f]? with
     | some fr, some me => (!samePrio || decide (fr.prio = me.prio)) && fr.splits.any (s.splitReady core w g fr)
     | _, _ => false))

/-- The issue deferrals and the yield of a frame (R28, R29): whether the frame gives way on this clock, and what then remains. The yield is used up by a
selection that the frame's split was ready for. -/
def Frame.givesWay (fr : Frame) (now : Nat) (ready rival rivalPrio : Bool) : Option Frame :=
  let on := fr.defer.filter (fun d => decide (now < d.clocks))
  if !on.isEmpty && rival then
    some { fr with defer := on.filterMap (fun d => if d.contested ≤ 1 then none else some { d with contested := d.contested - 1 }) }
  else if fr.yielded && ready && rivalPrio then some { fr with yielded := false }
  else none

/-- Breakpoint entries enabled at an address (R400). -/
def Wg.breakAt (w : Wg) (pc : Word64) : Option Word64 :=
  (w.brk.find? (fun p => p.2.getLsbD 0 && decide (p.2.toNat / 16 = pc.toNat / 16))).map (·.2)

/-- Whether a replay of the workgroup's context has come to the point where the debugger takes over (R411). -/
def State.replayStop (s : State) (w : Wg) : Bool :=
  match ((s.ctx? (s.ctxOfWg w)).bind (·.replay)).bind (·.stop) with
  | some (core, n) => s.wgs.any (fun (p : Wg) =>
      decide (p.home = core ∧ s.ctxOfWg p = s.ctxOfWg w ∧ n ≤ p.retired))
  | none => false

/-- The context stops there, and the debugger holds it. -/
def State.replayHold (s : State) (c : Nat) : State :=
  match ((s.ctx? c).bind (·.replay)).bind (·.stop) with
  | some (core, n) =>
    ((s.holdCtx c).updCtx c (fun x => { x with replay := match x.replay with
      | some r => if r.left.isEmpty then none else some { r with stop := none }
      | none => none })).report c (.reached core n)
  | none => s

/-! ### Waits as R218 counts them -/

/-- Whether a breakpoint is to stop the party that stands at an address (R400). -/
def State.breaksAt (s : State) (w : Wg) (pc : Word64) : Bool := s.attached w && (w.breakAt pc).isSome

/-- The instruction of a split that gets as far as the waits of the scoreboard: it is legal, its guard is known, and neither PRIV nor a breakpoint turns it away
(R47, R60, R400). -/
def State.splitTries (s : State) (w : Wg) (f : Nat) (fr : Frame) (sp : Split) : Option (Instr × Shape) :=
  match decode (w.code.word sp.pc) with
  | .error _ => none
  | .ok i =>
    i.shape.filter (fun p => frameLegal s w sp i p && !w.busy f sp.lanes [] [p.ctl.gp.toNat] [] false &&
      !(i.privileged && decide (guardMask fr sp p.ctl ≠ 0) && !(match s.grid? w.grid with | some g => g.system | none => false)) &&
      !(s.breaksAt w sp.pc && !sp.skipB.contains sp.pc.toNat && decide (guardMask fr sp p.ctl ≠ 0 ∧ sp.st = .run)))
    |>.map (fun p => (i, p))

/-- Whether results in flight hold an instruction back (R109). -/
def Wg.scoreboard (w : Wg) (f : Nat) (fr : Frame) (sp : Split) (i : Instr) (p : Shape) : Bool :=
  w.busy f (if fullMapped w f p then fr.live else guardMask fr sp p.ctl) (p.dstRegs ++ p.vregs)
    ((match p.pd with | some n => [n.toNat] | none => []) ++ i.predsUsed) i.residUsed i.readsFlags

/-- Whether a split stands at a frame instruction whose guard or operands results in flight hold back. -/
def Wg.awaitsResults (w : Wg) (f : Nat) (fr : Frame) (sp : Split) : Bool :=
  match decode (w.code.word sp.pc) with
  | .error _ => false
  | .ok i => match i.shape with
    | some p => !p.u && (w.busy f sp.lanes [] [p.ctl.gp.toNat] [] false || w.scoreboard f fr sp i p)
    | none => false

/-- Whether a split is in one of the waits of R218: a barrier (R210 too) or a gathering, SLEEP, a blocked bead operation, CSAVE or CREST (R394), a
decision-queue entry, or a pending s-register; one that is to fault (a failed gathering too, R81), to stop at a breakpoint, or to wait for the data of a load is in none. What the
debugger holds waits for none of them but the end of a SLEEP. -/
def State.splitBlocks (s : State) (w : Wg) (f : Nat) (fr : Frame) (p : Split) : Bool :=
  match p.st with
  | .sleep _ => true
  | .run | .resumed _ =>
    !p.dbg && (if (w.code.word p.pc).getLsbD 119 then (w.untaken fr.taken).isEmpty && decide (w.rst ≠ .stopped ∧ fr.splits.length = 1)
      else match s.splitTries w f fr p with
        | none => false
        | some (i, q) => !w.scoreboard f fr p i q &&
          ((q.uses.flatMap Use.sregs).any (fun n => (w.sFrame fr.taken p.pc n).isNone) ||
           ((w.splitAgain f fr p).isSome && !s.held? w.core w f fr p (guardMask fr p q.ctl) (guardMask fr p q.ctl) i q)))
  | .commit _ | .acquire => false
  | .blocked _ => !p.dbg && (match decode (w.code.word p.pc) with | .ok (.tlbinv ..) => false | _ => true)
  | .gather _ => !p.dbg && !fr.gatherBad
  | .barrier _ _ => !p.dbg

/-- Whether a split keeps its core from issuing no more than a waiting one does (R218): it is in a wait, or parked behind one that is (R80). -/
def State.splitWaits (s : State) (w : Wg) (f : Nat) (fr : Frame) (p : Split) : Bool := (!p.dbg && fr.isParked p.id) || s.splitBlocks w f fr p

/-- Whether the reckoner's instruction gets as far as its waits: it is legal, an entry is free, and no breakpoint stops it (R47, R196, R400). -/
def State.reckTries (s : State) (w : Wg) : Bool :=
  match w.reckInstr with
  | some (i, p) => reckLegal s w i p && decide (w.freeEntries.dq.length < 64) && !(s.breaksAt w w.rpc && !w.rskip && decide (w.rst = .run))
  | none => false

/-- Whether the reckoner waits as R218 counts it: a barrier (R210 too), SLEEP, a pending s-register (R254, R299), or its quiet stop. -/
def State.reckWaits (s : State) (w : Wg) : Bool :=
  match w.rst with
  | .run => !w.rdbg && s.reckTries w && (!w.reckHeld.isEmpty || w.reckFull || w.reckAgain.isSome)
  | .resumed _ => !w.rdbg && s.reckTries w && w.reckAgain.isSome
  | .commit _ => w.tfetchAt.isSome
  | .stopped | .barrier _ _ | .sleep _ => true

/-! ### Issue -/

/-- A split stands at a gathering instruction in a frame that is divided: it waits there, or the gathering fails at once (R81, R209,
R237). -/
def State.arriveGather (s : State) (core f : Nat) (w : Wg) (fr : Frame) (sp : Split) : Issue FCtx :=
  let fr' := (fr.mapSplits (fun p => if p.id = sp.id then { p with st := .gather s.tick } else p)).settle
  if fr'.gatherBad then .fault .regang
  else .wait (s.setCore core (w.setFrame f fr'))

/-- A gathering may have failed without an arrival: lanes have left (R81, R83), or the debugger has let a split go (R92). Of the splits that stand
gathering the one with the lowest lane faults (DESIGN CHOICE, log 75). -/
def State.gatherFails (s : State) (core f : Nat) : State :=
  match s.onCore core with
  | some w =>
    match w.frame? f with
    | some fr => if w.goes && fr.gatherBad then (match fr.lowestSplit with | some p => s.raise core f p.id p.pc .regang 0 | none => s) else s
    | none => s
  | none => s

/-- A split that attempts an instruction: what holds it back, in this order: the debugger and other stops, ILLEGAL, its guard in flight, PRIV, the waits of
the scoreboard and of program order, the gathering; else its context (R47, R60, R86). A split at a FULL-policy source begins to gather when no result in
flight in any lane of its frame holds it back (DESIGN CHOICE, log 79). -/
def State.issueF (s : State) (i : Instr) : Issue FCtx :=
  match s.cur, i.shape with
  | some (.frame core f id), some p =>
    match s.onCore core with
    | none => .wait s
    | some w =>
    match w.frame? f with
    | none => .wait s
    | some fr =>
    match fr.split? id with
    | none => .wait s
    | some sp =>
    if !w.goes || sp.dbg || fr.isParked id then .wait s
    else
    match sp.st with
    | .gather _ => .wait (s.gatherFails core f)
    | .barrier _ _ | .sleep _ | .commit _ | .blocked _ => .wait s
    | _ =>
    match w.storage with
    | some r => .wait (s.finalFault w r)
    | none =>
    match fr.givesWay s.tick (s.splitReady core w f fr sp) (s.rivals core w f false) (s.rivals core w f true) with
    | some fr => .wait (s.setCore core (w.setFrame f fr))
    | none =>
    let fr := fr.switchTo id
    let act := guardMask fr sp p.ctl
    if s.ckptDue (s.ctxOfWg w) then .wait s
    else if s.replayStop w then .wait (s.replayHold (s.ctxOfWg w))
    else if s.stillExpects (s.ctxOfWg w) w.missed then .wait (s.inputMissed (s.ctxOfWg w) w.home w.missed)
    else if !frameLegal s w sp i p then .fault .illegal
    else if w.busy f sp.lanes [] [p.ctl.gp.toNat] [] false then .wait s
    else if i.privileged && decide (act ≠ 0) && !(match s.grid? w.grid with | some g => g.system | none => false) then .fault .priv
    else if (match w.breakAt sp.pc with
        | some _ => s.attached w && !sp.skipB.contains sp.pc.toNat && decide (act ≠ 0 ∧ sp.st = SplitSt.run) | none => false) then
      .wait (s.debugStop core f { sp with skipB := sp.pc.toNat :: sp.skipB } Code.brk.num 0xFFFF
        (match w.breakAt sp.pc with | some e => e.getLsbD 1 | none => false))
    else if s.held? core w f fr sp act (if fullMapped w f p then fr.live else act) i p then .wait s
    else if gathersAt w f i p && decide (1 < fr.splits.length) then
      if fullMapped w f p && decide (0 < sp.preds) then .fault .regang
      else s.arriveGather core f w fr sp
    else .go ⟨s, core, w, f, fr, sp, act, p.ctl⟩
  | _, _ => .nobody

/-- The reckoner attempts a U instruction (R194 to R199). One that goes on after its commit has waited already. -/
def State.issueR (s : State) (i : Instr) : Issue RCtx :=
  match s.cur, i.shape with
  | some (.reck core), some p =>
    match s.onCore core with
    | none => .wait s
    | some w =>
    if !w.goes || w.rdbg then .wait s
    else
    match w.rst with
    | .stopped | .barrier _ _ | .sleep _ | .commit _ => .wait s
    | _ =>
    match w.storage with
    | some r => .wait (s.finalFault w r)
    | none =>
    if w.allDead then .wait (s.setCore core { w with rst := .stopped })
    else if s.ckptDue (s.ctxOfWg w) then .wait s
    else if s.replayStop w then .wait (s.replayHold (s.ctxOfWg w))
    else if s.stillExpects (s.ctxOfWg w) w.missed then .wait (s.inputMissed (s.ctxOfWg w) w.home w.missed)
    else if (match w.breakAt w.rpc with | some _ => s.attached w && !w.rskip && decide (w.rst = ReckSt.run) | none => false) then
      .wait ((s.setCore core { w with rdbg := true, rskip := true }).report (s.ctxOfWg w) (.stop core reckParty 0 Code.brk.num 0xFFFF))
    else if !reckLegal s w i p then .fault .illegal
    else if decide (64 ≤ w.freeEntries.dq.length) then .wait s
    else
    let on := guardQ w p.ctl
    if on && decide (w.rst = ReckSt.run) && w.pend.any (fun q => (sNeeds i p).contains q.reg) then .wait s
    else .go ⟨s, core, w, on, p.ctl⟩
  | _, _ => .nobody

/-! ### Results and retirement of a frame instruction -/

/-- One destination register: its bits by lane, its tag by rod, side bytes where the instruction writes them, and the tag that a latch of it has in
every rod (R41). -/
structure DReg where
  vals : List (Nat × Word32)
  tags : List (Nat × Tag)
  side : List (Nat × Byte)
  ltag : Nat → Tag

/-- The results of an instruction that writes no memory: destination registers in order, the predicate PD, residues, flags. -/
structure Out where
  regs : List DReg
  preds : List (Nat × Bool)
  resid : List (Nat × Word32)
  flags : List (Nat × BitVec 5)

def Out.none : Out := ⟨[], [], [], []⟩

/-- A destination register of the active lanes with one tag (R76). -/
def FCtx.dreg (x : FCtx) (tag : Tag) (v : Nat → Word32) : DReg :=
  ⟨(lanesOf x.act).map (fun l => (l, v l)), (rodsOf x.act).map (fun k => (k, tag)), [], fun _ => tag⟩

/-- The writes of results to registers from `dst` up and to PD. -/
def Out.writes (o : Out) (dst pd : Nat) (wbs : Bool) : Writes :=
  let rs := if wbs then [] else o.regs.zipIdx dst
  { v := rs.flatMap (fun r => r.1.vals.map (fun p => (vKey p.1 r.2, p.2))),
    tags := rs.flatMap (fun r => r.1.tags.map (fun p => (tKey p.1 r.2, p.2))),
    side := rs.flatMap (fun r => r.1.side.map (fun p => (vKey p.1 r.2, p.2))),
    preds := if pd = 7 then [] else o.preds.map (fun p => (pKey p.1 pd, p.2)),
    resid := o.resid, flags := o.flags }

/-- The latch that a result leaves (R41): zero bits in lanes whose guard was false, and the result's tag in every rod. -/
def Out.latch (o : Out) : Latch :=
  match o.regs with
  | r :: _ => ⟨Tab.setAll 0#32 [] r.vals, Tab.setAll Tag.int [] ((List.range 8).map (fun k => (k, r.ltag k)))⟩
  | [] => ⟨[], []⟩

/-- The chain of a split after its instruction (R40). -/
def nextChain (sp : Split) (c : Ctl) (l : Latch) : Option Chain :=
  if c.chain then
    match sp.chain with
    | some ch => some { ch with latches := l :: ch.latches }
    | none => some ⟨sp.pc, [l]⟩
  else none

/-- A split whose instruction has retired: its chain (R40), the end of the debugger's step at the end of a chain (R93), and, within a chain, what has
stopped it already, until it leaves the chain (R42, R400, R401; DEDUCED, log 66). -/
def Split.retired (sp : Split) (c : Ctl) (l : Latch) (live : Word32) : Split :=
  { sp with lanes := sp.lanes &&& live, st := .run, chain := nextChain sp c l,
            skipB := if c.chain then sp.skipB else [], skipW := if c.chain then sp.skipW else [],
            walked := false, stalled := false, xl := 0, dbg := sp.step && !c.chain, step := sp.step && c.chain, ends := if sp.step && !c.chain then sp.ends else none }

/-- The frame after an instruction of its split has retired, with its next PCs: STALL and YIELD (R28, R29), and the debugger's hold (R92, R93). -/
def Frame.after (fr : Frame) (sp : Split) (c : Ctl) (l : Latch) (now : Nat) (npc : Nat → Word64) : Frame :=
  let g := fr.advance (sp.retired c l fr.live) npc
  { g with
      defer := fr.defer.filter (fun d => decide (now < d.clocks)) ++ (if c.stall = 0 then [] else [⟨c.stall.toNat, now + 20⟩]),
      yielded := c.yld,
      heldAt := if g.splits.any (·.dbg) then some (fr.heldAt.getD now) else fr.heldAt }

/-- %retired counts each split's issue once, a chain at its last member (R190). -/
def Wg.count (w : Wg) (c : Ctl) : Wg := if c.chain then w else { w with retired := w.retired + 1, total := w.total + 1 }

/-- Retires the instruction of a context: the frame with its effects, the workgroup and the state as the effects left them. -/
def FCtx.retire (x : FCtx) (s : State) (w : Wg) (fr : Frame) (l : Latch) (npc : Nat → Word64) : State :=
  s.setCore x.core ((w.setFrame x.f (fr.after x.sp x.c l s.tick npc)).count x.c)

/-- A step of the debugger over this instruction ends when this pass or request is complete (R93). -/
def FCtx.endsWith (x : FCtx) (id : Nat) : FCtx := { x with sp := { x.sp with ends := some id } }

/-- The address after an instruction. -/
def FCtx.fall (x : FCtx) : Nat → Word64 := fun _ => x.sp.pc + 16#64

/-- Ends an instruction that computes results: they are written, or, where the instruction reads mapped sources, they land when its
passes complete (R246); a chain member's latch is there at once. -/
def FCtx.finish (x : FCtx) (i : Instr) (o : Out) : State :=
  match i.shape with
  | none => x.s
  | some p =>
    let pd := p.pdNum
    let ws := o.writes p.dstNum pd x.c.wbs
    if p.anyMapped && !x.c.chain && decide (x.act ≠ 0) then
      let (id, s) := x.s.newId
      let pass : Pass := ⟨id, x.f, x.act, p.slotsRead, p.dstRegs, if pd = 7 then none else some pd, ws⟩
      (x.endsWith id).retire s { x.w with passes := x.w.passes ++ [pass] } x.fr o.latch x.fall
    else x.retire x.s x.w (x.fr.write ws) o.latch x.fall

/-- The party that issues faults at its instruction. -/
def State.faultHere (s : State) (c : Code) (info : Nat) : State :=
  match s.cur with
  | some (.frame core f id) =>
    match (s.onCore core).bind (fun w => (w.frame? f).bind (fun fr => fr.split? id)) with
    | some sp => s.raise core f id sp.pc c info
    | none => s
  | some (.reck core) =>
    match s.onCore core with
    | some w => s.raise core reckParty 0 w.rpc c info
    | none => s
  | none => s

/-- What an attempt of a frame instruction comes to, where `k` is its meaning: a fault or the next state (R47, R89). -/
def State.runF (s : State) (i : Instr) (k : FCtx → Except Code State) : Out3 :=
  match s.issueF i with
  | .nobody => .fault .noParty
  | .wait s => .next s
  | .fault c => .next (s.faultHere c 0)
  | .go x =>
    match k x with
    | .ok s' => .next s'
    | .error c => .next (s.faultHere c 0)

/-! ### Retirement of a U instruction -/

/-- The reckoner steps over a word with U = 0 (R48), and marks the s-register of a BAR or BARW pending (R200), whose last write is then no copy's
(R265). -/
def Wg.skipWord (w : Wg) (x : BitVec 128) : Wg :=
  let op := (x.extractLsb' 104 11).toNat
  let imm : Word32 := x.extractLsb' 0 32
  if op = 0 ∨ 15 * 128 ≤ op then { w with rst := .stopped }
  else
    let w := { w with rpc := w.rpc + 16#64 }
    if (op = 0x680 ∨ op = 0x682) ∧ imm.getLsbD 31 then
      match unImmBar imm with
      | some (b, _, n) => { w with pend := w.pend ++ [⟨n.toNat, w.place, .bar b (w.rpc - 16#64)⟩], lastCopy := Assoc.drop w.lastCopy n.toNat }
      | none => w
    else w

/-- The reckoner steps over frame-form words at no issue cost (R194), up to the next word with U = 1. -/
def Wg.skipRun (w : Wg) : Nat → Wg
  | 0 => w
  | fuel + 1 =>
    let x := w.code.word w.rpc
    if x.getLsbD 119 || decide (w.rst = .stopped) then w else (w.skipWord x).skipRun fuel

/-- The words of TEXT. -/
def CodeObj.words (o : CodeObj) : Nat := o.size / 16

/-- What a U instruction leaves: the effect that its entry has in the frames, the s-registers and predicates it writes, and the
s-registers whose write lands later (R196, R199); `copies` names the s-registers whose last write is that of a copy (R265). -/
structure UOut where
  kind : EntryKind
  regs : List (Nat × Word64)
  late : List (Nat × PendBy)
  preds : List (Nat × Bool)
  copies : List (Nat × Nat)

def UOut.nop : UOut := ⟨.nop, [], [], [], []⟩

/-- The destination s-register, unless WBS says that it is not written (R32). -/
def RCtx.to (x : RCtx) (dst : BitVec 7) (v : Word64) : UOut := ⟨.nop, if x.c.wbs then [] else [(dst.toNat, v)], [], [], []⟩

def UOut.marks (o : UOut) : BitVec 8 := BitVec.ofNat 8 ((o.preds.map (fun (p : Nat × Bool) => 2 ^ p.1)).foldl (· ||| ·) 0)

/-- The entry that a U instruction places (R196). -/
def Wg.entry (w : Wg) (o : UOut) : Entry :=
  ⟨w.rpc, o.kind, (o.regs.map (fun (p : Nat × Word64) => p.1) ++ o.late.map (fun (p : Nat × PendBy) => p.1)).map (fun n => (n, w.sreg n)),
   BitVec.ofNat 8 (((List.range 8).filter (fun p => w.qpred p)).foldl (fun m p => m + 2 ^ p) 0), o.marks⟩

/-- The workgroup after a U instruction: its entry stands at the tail of the queue, its registers are written or pending, and the
reckoner goes on at `npc`. -/
def Wg.doneU (w : Wg) (o : UOut) (npc : Word64) : Wg :=
  let pos := w.place
  let e := w.entry o
  let w := o.regs.foldl (fun w p => w.setS p.1 p.2) w
  let w := o.preds.foldl (fun w p => w.setQ p.1 p.2) w
  let w := { w with pend := w.pend ++ o.late.map (fun (p : Nat × PendBy) => Pend.mk p.1 pos p.2),
                    lastCopy := o.copies.foldl (fun t (p : Nat × Nat) => Assoc.put t p.1 p.2)
                      ((o.regs.map (fun (p : Nat × Word64) => p.1) ++ o.late.map (fun (p : Nat × PendBy) => p.1)).foldl (fun t n => Assoc.drop t n) w.lastCopy) }
  { w with dq := w.dq ++ [e], rpc := npc, rst := .run, rskip := false, rdbg := w.rstep, rstep := false }

/-- Ends a U instruction in the workgroup and state that its effect left. -/
def RCtx.done (x : RCtx) (s : State) (w : Wg) (o : UOut) (npc : Word64) : State :=
  s.setCore x.core (((w.doneU o npc).freeEntries).skipRun w.code.words)

/-- A U instruction that goes on later places its entry now, and the reckoner stands at it with this wait (R196, R337). -/
def RCtx.hold (x : RCtx) (s : State) (w : Wg) (o : UOut) (st : ReckSt) : State :=
  s.setCore x.core { (w.doneU o w.rpc).freeEntries with rst := st, rdbg := w.rdbg, rstep := w.rstep }

/-- It ends: its entry stands already. -/
def RCtx.release (x : RCtx) (s : State) (w : Wg) : State :=
  s.setCore x.core ({ w with rpc := w.rpc + 16#64, rst := .run, rskip := false, rdbg := w.rstep, rstep := false }.skipRun w.code.words)

/-- It stands behind its word and waits for a barrier; a step over it goes on (R93). -/
def RCtx.park (x : RCtx) (s : State) (w : Wg) (o : Option UOut) (st : ReckSt) : State :=
  let v := match o with
    | some o => ((w.doneU o (w.rpc + 16#64)).freeEntries).skipRun w.code.words
    | none => { w with rpc := w.rpc + 16#64, rst := .run, rskip := false }.skipRun w.code.words
  s.setCore x.core { v with rst := st, rdbg := w.rdbg, rstep := w.rstep }

/-- A step over this U instruction ends when what it leaves under this number is over (R93). -/
def Wg.endsStep (w : Wg) (id : Nat) : Wg := if w.rstep then { w with rends := some id } else w

/-- A waiting reckoner goes on, and the debugger's step that was its wait ends. -/
def Wg.reckOn (w : Wg) : Wg := { w with rst := .run, rdbg := w.rdbg || w.rstep, rstep := false }

/-- Ends a U instruction that falls through. -/
def RCtx.fall (x : RCtx) (s : State) (w : Wg) (o : UOut) : State := x.done s w o (x.w.rpc + 16#64)

/-- What an attempt of a U instruction comes to: a fault, the entry of a guarded-off instruction, or its meaning `k` (R30, R89, R196). -/
def State.runR (s : State) (i : Instr) (off : EntryKind) (k : RCtx → Except Code State) : Out3 :=
  match s.issueR i with
  | .nobody => .fault .noParty
  | .wait s => .next s
  | .fault c => .next (s.faultHere c 0)
  | .go x =>
    if x.on then
      match k x with
      | .ok s' => .next s'
      | .error c => .next (s.faultHere c 0)
    else .next (x.fall x.s x.w { UOut.nop with kind := off })

/-! ### Changes of a party after its instruction has retired -/

/-- What a split waits for from now on. -/
def State.setSplitSt (s : State) (core f id : Nat) (st : SplitSt) : State :=
  match s.onCore core with
  | none => s
  | some w =>
    match w.frame? f with
    | none => s
    | some fr => s.setCore core (w.setFrame f (fr.mapSplits (fun p => if p.id = id then { p with st := st } else p)))

/-- What the reckoner waits for from now on. -/
def State.setReck (s : State) (core : Nat) (st : ReckSt) : State :=
  match s.onCore core with
  | none => s
  | some w => s.setCore core { w with rst := st }

/-- The value of a source in the lowest-numbered active lane, 0 where no lane is active. -/
def lowestOf (act : Word32) (v : Nat → Word32) : Word32 :=
  match lowestLane act with
  | some l => v l
  | none => 0#32

end Sys2Proof.Machine
end

