-- ==== Sys2Proof/Machine/Operands.lean ====
section
/-!
DEFINITION. Every operand form: registers, latches, immediates and broadcast s-registers (R34 to R38), pairs (R74, R117), sources mapped
through a slot (R224, R225, R234, R235, R243, R244), FP32 and packed sources (R141, R152), and the offsets and addresses of memory
instructions (R202, R276, R308 to R310, R313).
-/
namespace Sys2Proof.Machine

open Sys2Proof

/-! ### Raw bits -/

/-- sN as the frame sees it; `issueF` has waited for it (R198, R199). -/
def FCtx.sval (x : FCtx) (n : Nat) : Word64 := (x.w.sFrame x.fr.taken x.sp.pc n).getD 0#64

/-- The latch a source names: the K-th predecessor in the chain (R41). -/
def FCtx.latchOf (x : FCtx) (k : Nat) : Latch :=
  match x.sp.chain with
  | some ch => ch.latches.getD k ⟨[], []⟩
  | none => ⟨[], []⟩

/-- The 32 bits of a source in a lane; `j` counts the registers of a group. -/
def FCtx.raw (x : FCtx) (src : Src) (j l : Nat) : Word32 :=
  match src with
  | .reg n _ _ _ => x.fr.vreg l (n.toNat + j)
  | .latch k _ _ => Tab.get 0#32 (x.latchOf k.toNat).val l
  | .imm v => v
  | .sreg n _ _ => (x.sval n.toNat).setWidth 32

/-- The 64 bits of a source: an aligned pair, a whole s-register, or IMM extended (R37, R74, R117). -/
def FCtx.raw64 (x : FCtx) (uns : Bool) (src : Src) (l : Nat) : Word64 :=
  match src with
  | .sreg n _ _ => x.sval n.toNat
  | .imm v => aluExt uns v
  | _ => (x.raw src 1 l ++ x.raw src 0 l : BitVec 64)

/-- The tag of a source in a rod: the register's, the latch's, INT for an immediate or a broadcast. -/
def FCtx.tagOf (x : FCtx) (src : Src) (j k : Nat) : Tag :=
  match src with
  | .reg n _ _ _ => x.fr.tagOf k (n.toNat + j)
  | .latch n _ _ => Tab.get Tag.int (x.latchOf n.toNat).tag k
  | _ => .int

/-- The side byte that goes with a source: a register's; 0x00 for an immediate or a broadcast (R120, R183), and for a latch, which holds none
(DEDUCED, log 60). -/
def FCtx.sideOf (x : FCtx) (src : Src) (j l : Nat) : Byte :=
  match src with
  | .reg n _ _ _ => x.fr.sideOf l (n.toNat + j)
  | _ => 0#8

/-- A source of a U instruction: the s-register, or IMM extended (R37). -/
def RCtx.val (x : RCtx) (uns : Bool) (src : Src) : Word64 :=
  match src with
  | .reg n _ _ _ => x.w.sreg n.toNat
  | .imm v => aluExt uns v
  | _ => 0#64

/-- The 32-bit source of a U instruction. -/
def RCtx.val32 (x : RCtx) (src : Src) : Word32 := (x.val true src).setWidth 32

/-! ### Results by lane -/

/-- What an absent source reads as. -/
def noSrc : Src := .imm 0#32

/-- The predicate result of the active lanes. -/
def FCtx.predOut (x : FCtx) (p : Nat → Bool) : List (Nat × Bool) := (lanesOf x.act).map (fun l => (l, p l))

/-- The predicate result of a U instruction; PD = 7 discards it (R33). -/
def uPred (pd : BitVec 3) (b : Bool) : List (Nat × Bool) := if pd = 7 then [] else [(pd.toNat, b)]

/-- The flags of the active lanes. -/
def FCtx.flagOut (x : FCtx) (f : Nat → Flags) : List (Nat × Flags) := (lanesOf x.act).map (fun l => (l, f l))

/-! ### Map slots (R224, R225, R234, R235) -/

def slotKey (q k : Nat) : Nat := 8 * q + k
def Wg.slot (w : Wg) (q k : Nat) : Slot := Tab.get Slot.start w.slots (slotKey q k)
def Slot.byteAt (sl : Slot) (n : Nat) : Nat := (Tab.get 0#8 sl.bytes n).toNat

/-- Bytes of a slot of a format (R223). -/
def slotBytes : SlotFmt → Nat
  | .bf16 | .f16 => 2048
  | .e4m3 | .e5m2 => 1024
  | .f4b => 640

/-- The block of an element, in row-block-major order (R224). -/
def slotBlk (i j : Nat) : Nat := 4 * (i / 8) + j / 8
/-- POS(i, j): the place of an element of an image with elements of `sz` bytes (R224, R259). -/
def slotPos (sz i j : Nat) : Nat := 64 * sz * slotBlk i j + 8 * sz * (i % 8) + sz * (j % 8)

/-- Element (i, j) as it is coded: bits, and the nibble for F4B (R224). -/
def Slot.code (sl : Slot) (i j : Nat) : Nat :=
  match sl.fmt with
  | .bf16 | .f16 => sl.byteAt (slotPos 2 i j) + 256 * sl.byteAt (slotPos 2 i j + 1)
  | .e4m3 | .e5m2 => sl.byteAt (slotPos 1 i j)
  | .f4b => bitsOf (sl.byteAt (32 * slotBlk i j + 4 * (i % 8) + j % 8 / 2)) (4 * (j % 2)) 4
/-- The block scale of a row's column block (R224). -/
def Slot.scale (sl : Slot) (i j : Nat) : Nat := sl.byteAt (512 + 4 * i + j / 8)

/-- M[i][j] as a value (R224, R242, R243). -/
def Slot.elem (sl : Slot) (i j : Nat) : FV :=
  match sl.fmt with
  | .bf16 => Fmt.bf16.read (sl.code i j)
  | .f16 => Fmt.fp16.read (sl.code i j)
  | .e4m3 => Fmt.e4m3.read (sl.code i j)
  | .e5m2 => Fmt.e5m2.read (sl.code i j)
  | .f4b => (FV.mul (Fmt.e2m1.read (sl.code i j)) (readE3M5 (sl.scale i j))).1

/-- Whether a slot format admits a source tag (R225). -/
def slotAdmits : SlotFmt → Tag → Bool
  | .bf16, .bf16x2 | .bf16, .f32 | .f16, .f16x2 | .f16, .f32 => true
  | .e4m3, .e4m3x4 | .e4m3, .e5m2x4 | .e5m2, .e4m3x4 | .e5m2, .e5m2x4 => true
  | .f4b, .f4b => true
  | _, _ => false

/-- Plane `p` of a lane's register as a map input, and whether its element raises invalid (R99, R234, R243). -/
def mapInput (tag : Tag) (x : Word32) (side : Byte) (band : FV) (p : Nat) : FV × Bool :=
  match tag with
  | .f4b => f4bValue (tagElem .f4b x p) side.toNat band
  | t => ((Tag.fmt t).read (tagElem t x p), false)

/-- One output element: the exact sum over the 32 columns, rounded once; an exact zero sum is +0 (R234, R235). -/
def mapDot (row : Nat → FV) (xs : List (FV × Bool)) : Nat × BitVec 5 :=
  let ps := xs.zipIdx.map (fun p => FV.mul (row p.2) p.1.1)
  let nv := ps.any (·.2) || xs.any (·.2) || (xs.zipIdx.any (fun p => p.1.1.isSnan || (row p.2).isSnan))
  let r := Fmt.fp32.sum .rne (ps.map (·.1)) nv
  if r.1 = 0x80000000 ∧ r.2 = flagNone then (0, flagNone) else r

/-- A source as its planes: format of the elements, value and flags by plane and lane. -/
structure Opnd where
  fmt : Fmt
  val : Nat → Nat → Nat
  fl : Nat → Nat → BitVec 5

/-- A mapped source with `n` planes (R142, R234, R237, R239). -/
def FCtx.mapped (x : FCtx) (r k n : Nat) (neg abs : Bool) : Except Code Opnd :=
  let sl := x.w.slot (x.f % 4) k
  let cs := if sl.full then x.fr.live else x.act
  if x.act = 0 then .ok ⟨.fp32, fun _ _ => 0, fun _ _ => flagNone⟩
  else if sl.binding ≠ .bound then .error .mapunbound
  else if !(rodsOf cs).all (fun rod => slotAdmits sl.fmt (x.fr.tagOf rod r) && decide ((x.fr.tagOf rod r).planes = n)) then .error .fmttag
  else
    let band := Fmt.bf16.read sl.band.toNat
    let ins := fun (p : Nat) => (List.range 32).map (fun j =>
      if cs.getLsbD j then mapInput (x.fr.tagOf (j / 4) r) (x.fr.vreg j r) (x.fr.sideOf j r) band p else (FV.fin false 0 0, false))
    .ok ⟨.fp32, fun p l => signMod .fp32 neg abs (mapDot (fun j => sl.elem l j) (ins p)).1,
      fun p l => (mapDot (fun j => sl.elem l j) (ins p)).2⟩

/-- Whether the registers of a source have a tag in every rod with an active lane (R76). -/
def FCtx.tagOk (x : FCtx) (src : Src) (n : Nat) (t : Tag) : Bool :=
  (List.range n).all (fun j => (rodsOf x.act).all (fun k => decide (x.tagOf src j k = t)))

/-- An FP32 source of `n` planes (R141, R142). -/
def FCtx.f32 (x : FCtx) (src : Src) (n : Nat) : Except Code Opnd :=
  match src with
  | .reg r (some k) neg abs => x.mapped r.toNat k.toNat n neg abs
  | .reg _ none neg abs =>
    if x.tagOk src n .f32 then .ok ⟨.fp32, fun p l => signMod .fp32 neg abs (x.raw src p l).toNat, fun _ _ => flagNone⟩
    else .error .fmttag
  | .latch _ neg abs =>
    if x.tagOk src 1 .f32 then .ok ⟨.fp32, fun _ l => signMod .fp32 neg abs (x.raw src 0 l).toNat, fun _ _ => flagNone⟩
    else .error .fmttag
  | .imm v => .ok ⟨.fp32, fun _ _ => v.toNat, fun _ _ => flagNone⟩
  | .sreg n neg abs => .ok ⟨.fp32, fun _ _ => signMod .fp32 neg abs ((x.sval n.toNat).setWidth 32 : Word32).toNat, fun _ _ => flagNone⟩

/-- Format and tag of FMT16 (R152). -/
def h2Fmt (bf : Bool) : Fmt := if bf then .bf16 else .fp16
def h2Tag (bf : Bool) : Tag := if bf then .bf16x2 else .f16x2

/-- A packed source: two elements (R152). -/
def FCtx.h2 (x : FCtx) (src : Src) (bf : Bool) : Except Code Opnd :=
  let el := fun (neg abs : Bool) (l k : Nat) => signMod (h2Fmt bf) neg abs (bitsOf (x.raw src 0 l).toNat (16 * k) 16)
  match src with
  | .reg r (some k) neg abs =>
    if x.act ≠ 0 ∧ (x.w.slot (x.f % 4) k.toNat).binding = .bound ∧
        !(rodsOf (if (x.w.slot (x.f % 4) k.toNat).full then x.fr.live else x.act)).all
          (fun rod => decide (x.fr.tagOf rod r.toNat = h2Tag bf)) then .error .fmttag
    else x.mapped r.toNat k.toNat 2 neg abs
  | .reg _ none neg abs | .latch _ neg abs =>
    if x.tagOk src 1 (h2Tag bf) then .ok ⟨h2Fmt bf, fun k l => el neg abs l k, fun _ _ => flagNone⟩ else .error .fmttag
  | .imm _ => .ok ⟨h2Fmt bf, fun k l => el false false l k, fun _ _ => flagNone⟩
  | .sreg _ neg abs => .ok ⟨h2Fmt bf, fun k l => el neg abs l k, fun _ _ => flagNone⟩

/-- The value of an element. -/
def Opnd.fv (o : Opnd) (p l : Nat) : FV := o.fmt.read (o.val p l)

/-- An absent source reads as nothing. -/
def Opnd.zero : Opnd := ⟨.fp32, fun _ _ => 0, fun _ _ => flagNone⟩

/-! ### Addresses -/

/-- The exact slice offset of a lane (R202). -/
def FCtx.sliceOff (x : FCtx) (a : Src) (disp : Word32) (l : Nat) : Int := ((x.raw a 0 l).toNat : Int) + disp.toInt

/-- Whether a slice access of `n` bytes is within the extent and aligned (R202). -/
def sliceOk (extent n : Nat) (off : Int) : Bool := decide (0 ≤ off ∧ off + n ≤ extent ∧ off % (min n 16 : Nat) = 0)

/-- A 64-bit address operand plus the displacement, mod 2^64 (R276, R313). -/
def FCtx.addr64 (x : FCtx) (a : Src) (disp : Word32) (l : Nat) : Word64 := x.raw64 true a l + disp.signExtend 64

/-- The address of LDG, STG, LDRO and PREF: sA + B * n + IMM (R310). -/
def FCtx.addrG (x : FCtx) (a b : Src) (n : Nat) (disp : Word32) (l : Nat) : Word64 :=
  x.raw64 true a l + BitVec.ofNat 64 ((x.raw b 0 l).toNat * n) + disp.signExtend 64

/-- The path of an address, or ADDR where its top nibble names none (R308). -/
def pathOf (a : Word64) : Option Nat :=
  let t := bitsOf a.toNat 60 4
  if [0, 1, 4, 5, 8, 12].contains t then some t else none

/-- Whether no bit outside the fields of its path is set, and a mesh core field is below 96 (R308, R309). -/
def fieldsOk (a : Word64) : Bool :=
  let n := a.toNat
  match bitsOf n 60 4 with
  | 0 | 1 => decide (bitsOf n 48 12 = 0)
  | 4 => decide (bitsOf n 56 4 = 0 ∧ bitsOf n 22 21 = 0 ∧ bitsOf n 43 7 < 96)
  | 5 => decide (bitsOf n 22 38 = 0)
  | 8 => decide (bitsOf n 56 4 = 0)
  | 12 => decide (bitsOf n 57 3 = 0)
  | _ => false

/-- The first check that any of these addresses fails, in the order of R309: path, fields, alignment. -/
def addrCheck (paths : List Nat) (align : Nat) (as : List Word64) : Option Code :=
  if as.any (fun a => (pathOf a).isNone) then some .addr
  else if as.any (fun a => !(paths.contains (bitsOf a.toNat 60 4))) then some .path
  else if as.any (fun a => !fieldsOk a) then some .addr
  else if as.any (fun a => decide (a.toNat % align ≠ 0)) then some .align
  else none

/-- The addresses of the active lanes, lane by lane. -/
def FCtx.lanesAddr (x : FCtx) (g : Nat → Word64) : List (Nat × Word64) := (lanesOf x.act).map (fun l => (l, g l))

end Sys2Proof.Machine
end

