-- ==== Sys2Proof/Machine/Access.lean ====
section
/-!
DEFINITION. What the memory instructions share: the outstanding request of a frame (R274, R310), samples (R406), the checks of device and
peer addresses (R276, R309, R319, R320, R425), watchpoints (R401), and the version pool (R327, R348).
-/
namespace Sys2Proof.Machine

open Sys2Proof

/-! ### Requests and samples -/

def FCtx.ctxNo (x : FCtx) : Nat := x.s.ctxOfWg x.w
def FCtx.ptop (x : FCtx) : Nat := match x.s.grid? x.w.grid with | some g => g.ptop | none => 0
def FCtx.system (x : FCtx) : Bool := match x.s.grid? x.w.grid with | some g => g.system | none => false

/-- The values of the active lanes in lane order. -/
def FCtx.perLane {α : Type} (x : FCtx) (m : Word32) (f : Nat → α) : List (Nat × α) := (lanesOf (m &&& x.act)).map (fun l => (l, f l))

/-- A request of these lanes, as nothing has come back yet. -/
def FCtx.newReq (x : FCtx) (id : Nat) (kind : ReqKind) (lanes : Word32) (n : Nat) : Req where
  id := id
  frame := x.f
  lanes := lanes
  kind := kind
  pc := x.sp.pc
  addrs := []
  keep := 0#32
  size := n
  sx := false
  tag := .int
  dst := 0
  nregs := 0
  wbs := x.c.wbs
  pd := 7
  got := []
  preds := []
  flags := []
  wait := lanes
  err := false
  issued := x.s.tick
  pos := x.fr.taken
  smp := none
  inp := false
  gen := Tab.get 0 x.s.gen x.core
  ret := x.w.retired

/-- 32-byte sectors that accesses of `n` bytes touch. -/
def sectorsOf (n : Nat) (as : List Nat) : Nat :=
  (sortNat (as.flatMap (fun a => (List.range ((a + n - 1) / 32 + 1 - a / 32)).map (fun k => a / 32 + k)))).length

/-- The levels of R407 that an access can wait at: issue, port, cluster, mesh, memory controller, stack. An access of the own slice reaches the first
alone, one of the mesh, the host or another package none of the last two, a dropped prefetch no more than a load (log 64). -/
def reachedLevels : Instr → Nat
  | .ldl .. | .stl .. | .atoml .. => 1
  | .ldm .. | .stm .. | .atomm .. | .ldh .. | .sth .. | .ldx .. | .stx .. => 4
  | _ => 6

/-- Whether an instruction looks into the version caches of its core and cluster (R407). -/
def usesCaches : Instr → Bool
  | .ldg .. | .ldro .. | .pref .. => true
  | _ => false

/-- Whether an address is translated by the core's TLBs, and the package whose table it is. -/
def deviceAddr (a : Nat) : Bool := decide (bitsOf a 60 4 ≤ 1 ∨ bitsOf a 60 4 = 8)

/-- FLAGS bits 2 and 3 of a memory instruction (R407): a lookup missed the core's L1 TLB, and a walk was made. -/
def FCtx.tlbFlags (x : FCtx) (i : Instr) (as : List Nat) : Nat :=
  let l1 := fun (a : Nat) => x.s.tlb.any (fun e => decide (e.at_ = .core x.core ∧ e.ctx = x.s.ctxOfWg x.w) && e.page.holds (a % 2 ^ 48))
  if (match i with | .ldl .. | .stl .. | .atoml .. | .pref .. => true | _ => false) then 0
  else (if x.sp.walked || as.any (fun a => deviceAddr a && !l1 a) then 4 else 0) + (if x.sp.walked then 8 else 0)

/-- Counts a memory instruction of a core, and says whether it yields a sample record when it completes (R406). -/
def FCtx.sample (x : FCtx) (i : Instr) (n : Nat) (as : List Nat) (s : State) : State × Option Sample :=
  if x.act = 0 then (s, none)
  else
    let k := Tab.get 0 s.samples x.core + 1
    let period := match s.ctx? x.ctxNo with | some c => c.sampling | none => 0
    ({ s with samples := Tab.set 0 s.samples x.core k },
     if period ≠ 0 ∧ k % period = 0 then
       some { num := s.ckptNum x.ctxNo, rep := s.inReplay x.ctxNo, flags := x.tlbFlags i as, levels := reachedLevels i, cached := usesCaches i,
              replays := x.sp.xl, frame := x.f, core := x.w.home, retired := x.w.retired, pc := x.sp.pc.toNat, active := x.act.toNat,
              opc := match i.shape with | some p => p.op.toNat | none => 0, sectors := sectorsOf n as }
     else none)

/-- A memory instruction that is performed as it issues retires, with its sample record. -/
def FCtx.memDone (x : FCtx) (i : Instr) (n : Nat) (as : List Nat) (s : State) (w : Wg → Wg) (fr : Frame) : State :=
  let (s, smp) := x.sample i n as s
  let s := match smp with | some y => s.sampleRecord x.ctxNo y none | none => s
  x.retire s (w x.w) fr ⟨[], []⟩ x.fall

/-- The tags that a load gives its destination registers in some rods (R76). -/
def Req.tagIn (r : Req) (rods : List Nat) : List (Nat × Tag) :=
  if r.wbs then [] else rods.flatMap (fun k => (List.range r.nregs).map (fun j => (tKey k (r.dst + j), r.tag)))

/-- A memory instruction leaves a request and retires; one without a lane leaves none. A rod whose active lanes have all been switched off takes
the tag too (R76). -/
def FCtx.memIssue (x : FCtx) (i : Instr) (n : Nat) (as : List Nat) (s : State) (w : Wg → Wg) (fr : Frame) (r : Req) : State :=
  let off := (rodsOf x.act).filter (fun k => !(rodsOf r.lanes).contains k)
  let fr := if off.isEmpty then fr else fr.write { Writes.none with tags := r.tagIn off }
  if r.lanes = 0 then x.memDone i n as s w fr
  else
    let (s, smp) := x.sample i n as s
    let w0 := w x.w
    (x.endsWith r.id).retire s { w0 with reqs := w0.reqs ++ [{ r with smp := smp }] } fr ⟨[], []⟩ x.fall

/-- The store data of a lane as a number: one register, or an aligned group (R203). -/
def FCtx.data (x : FCtx) (b : Src) (n l : Nat) : Nat :=
  ((List.range ((n + 3) / 4)).map (fun j => (x.raw b j l).toNat * 2 ^ (32 * j))).foldl (· + ·) 0 % 256 ^ n

/-- An operand of an atomic: 32 bits, or a pair or whole s-register (R204, R277). -/
def FCtx.atomOpnd (x : FCtx) (ty : ATy) (b : Src) (l : Nat) : Nat :=
  if ty.bytes = 8 then (x.raw64 true b l).toNat else (x.raw b 0 l).toNat

/-- Lanes switched off by a slice fault (R88). -/
def Frame.switchOff (fr : Frame) (m : Word32) (now : Nat) : Frame := if m = 0 then fr else { fr.kill m now with fmask := fr.fmask ||| m }

/-- What the `n` bytes `v` of a load put into its registers (R203). -/
def loadRegs (n : Nat) (sx : Bool) (v : Nat) : List Word32 :=
  match n with
  | 1 => [if sx then (BitVec.ofNat 8 v).signExtend 32 else BitVec.ofNat 32 (v % 2 ^ 8)]
  | 2 => [if sx then (BitVec.ofNat 16 v).signExtend 32 else BitVec.ofNat 32 (v % 2 ^ 16)]
  | _ => (List.range (n / 4)).map (fun j => BitVec.ofNat 32 (bitsOf v (32 * j) 32))

/-- The writes of a request's results for the lanes of a list (R203, R274). -/
def Req.writes (r : Req) (vals : List (Nat × Nat)) : Writes :=
  let regs := if r.wbs then [] else vals.flatMap (fun p => (loadRegs r.size r.sx p.2).zipIdx.map (fun q => (vKey p.1 (r.dst + q.2), q.1)))
  { v := regs,
    tags := r.tagIn (rodsOf (maskOf (vals.map (·.1)))),
    side := [],
    preds := if r.pd = 7 then [] else (r.preds.filter (fun p => (vals.map (·.1)).contains p.1)).map (fun p => (pKey p.1 r.pd, p.2)),
    resid := [],
    flags := r.flags.filter (fun p => (vals.map (·.1)).contains p.1) }

/-! ### Translation of several packages (R276, R425) -/

/-- The package that an address names: this one, or that of a peer address. -/
def pkgOf (own : Nat) (a : Word64) : Nat := if bitsOf a.toNat 60 4 = 8 then bitsOf a.toNat 48 8 else own
def offsetOf (a : Word64) : Nat := a.toNat % 2 ^ 48

def State.translatePkgs (s : State) (a : Ask) (ctx : Nat) (vas : List (Nat × Nat)) : List Nat → Xlate
  | [] => .hit []
  | p :: ps =>
    match s.translate a ctx p ((vas.filter (fun v => decide (v.1 = p))).map (·.2)) with
    | .fault s => .fault s
    | .hit _ => s.translatePkgs a ctx vas ps
    | .wait s =>
      match s.translatePkgs a ctx vas ps with
      | .fault s => .fault s
      | .wait s => .wait s
      | .hit _ => .wait s

/-! ### Watchpoints (R401) -/

/-- The watchpoint entries that an access of these offsets matches, but for those that have stopped it already. -/
def Wg.watched (w : Wg) (skip : List Nat) (rd wr : Bool) (n : Nat) (offs : List Nat) : List Nat :=
  (List.range 8).filter (fun k =>
    let c := Tab.get 0#32 w.wctl k
    let base := (Tab.get 0#64 w.wbase k).toNat
    let size := 2 ^ (bitsOf c.toNat 3 5 + 3)
    c.getLsbD 0 && !skip.contains k && ((c.getLsbD 1 && rd) || (c.getLsbD 2 && wr)) &&
      offs.any (fun a => decide (a < base + size ∧ base < a + n)))

/-! ### The checks of an access to device or peer memory -/

/-- What the checks give: a fault, a stop or a wait with the state that it leaves, or the page and physical address of each lane. -/
inductive Checked where
  | fault (c : Code)
  | stop (s : State)
  | ok (ps : List (Nat × Nat × PageEnt × Nat))

/-- Every check of an access in every active lane before any lane's access (R276, R309, R401, R425): path, fields, alignment, translation,
page rights, VMODE, watchpoints; of a page that fails both its rights and its VMODE the rights come first (R276; for class 0x9 DESIGN CHOICE, log 94). The answer lists lane, package, page and physical address. -/
def FCtx.check (x : FCtx) (paths : List Nat) (n : Nat) (addr : Nat → Word64) (modify rd wr : Bool) (vmode : PageEnt → Option Code) :
    Checked :=
  let as := x.lanesAddr addr
  match addrCheck paths n (as.map (·.2)) with
  | some c => .fault c
  | none =>
    let vas := as.map (fun a => (pkgOf x.s.pkg a.2, offsetOf a.2))
    if as.any (fun a => decide (bitsOf a.2.toNat 60 4 = 8) &&
        (decide (pkgOf x.s.pkg a.2 = x.s.pkg) || !x.s.fabric.any (fun e => decide (e.1 = pkgOf x.s.pkg a.2)))) then .fault .addr
    else
      match x.s.translatePkgs ⟨x.core, x.w.grid, x.w.idx, x.f, x.sp.pc.toNat⟩ x.ctxNo vas (sortNat (vas.map (·.1))) with
      | .fault s => .stop (s.faultHere .xlate 0)
      | .wait s => .stop (s.updSplit x.core x.f x.sp.id (fun p => { p with walked := true }))
      | .hit _ =>
        let ps := as.filterMap (fun a =>
          (x.s.tlbFind x.core x.ctxNo (pkgOf x.s.pkg a.2) (offsetOf a.2)).map (fun p =>
            (a.1, pkgOf x.s.pkg a.2, p, p.phys (offsetOf a.2))))
        if ps.any (fun p => (!x.system && decide (p.2.2.1.pkey ≠ x.ptop)) || (modify && !p.2.2.1.wr)) then .fault .perm
        else match ps.findSome? (fun p => vmode p.2.2.1) with
          | some c => .fault c
          | none =>
            let offs := (as.filter (fun a => decide (bitsOf a.2.toNat 60 4 ≠ 8))).map (fun a => offsetOf a.2)
            match (if x.s.attached x.w then x.w.watched x.sp.skipW rd wr n offs else []) with
            | k :: ks => .stop (x.s.debugStop x.core x.f { x.sp with skipW := (k :: ks) ++ x.sp.skipW } Code.watch.num k false)
            | [] => .ok ps

/-- Plain loads and stores neither read nor change a bead (R320). -/
def plainVmode (p : PageEnt) : Option Code := if p.vmode = 2 then some .atomtype else none
def beadVmode (p : PageEnt) : Option Code := if p.vmode = 2 then none else some .beadpage

/-! ### The version pool (R326, R327, R348) -/

/-- The memory stack of a physical address. -/
def stackOf (pa : Nat) : Nat := (List.range 7).foldl (fun acc k => Nat.xor acc (bitsOf pa (5 * k + 8) 5)) 0

/-- Bytes of one stack's share of the pool: the configured fraction of 128 GiB. -/
def State.poolBytes (s : State) : Nat := if s.fw.pool = 0 then 2 ^ 37 / 8 else 2 ^ 37 / s.fw.pool

/-- Version entries of the package's pool: 5,726,623,061 at the default. -/
def State.poolEntries (s : State) : Nat := 32 * s.poolBytes / 96

/-- Free entries of a stack's pool: what is left of its bytes, in entries of 96 bytes. -/
def State.poolFree (s : State) (stack : Nat) : Nat :=
  (s.poolBytes - 96 * (s.dev.vers.filter (fun v => decide (stackOf (64 * v.gran) = stack))).length) / 96

/-- Below 1/64 of a stack's share, and above 1/32 of every one's, by the exact shares. -/
def State.poolLow (s : State) : Bool := (List.range 32).any (fun k => decide (64 * 96 * s.poolFree k < s.poolBytes))
def State.poolHigh (s : State) : Bool := (List.range 32).all (fun k => decide (s.poolBytes < 32 * 96 * s.poolFree k))

/-- A version entry as it stands in the pool: the data, the mask, the stamp or phase tag, the link to the next entry of its chain, and the granule's
place in its unit (R327). -/
def Version.entry (v : Version) (link : Nat) : List Byte :=
  (List.range 64).map (fun k => (Tab.get none v.bytes k).getD 0#8) ++
  natToBytes 8 ((List.range 64).foldl (fun m k => if (Tab.get none v.bytes k).isSome then m + 2 ^ k else m) 0) ++
  natToBytes 8 (match v.owner with | .committed t | .aside _ t => t | .phase t | .peer _ t => t | .shadow _ g => g) ++
  natToBytes 8 link ++ natToBytes 8 (v.gran % 4)

/-- A granule header, of a unit of 256 bytes: the link to its first version entry, or bit 34 where it has none (R327). -/
def DevMem.header (m : DevMem) (unit link : Nat) : Nat := if m.vers.any (fun v => decide (v.gran / 4 = unit)) then link % 2 ^ 34 else 2 ^ 34

/-- The header of a unit of a BEAD page: which of its 32 beads are up. -/
def DevMem.beadHeader (m : DevMem) (unit : Nat) : Nat :=
  (List.range 32).foldl (fun n b => if (m.bead (256 * unit + 8 * b)).up then n + 2 ^ b else n) 0

/-- Whether a store into a phase needs a pool entry that relief does not give now (R348, step 4): a version that a checkpoint has frozen takes no more
bytes (R408). -/
def State.poolStalls (s : State) (o : Owner) (pas : List Nat) : Bool :=
  s.relief.isSome && pas.any (fun pa => !s.dev.vers.any (fun v => decide (v.owner = o ∧ v.gran = pa / 64) && !v.frozen))

end Sys2Proof.Machine
end

