-- ==== Sys2Proof/Machine/Image.lean ====
section
/-!
DEFINITION. The saved context of a workgroup (R240, R390, R392): the sections of its image, its header, the area that firmware reserves, what
lands in it while the workgroup is saved, and how CREST reads it back (R391, R394).
-/
namespace Sys2Proof.Machine

open Sys2Proof

/-! ### The image (R390) -/

/-- Sections of the image after its header, in the order of R390: bytes of each. -/
def Wg.sections (w : Wg) : List Nat :=
  let f := w.frames.length
  let r := w.code.regs
  let b := (w.slots.map (fun p => if p.2.binding = .bound then slotBytes p.2.fmt else 0)).foldl (· + ·) 0
  let p := (w.reqs.filter (fun (r : Req) => match r.kind with | .load _ | .store 8 => true | _ => false)).length +
    (sortNat (w.replays.map (fun k => k.req))).length
  [1024, 4096, 512 * f, 4096 * f, 128 * r * f, 36 * r * f, 128 + b, w.code.extent, 64 * w.copies.length, 64 * p]

/-- The image size. -/
def Wg.imageSize (w : Wg) : Nat := 256 + w.sections.foldl (· + ·) 0

/-- The offsets of the sections, each aligned to 64 bytes. -/
def Wg.offsets (w : Wg) : List Nat :=
  (w.sections.foldl (fun (acc : Nat × List Nat) n => ((acc.1 + n + 63) / 64 * 64, acc.2 ++ [acc.1])) (256, [])).2

/-- The header (R392). TARGET and STATUS of an image that no CSAVE asked for are the core and 0 (DEDUCED, log 38). -/
def Wg.header (w : Wg) (st target status gen : Nat) : List Byte :=
  natToBytes 4 0x4E435458 ++ natToBytes 2 1 ++ natToBytes 2 st ++ natToBytes 8 w.imageSize ++ natToBytes 4 w.grid ++ natToBytes 4 w.idx ++
  natToBytes 8 w.code.text ++ natToBytes 4 target ++ natToBytes 4 status ++ natToBytes 8 gen ++ natToBytes 2 w.frames.length ++
  natToBytes 2 w.code.regs ++ natToBytes 4 w.code.extent ++ natToBytes 2 w.copies.length ++
  natToBytes 2 ((w.sections.getD 9 0) / 64) ++ natToBytes 4 0 ++ w.offsets.flatMap (fun o => natToBytes 8 o) ++ natToBytes 112 0

/-- Bytes whose layout the spec leaves open (log 65). -/
def State.openBytes (s : State) (n : Nat) : List Byte × State :=
  let (f, s) := s.takeFree n
  (f.map (BitVec.ofNat 8), s)

def word32Bytes (x : Word32) : List Byte := natToBytes 4 x.toNat

/-- The sections whose layout R390 gives, of one frame: residues and registers lane by lane, side bytes and tags register by register;
in a tag byte the rod of even number has the low nibble (DESIGN CHOICE, log 76). -/
def Frame.residBytes (fr : Frame) : List Byte :=
  (List.range 32).flatMap (fun l => (List.range 32).flatMap (fun e => word32Bytes (fr.residOf l e)))
def Frame.regBytes (fr : Frame) (regs : Nat) : List Byte :=
  (List.range 32).flatMap (fun l => (List.range regs).flatMap (fun r => word32Bytes (fr.vreg l r)))
def Frame.sideBytes (fr : Frame) (regs : Nat) : List Byte :=
  (List.range regs).flatMap (fun r => (List.range 32).map (fun l => fr.sideOf l r) ++
    (List.range 4).map (fun k => BitVec.ofNat 8 ((fr.tagOf (2 * k) r).code + 16 * (fr.tagOf (2 * k + 1) r).code)))

/-- The contents of the bound slots, by rising quad and, in a quad, slot (DESIGN CHOICE, log 76). -/
def Wg.slotBytesOf (w : Wg) : List Byte :=
  w.slots.flatMap (fun p => if p.2.binding = .bound then Tab.readBytes p.2.bytes 0 (slotBytes p.2.fmt) else [])

/-- A section, up to the next multiple of 64 bytes. -/
def pad64 (bs : List Byte) : List Byte := bs ++ List.replicate ((64 - bs.length % 64) % 64) 0#8

/-- The image of a workgroup after its header (R390): what its sections hold, in their order; where a section's inside has no layout in the spec, its bytes
are free values. -/
def State.imageBody (s : State) (w : Wg) : List Byte × State :=
  let n := fun (k : Nat) => w.sections.getD k 0
  let (a, s) := s.openBytes (n 0 + n 1 + n 2)
  let (b, s) := s.openBytes 128
  let (c, s) := s.openBytes (n 8 + n 9)
  (pad64 a ++ pad64 (w.frames.flatMap Frame.residBytes) ++ pad64 (w.frames.flatMap (fun fr => fr.regBytes w.code.regs)) ++
    pad64 (w.frames.flatMap (fun fr => fr.sideBytes w.code.regs)) ++ pad64 (b ++ w.slotBytesOf) ++ pad64 (Tab.readBytes w.slice 0 w.code.extent) ++ c, s)

/-! ### Images in device memory -/

/-- Bytes of a save area, with the last stamp taken: the save takes no stamp of its own (log 65). -/
def State.putArea (s : State) (pa : Nat) (bs : List Byte) : State := { s with dev := s.dev.put (.committed s.last) pa bs }

/-- The image of a workgroup stands at an address from now on, with this STATE in its header. -/
def State.putImage (s : State) (w : Wg) (st pa : Nat) : State :=
  let r := s.imageBody w
  r.2.putArea pa (w.header st w.core 0 (Tab.get 0 s.gen w.core) ++ r.1)

/-- Bytes that firmware reserves for a workgroup of a code object (R390): the image with 16 copies, 16 replay packets for each frame and every slot bound,
each section aligned, up to the next multiple of 4 KiB. -/
def CodeObj.areaSize (o : CodeObj) : Nat :=
  (5504 + o.frames * (4608 + 164 * o.regs) + 4 * o.slots * slotBytes .bf16 + o.extent + 64 * (16 + 16 * o.frames) + 640 + 4095) / 4096 * 4096

/-- Device memory that a new save area keeps clear of (R390), as base and size: the areas of the workgroups that there are, the images that CSAVE holds,
and the page tables of every context with the pages that they map. -/
def State.usedAreas (s : State) : List (Nat × Nat) :=
  s.wgs.map (fun w => (w.savearea, w.code.areaSize)) ++ s.held.map (fun p => (p.1, p.2.imageSize)) ++
  s.ctxs.flatMap (fun p => match p.2 with
    | some c => (tableSpans s.dev c.root 0 4).map (fun x => (x.1, 2 ^ x.2.1))
    | none => [])

/-- Whether `n` bytes from an address on lie in device memory and clear of the areas in use. -/
def areaFits (used : List (Nat × Nat)) (n a : Nat) : Bool :=
  decide (a + n ≤ 2 ^ 42) && used.all (fun p => decide (p.1 + p.2 ≤ a ∨ a + n ≤ p.1))

/-- The area that firmware reserves for a new workgroup: a free value, aligned to 4 KiB, where it is clear of what is in use; else the first place behind
something in use that is (log 30). -/
def State.reserveArea (s : State) (o : CodeObj) : Nat × State :=
  let (f, s) := s.takeFree 1
  let used := s.usedAreas
  let a := 4096 * (f.getD 0 0 % 2 ^ 30)
  (if areaFits used o.areaSize a then a
   else ((0 :: used.map (fun p => (p.1 + p.2 + 4095) / 4096 * 4096)).find? (areaFits used o.areaSize)).getD a, s)

/-- Where the image of a workgroup stands that is saved: its reserved area while it is parked, the area that CSAVE named while that holds it. -/
def State.imageAt (s : State) (g i : Nat) : Option (Wg × Nat) :=
  match s.parked.find? (fun w => w.is g i) with
  | some w => some (w, w.savearea)
  | none => (s.held.find? (fun p => p.2.is g i)).map (fun p => (p.2, p.1))

/-- The bytes of an image that differ between two contents of a section. -/
def sectionDiff (pa : Nat) (old new : List Byte) : List (Nat × Byte) :=
  ((old.zip new).zipIdx pa).filterMap (fun p => if p.1.1 = p.1.2 then none else some (p.2, p.1.2))

/-- What changes in the sections of an image whose layout R390 gives, where a saved workgroup becomes another. -/
def Wg.imageDiff (old new : Wg) (pa : Nat) : List (Nat × Byte) :=
  let o := fun (k : Nat) => pa + old.offsets.getD k 0
  let r := old.code.regs
  sectionDiff (o 3) (old.frames.flatMap Frame.residBytes) (new.frames.flatMap Frame.residBytes) ++
  sectionDiff (o 4) (old.frames.flatMap (fun fr => fr.regBytes r)) (new.frames.flatMap (fun fr => fr.regBytes r)) ++
  sectionDiff (o 5) (old.frames.flatMap (fun fr => fr.sideBytes r)) (new.frames.flatMap (fun fr => fr.sideBytes r)) ++
  sectionDiff (o 7) (Tab.readBytes old.slice 0 old.code.extent) (Tab.readBytes new.slice 0 old.code.extent)

/-- What lands in a saved workgroup is written into its image (R274, R313, R389). -/
def State.writeThrough (s : State) (new : Wg) : State :=
  match s.imageAt new.grid new.idx with
  | some (old, pa) => { s with dev := (old.imageDiff new pa).foldl (fun m p => m.put (.committed s.last) p.1 [p.2]) s.dev }
  | none => s

/-! ### An image read back -/

/-- The tag of a code (R75). A reserved code, which only software can have put into an image, gives INT (DESIGN CHOICE, log 90). -/
def tagOfCode : Nat → Tag
  | 1 => .f32 | 2 => .f16x2 | 3 => .bf16x2 | 4 => .e4m3x4 | 5 => .e5m2x4 | 6 => .f4b | _ => .int

/-- A 32-bit word, and the bytes, of an image in device memory. -/
def State.imageWord (s : State) (pa : Nat) : Word32 := BitVec.ofNat 32 (s.dev.newestLE pa 4)

/-- A frame with the sections of an image whose layout R390 gives: they begin at `e`, `r` and `t`. -/
def State.imageFrame (s : State) (fr : Frame) (regs e r t : Nat) : Frame :=
  let ls := List.range 32
  { fr with
    resid := Tab.setAll 0#32 [] (ls.flatMap (fun l => ls.map (fun k => (eKey l k, s.imageWord (e + 4 * (32 * l + k)))))),
    v := Tab.setAll 0#32 [] (ls.flatMap (fun l => (List.range regs).map (fun k => (vKey l k, s.imageWord (r + 4 * (regs * l + k)))))),
    side := Tab.setAll 0#8 [] (ls.flatMap (fun l => (List.range regs).map (fun k => (vKey l k, s.dev.byteAt none (t + 36 * k + l))))),
    tags := Tab.setAll Tag.int [] ((List.range regs).flatMap (fun k => (List.range 8).map (fun rod =>
      (tKey rod k, tagOfCode (s.dev.newestLE (t + 36 * k + 32 + rod / 2) 1 / 16 ^ (rod % 2) % 16))))) }

/-- The bound slots with the contents of an image, which begin at an address. -/
def State.imageSlots (s : State) : Nat → Tab Slot → Tab Slot
  | _, [] => []
  | pa, (k, x) :: t =>
    if x.binding = .bound then
      let n := slotBytes x.fmt
      (k, { x with bytes := Tab.writeBytes [] 0 ((List.range n).map (fun j => s.dev.byteAt none (pa + j))) }) :: s.imageSlots (pa + n) t
    else (k, x) :: s.imageSlots pa t

/-- A held workgroup as the image at its address has it: the sections whose layout R390 gives are read from there, the rest is as it was saved
(log 65). -/
def State.fromImage (s : State) (v : Wg) (pa : Nat) : Wg :=
  let o := fun (k : Nat) => pa + v.offsets.getD k 0
  let regs := v.code.regs
  { v with
    frames := v.frames.zipIdx.map (fun p => s.imageFrame p.1 regs (o 3 + 4096 * p.2) (o 4 + 128 * regs * p.2) (o 5 + 36 * regs * p.2)),
    slots := s.imageSlots (o 6 + 128) v.slots,
    slice := Tab.setAll 0#8 [] ((List.range v.code.extent).map (fun k => (k, s.dev.byteAt none (o 7 + k)))) }

/-- A workgroup that CSAVE holds becomes what its image says, before something lands in it there: software may have stored into the image (R274, R313). -/
def State.synced (s : State) (g i : Nat) : State :=
  match s.held.find? (fun p => p.2.is g i) with
  | some p => s.updWg g i (fun v => s.fromImage v p.1)
  | none => s

end Sys2Proof.Machine
end

