-- ==== Sys2Proof/Machine/Memory.lean ====
section
/-!
DEFINITION. Classes 0x8 to 0xA: the slice (R202 to R204), the mesh (R313, R314), device memory (R310 to R312), host and peer memory
(R315, R425), and the events that perform and answer their accesses.
-/
namespace Sys2Proof.Machine

open Sys2Proof

/-! ### Outstanding requests of a workgroup -/

def Wg.req? (w : Wg) (id : Nat) : Option Req := w.reqs.find? (fun (r : Req) => decide (r.id = id))
def Wg.updReq (w : Wg) (id : Nat) (f : Req → Req) : Wg :=
  { w with reqs := w.reqs.map (fun (r : Req) => if r.id = id then f r else r) }
/-- A request is made again (R407). -/
def Req.replayed (r : Req) : Req := { r with smp := r.smp.map (fun y => { y with replays := y.replays + 1 }) }
def Wg.dropReq (w : Wg) (id : Nat) : Wg := { w with reqs := w.reqs.filter (fun (r : Req) => decide (r.id ≠ id)) }

/-- Replaces a workgroup, wherever it stands: its image follows where it is saved. -/
def State.setWg (s : State) (w : Wg) : State := (s.writeThrough w).updWg w.grid w.idx (fun _ => w)

/-- The workgroup of a request once one of its lanes has its answer: a request that has all of them is over, with its sample record. -/
def State.answered (s : State) (w : Wg) (id lane : Nat) (f : Req → Req) : State :=
  let w := w.updReq id (fun r => { f r with wait := r.wait &&& ~~~ BitVec.ofNat 32 (2 ^ lane) })
  match w.req? id with
  | some r =>
    if r.wait = 0 then
      let s := s.setWg (w.dropReq id)
      match r.smp with
      | some y => s.sampleRecord (s.ctxOfWg w) y (some lane)
      | none => s
    else s.setWg w
  | none => s

/-! ### Loads that a later store of their lane overtakes (R316) -/

/-- A byte's place, whatever path leads to it: a slice by core and offset, or a physical address of this package. -/
def slicePlace (core off : Nat) : Nat := 2 ^ 48 + core * 2 ^ 22 + off

/-- Where a load of a lane reads, as a place; none where a halt does not read it again, or other rules order it. -/
def Req.place (r : Req) (core a : Nat) : Option Nat :=
  match r.kind with
  | .load 5 => some (slicePlace core a)
  | .load 4 => some (slicePlace (96 * bitsOf a 50 6 + bitsOf a 43 7) (bitsOf a 0 22))
  | .load 0 | .load 1 => some a
  | _ => none

/-- Lanes of a frame store `n` bytes at these places: a load of theirs that has not landed and reads such a byte keeps what it reads before. -/
def Wg.stored (w : Wg) (f n : Nat) (at_ : List (Nat × Nat)) : Wg :=
  { w with reqs := w.reqs.map (fun (r : Req) =>
      if r.frame ≠ f then r
      else { r with keep := r.keep ||| maskOf ((at_.filter (fun p => r.addrs.any (fun q => decide (q.1 = p.1) &&
        (match r.place w.core q.2 with | some b => decide (b < p.2 + n ∧ p.2 < b + r.size) | none => false)))).map (·.1)) }) }

/-! ### The own slice -/

/-- The active lanes whose slice offset passes the check (R202). -/
def FCtx.sliceLanes (x : FCtx) (a : Src) (disp : Word32) (n : Nat) : Word32 :=
  maskOf ((lanesOf x.act).filter (fun l => sliceOk x.w.code.extent n (x.sliceOff a disp l)))

/-- LDL, R203: the bytes are read as it issues, and land later. -/
def execLdl (c : Ctl) (w : Width) (sx : Bool) (pol : BitVec 2) (tag : Tag) (dst : BitVec 7) (a : Src) (disp : Word32) (s : State) :
    Out3 :=
  let i := Instr.ldl c w sx pol tag dst a disp
  s.runF i (fun x =>
    let good := x.sliceLanes a disp w.bytes
    let at_ := fun l => (x.sliceOff a disp l).toNat
    let (id, s') := x.s.newId
    .ok ((x.memIssue i w.bytes ((lanesOf good).map at_) s' (fun g => g) (x.fr.switchOff (x.act &&& ~~~good) x.s.tick)
      { x.newReq id (.load 5) good w.bytes with
          sx := sx, tag := tag, dst := dst.toNat, nregs := w.regs,
          addrs := x.perLane good at_,
          got := x.perLane good (fun l => Tab.readLE x.w.slice (at_ l) w.bytes) }).gatherFails x.core x.f))

/-- STL, R203: of lanes that write one byte the highest wins. -/
def execStl (c : Ctl) (w : Width) (pol : BitVec 2) (a b : Src) (disp : Word32) (s : State) : Out3 :=
  let i := Instr.stl c w pol a b disp
  s.runF i (fun x =>
    let good := x.sliceLanes a disp w.bytes
    let at_ := fun l => (x.sliceOff a disp l).toNat
    .ok ((x.memDone i w.bytes ((lanesOf good).map at_) x.s
      (fun g => { g.stored x.f w.bytes (x.perLane good (fun l => slicePlace x.core (at_ l))) with
        slice := (lanesOf good).foldl (fun m l => Tab.writeLE m (at_ l) (x.data b w.bytes l) w.bytes) g.slice })
      (x.fr.switchOff (x.act &&& ~~~good) x.s.tick)).gatherFails x.core x.f))

/-- One atomic on a slice: the new slice, the old value, the flags (R204). -/
def sliceAtomic (m : Tab Byte) (off : Nat) (op : AOp) (ty : ATy) (b c : Nat) : Tab Byte × Nat × BitVec 5 :=
  let old := Tab.readLE m off ty.bytes
  let r := atomApply op ty old b c
  (match r.1 with | some new => Tab.writeLE m off new ty.bytes | none => m, old, r.2)

/-- ATOML, R204: in increasing lane order; the old values land later. -/
def execAtoml (c : Ctl) (op : AOp) (ty : ATy) (dst : BitVec 7) (a b : Src) (d : Option Src) (disp : Word32) (s : State) : Out3 :=
  let i := Instr.atoml c op ty dst a b d disp
  s.runF i (fun x =>
      let good := x.sliceLanes a disp ty.bytes
      let at_ := fun l => (x.sliceOff a disp l).toNat
      let r := (lanesOf good).foldl (fun (acc : Tab Byte × List (Nat × Nat) × List (Nat × BitVec 5)) l =>
        let q := sliceAtomic acc.1 (at_ l) op ty (x.atomOpnd ty b l) (x.atomOpnd ty (d.getD noSrc) l)
        (q.1, acc.2.1 ++ [(l, q.2.1)], acc.2.2 ++ [(l, q.2.2)])) (x.w.slice, [], [])
      let (id, s') := x.s.newId
      .ok ((x.memIssue i ty.bytes ((lanesOf good).map at_) s'
        (fun g => { g.stored x.f ty.bytes (x.perLane good (fun l => slicePlace x.core (at_ l))) with slice := r.1 }) (x.fr.switchOff (x.act &&& ~~~good) x.s.tick)
        { x.newReq id (.atom ty.isFloat 5) good ty.bytes with
            tag := atomTag ty, dst := dst.toNat, nregs := ty.regs, got := r.2.1, flags := r.2.2 }).gatherFails x.core x.f))

/-! ### The mesh -/

/-- The core that a mesh address names (R308, R313). -/
def meshCore (a : Word64) : Nat := 96 * bitsOf a.toNat 50 6 + bitsOf a.toNat 43 7
def meshOff (a : Word64) : Nat := bitsOf a.toNat 0 22
def meshPlaces (as : List (Nat × Word64)) : List (Nat × Nat) := as.map (fun a => (a.1, slicePlace (meshCore a.2) (meshOff a.2)))

/-- The workgroup that a core holds for an access over the mesh: a core out of service holds none (R313). -/
def State.meshHolder (s : State) (t : Nat) : Option Wg := if s.oos.contains t then none else s.onCore t

/-- Whether a mesh access of a workgroup to a core would reach another top-level partition (R313). -/
def State.meshPerm (s : State) (ptop t : Nat) : Bool :=
  match (s.meshHolder t).bind (fun w => s.grid? w.grid) with
  | some g => decide (g.ptop ≠ ptop)
  | none => false

/-- The checks of a mesh access at issue (R309, R313). -/
def FCtx.meshFault (x : FCtx) (as : List (Nat × Word64)) : Option Code :=
  match addrCheck [4] 1 (as.map (fun a => a.2)) with
  | some c => some c
  | none =>
    if as.any (fun a => x.s.meshPerm x.ptop (meshCore a.2)) then some .perm
    else none

/-- Sends one access for each lane, in lane order; the workgroup on the target core is fixed here (R313). -/
def FCtx.meshSend (x : FCtx) (s : State) (req n : Nat) (as : List (Nat × Word64)) (op : Option (AOp × ATy)) (store : Bool)
    (b c : Nat → Nat) : State :=
  as.foldl (fun s a =>
    let (id, s) := s.newId
    let t := meshCore a.2
    let (g, i, held) := match x.s.meshHolder t with | some w => (w.grid, w.idx, true) | none => (0, 0, false)
    { s with mesh := s.mesh ++ [⟨id, .lane x.w.grid x.w.idx req a.1, x.core, t, g, i, held, meshOff a.2, n, op, store, b a.1, c a.1⟩] }) s

/-- LDM, R313. -/
def execLdm (c : Ctl) (w : Width) (sx : Bool) (pol : BitVec 2) (tag : Tag) (dst : BitVec 7) (a : Src) (disp : Word32) (s : State) :
    Out3 :=
  let i := Instr.ldm c w sx pol tag dst a disp
  s.runF i (fun x =>
    let as := x.lanesAddr (x.addr64 a disp)
    match x.meshFault as with
    | some e => .error e
    | none =>
      let (id, s') := x.s.newId
      let s' := x.meshSend s' id w.bytes as none false (fun _ => 0) (fun _ => 0)
      .ok (x.memIssue i w.bytes (as.map (fun a => a.2.toNat)) s' (fun g => g) x.fr
        { x.newReq id (.load 4) x.act w.bytes with addrs := as.map (fun a => (a.1, a.2.toNat)), sx := sx, tag := tag, dst := dst.toNat, nregs := w.regs, inp := true }))

/-- STM, R313. -/
def execStm (c : Ctl) (w : Width) (pol : BitVec 2) (a b : Src) (disp : Word32) (s : State) : Out3 :=
  let i := Instr.stm c w pol a b disp
  s.runF i (fun x =>
    let as := x.lanesAddr (x.addr64 a disp)
    match x.meshFault as with
    | some e => .error e
    | none =>
      let (id, s') := x.s.newId
      let s' := x.meshSend s' id w.bytes as none true (x.data b w.bytes) (fun _ => 0)
      .ok (x.memIssue i w.bytes (as.map (fun a => a.2.toNat)) s' (fun g => g.stored x.f w.bytes (meshPlaces as)) x.fr
        (x.newReq id (.store 4) x.act w.bytes)))

/-- ATOMM, R313. -/
def execAtomm (c : Ctl) (op : AOp) (ty : ATy) (dst : BitVec 7) (a b : Src) (d : Option Src) (disp : Word32) (s : State) : Out3 :=
  let i := Instr.atomm c op ty dst a b d disp
  s.runF i (fun x =>
    let as := x.lanesAddr (x.addr64 a disp)
    match x.meshFault as with
    | some e => .error e
    | none =>
      let (id, s') := x.s.newId
      let s' := x.meshSend s' id ty.bytes as (some (op, ty)) false (x.atomOpnd ty b) (x.atomOpnd ty (d.getD noSrc))
      .ok (x.memIssue i ty.bytes (as.map (fun a => a.2.toNat)) s' (fun g => g.stored x.f ty.bytes (meshPlaces as)) x.fr
        { x.newReq id (.atom ty.isFloat 4) x.act ty.bytes with
            tag := atomTag ty, dst := dst.toNat, nregs := ty.regs, inp := true }))

/-- An access over the mesh is checked and performed on the workgroup that held the target core when it issued, wherever that stands: in its image, where it is
saved. Where no workgroup held the core, or the one that did has ended since, or still stands on the core and that has been marked out of service since, it
switches its lane off (R313; but for the first, DESIGN CHOICE, log 83). -/
def State.meshArrive (s : State) (r : MeshReq) : State :=
  let s := s.synced r.grid r.wg
  let back := fun (s : State) (k : MeshAckRec) => let (n, s) := s.newId; { s with acks := s.acks ++ [(n, k)] }
  match (if r.held then (s.wg? r.grid r.wg).filter (fun w => !(s.oos.contains r.tcore && decide (w.core = r.tcore) && !w.halt)) else none) with
  | none => back s ⟨r.src, 0, true, flagNone⟩
  | some w =>
    if !sliceOk w.code.extent r.size r.off then back s ⟨r.src, 0, true, flagNone⟩
    else
      let off := r.off.toNat
      match r.op with
      | some (op, ty) =>
        let q := sliceAtomic w.slice off op ty r.b r.c
        back (s.setWg { w with slice := q.1 }) ⟨r.src, q.2.1, false, q.2.2⟩
      | none =>
        if r.store then back (s.setWg { w with slice := Tab.writeLE w.slice off r.b r.size }) ⟨r.src, 0, false, flagNone⟩
        else back s ⟨r.src, Tab.readLE w.slice off r.size, false, flagNone⟩

/-- Whether two accesses over the mesh are of one lane of a frame, and to one core or to the slice of one workgroup (R316). -/
def State.oneLane (s : State) (q r : MeshReq) : Bool :=
  match q.src, r.src with
  | .lane g i m k, .lane g' i' n l =>
    decide (g = g' ∧ i = i' ∧ k = l) && (match s.wg? g i with
      | some w => decide ((w.req? m).map (fun x => x.frame) = (w.req? n).map (fun x => x.frame))
      | none => false) &&
    (decide (q.tcore = r.tcore) || (q.held && r.held && decide (q.grid = r.grid ∧ q.wg = r.wg)))
  | _, _ => false

/-- MESH_ACCESS_ARRIVE, R313, R314, R316: the accesses of one core to one core in order, and those of one lane to one target, whichever cores the lane has stood
on and the target stands on. -/
def execMeshAccessArrive (id : Nat) (s : State) : Out3 :=
  .next (match s.mesh.find? (fun (r : MeshReq) => decide (r.id = id)) with
    | none => s
    | some r =>
      if (s.mesh.takeWhile (fun (q : MeshReq) => decide (q.id ≠ id))).any (fun (q : MeshReq) => decide (q.score = r.score ∧ q.tcore = r.tcore) || s.oneLane q r) then s
      else ({ s with mesh := s.mesh.filter (fun (q : MeshReq) => decide (q.id ≠ id)) } : State).meshArrive r)

/-- MESH_ACK, R313, R314: the answer of one lane. A store or an atomic is over; a load has its bytes, which land with the others. -/
def execMeshAck (id : Nat) (s : State) : Out3 :=
  .next (match s.acks.find? (fun (p : Nat × MeshAckRec) => decide (p.1 = id)) with
    | none => s
    | some (_, k) =>
      let s0 := s
      let s := { s with acks := s.acks.filter (fun (p : Nat × MeshAckRec) => decide (p.1 ≠ id)) }
      match k.src with
      | .packet _ _ | .peer _ => s
      | .lane g i req lane =>
        let s := s.synced g i
        match s.wg? g i with
        | none => s
        | some w =>
          match w.req? req with
          | none => s
          | some r =>
            if k.off then
              let s := s.answered (match w.frame? r.frame with
                | some fr => w.setFrame r.frame ((fr.switchOff (BitVec.ofNat 32 (2 ^ lane)) s.tick).write { Writes.none with tags := r.tagIn [lane / 4] })
                | none => w) req lane (fun r => r)
              match s.onCore w.core with
              | some v => if v.is g i then s.gatherFails w.core r.frame else s
              | none => s
            else match r.kind with
              | .load _ => s.setWg (w.updReq req (fun r => { r with got := r.got ++ [(lane, k.val)] }))
              | .atom _ _ =>
                let c := s.ctxOfWg w
                if !s.logRoom c then s0
                else
                  let (v, s) := s.logInput c w false r.ret lane [k.val]
                  let ws := ({ r with flags := [(lane, k.flags)] } : Req).writes [(lane, v.getD 0 0)]
                  s.answered (match w.frame? r.frame with
                    | some fr => w.setFrame r.frame (fr.write ws)
                    | none => w) req lane (fun r => r)
              | _ => s.answered w req lane (fun r => r))

/-! ### Device memory -/

/-- The bytes that a device load of a lane returns: at the snapshot, or the newest on a SINGLE page; `own` says whether it sees the core's own
uncommitted bytes (R310, R320). -/
def FCtx.devLoad (x : FCtx) (own : Bool) (n : Nat) (p : PageEnt) (pa : Nat) : Nat :=
  bytesToNat (x.s.dev.loadBytes (if own then some x.w.phase.tag else none) (if p.vmode = 1 then none else some x.w.phase.s) pa n)

/-- A load of device memory: the bytes are read as it issues, and land later. -/
def FCtx.loadG (x : FCtx) (i : Instr) (path : Nat) (own : Bool) (w : Width) (sx : Bool) (tag : Tag) (dst : BitVec 7)
    (addr : Nat → Word64) : Except Code State :=
  match x.check [path] w.bytes addr false true false plainVmode with
  | .fault e => .error e
  | .stop s' => .ok s'
  | .ok ps =>
    let (id, s') := x.s.newId
    .ok (x.memIssue i w.bytes ((lanesOf x.act).map (fun l => (addr l).toNat)) s' (fun g => g) x.fr
      { x.newReq id (.load path) x.act w.bytes with
          sx := sx, tag := tag, dst := dst.toNat, nregs := w.regs,
          got := ps.map (fun p => (p.1, x.devLoad own w.bytes p.2.2.1 p.2.2.2)),
          addrs := (ps.filter (fun p => decide (p.2.2.1.vmode = 1))).map (fun p => (p.1, p.2.2.2)),
          inp := ps.any (fun p => decide (p.2.2.1.vmode = 1)) })

/-- LDG, R310. -/
def execLdg (c : Ctl) (w : Width) (sx : Bool) (pol : BitVec 2) (tag : Tag) (dst : BitVec 7) (a b : Src) (disp : Word32) (s : State) :
    Out3 :=
  let i := Instr.ldg c w sx pol tag dst a b disp
  s.runF i (fun x => x.loadG i 0 true w sx tag dst (x.addrG a b w.bytes disp))

/-- LDRO, R310. -/
def execLdro (c : Ctl) (w : Width) (sx : Bool) (pol : BitVec 2) (tag : Tag) (dst : BitVec 7) (a b : Src) (disp : Word32) (s : State) :
    Out3 :=
  let i := Instr.ldro c w sx pol tag dst a b disp
  s.runF i (fun x => x.loadG i 1 false w sx tag dst (x.addrG a b w.bytes disp))

/-- STG, R310: the bytes enter the core's open phase, lane by lane; it waits while pool relief stalls it (R348). -/
def execStg (c : Ctl) (w : Width) (pol : BitVec 2) (a b d : Src) (disp : Word32) (s : State) : Out3 :=
  let i := Instr.stg c w pol a b d disp
  s.runF i (fun x =>
    let addr := x.addrG a b w.bytes disp
    match x.check [0] w.bytes addr true false true plainVmode with
    | .fault e => .error e
    | .stop s' => .ok s'
    | .ok ps =>
      let o := Owner.phase x.w.phase.tag
      if x.s.poolStalls o (ps.map (fun p => p.2.2.2)) then .ok (x.s.updSplit x.core x.f x.sp.id (fun p => { p with stalled := true }))
      else
        let dev := ps.foldl (fun m p => DevMem.put m o p.2.2.2 (natToBytes w.bytes (x.data d w.bytes p.1))) x.s.dev
        .ok (x.memDone i w.bytes ((lanesOf x.act).map (fun l => (addr l).toNat)) { x.s with dev := dev }
          (fun g => g.stored x.f w.bytes (ps.map (fun p => (p.1, p.2.2.2)))) x.fr))

/-- PREF, R312: a hint that changes no visible state. -/
def execPref (c : Ctl) (pol : BitVec 2) (a b : Src) (disp : Word32) (s : State) : Out3 :=
  let i := Instr.pref c pol a b disp
  s.runF i (fun x => .ok (x.memDone i 1 ((lanesOf x.act).map (fun l => (x.addrG a b 1 disp l).toNat)) x.s (fun g => g) x.fr))

/-! ### The host -/

/-- What the host IOMMU says of an IOVA: 0 not translated, 1 refused, 2 readable, 3 readable and writable (log 14). -/
def State.hostPage (s : State) (ctx iova : Nat) : Nat := Tab.get 0 s.hostPg (hostKey ctx iova / 4096)
def iovaOf (a : Word64) : Nat := bitsOf a.toNat 0 57

/-- The checks of a host access in every lane (R309, R315): a lane that is not translated comes before one that is refused (DESIGN CHOICE, log 94). -/
def FCtx.hostCheck (x : FCtx) (n : Nat) (wr : Bool) (as : List (Nat × Word64)) : Option Code :=
  match addrCheck [12] n (as.map (fun a => a.2)) with
  | some c => some c
  | none =>
    let ks := as.map (fun a => x.s.hostPage x.ctxNo (iovaOf a.2))
    if ks.contains 0 then some .xlate
    else if ks.any (fun k => decide (k = 1) || (wr && decide (k = 2))) then some .perm
    else none

def FCtx.hostSend (x : FCtx) (s : State) (req : Nat) (as : List (Nat × Word64)) (data : Nat → Option (List Byte)) : State :=
  as.foldl (fun s a =>
    let (id, s) := s.newId
    { s with hostq := s.hostq ++ [⟨id, .lane x.w.grid x.w.idx req a.1, x.ctxNo, iovaOf a.2, data a.1⟩] }) s

/-- LDH, R315: `issueF` has waited for its lanes' earlier host stores. -/
def execLdh (c : Ctl) (w : Width) (sx : Bool) (pol : BitVec 2) (tag : Tag) (dst : BitVec 7) (a : Src) (disp : Word32) (s : State) :
    Out3 :=
  let i := Instr.ldh c w sx pol tag dst a disp
  s.runF i (fun x =>
    let as := x.lanesAddr (x.addr64 a disp)
    match x.hostCheck w.bytes false as with
    | some e => .error e
    | none =>
        let (id, s') := x.s.newId
        .ok (x.memIssue i w.bytes (as.map (fun a => a.2.toNat)) (x.hostSend s' id as (fun _ => none)) (fun g => g) x.fr
          { x.newReq id (.load 12) x.act w.bytes with addrs := as.map (fun a => (a.1, iovaOf a.2)), sx := sx, tag := tag, dst := dst.toNat, nregs := w.regs, inp := true }))

/-- STH, R315: a posted write; `issueF` has waited for its lanes' earlier host loads. -/
def execSth (c : Ctl) (w : Width) (pol : BitVec 2) (a b : Src) (disp : Word32) (s : State) : Out3 :=
  let i := Instr.sth c w pol a b disp
  s.runF i (fun x =>
    let as := x.lanesAddr (x.addr64 a disp)
    match x.hostCheck w.bytes true as with
    | some e => .error e
    | none =>
        let (id, s') := x.s.newId
        .ok (x.memIssue i w.bytes (as.map (fun a => a.2.toNat))
          (x.hostSend s' id as (fun l => some (natToBytes w.bytes (x.data b w.bytes l)))) (fun g => g) x.fr
          (x.newReq id (.store 12) x.act w.bytes)))

/-- The lane that a request serves, with its workgroup. -/
def Source.laneOf : Source → Option (Nat × Nat × Nat)
  | .lane g i _ l => some (g, i, l)
  | .packet _ _ | .peer _ => none

/-- HOST_WRITE_ACCEPT, R315, R353: the writes of one lane in order. -/
def execHostWriteAccept (id : Nat) (s : State) : Out3 :=
  .next (match s.hostq.find? (fun (r : HostReq) => decide (r.id = id)) with
    | none => s
    | some r =>
      match r.data with
      | none => s
      | some bs =>
        if (s.hostq.takeWhile (fun (q : HostReq) => decide (q.id ≠ id))).any (fun (q : HostReq) =>
            q.data.isSome && decide (Source.laneOf q.src = Source.laneOf r.src)) then s
        else
          let s := ({ s with hostq := s.hostq.filter (fun (q : HostReq) => decide (q.id ≠ id)) }).setHost r.ctx r.iova bs
          match r.src with
          | .packet _ _ | .peer _ => s
          | .lane g i req lane =>
            match s.wg? g i with
            | some w => s.answered w req lane (fun r => r)
            | none => s)

/-! ### Other packages -/

/-- A request of one lane ends with STORAGE: imprecise, at the workgroup's next issue; `bits` go to ENDFLAGS (R324, R331, R429). -/
def State.failLane (s : State) (src : Source) (bits : Nat) : State :=
  match src with
  | .packet _ _ | .peer _ => s
  | .lane g i req lane =>
    match s.wg? g i with
    | none => s
    | some w =>
      match w.req? req with
      | none => s
      | some r =>
        s.answered { w with storage := if w.storage.isNone then some ⟨.storage, r.frame, r.pc.toNat, 0⟩ else w.storage,
                            endflags := Nat.lor w.endflags bits } req lane (fun r => r)

def FCtx.peerSend (x : FCtx) (s : State) (req n : Nat) (ps : List (Nat × Nat × PageEnt × Nat)) (data : Nat → Option (List Byte)) : State :=
  ps.foldl (fun s p =>
    let (id, s) := s.newId
    { s with peerq := s.peerq ++ [⟨id, .lane x.w.grid x.w.idx req p.1, p.2.1, p.2.2.2, data p.1, n⟩] }) s

/-- LDX, R425. -/
def execLdx (c : Ctl) (w : Width) (sx : Bool) (pol : BitVec 2) (tag : Tag) (dst : BitVec 7) (a : Src) (disp : Word32) (s : State) :
    Out3 :=
  let i := Instr.ldx c w sx pol tag dst a disp
  s.runF i (fun x =>
    let addr := x.addr64 a disp
    match x.check [8] w.bytes addr false true false plainVmode with
    | .fault e => .error e
    | .stop s' => .ok s'
    | .ok ps =>
      let (id, s') := x.s.newId
      .ok (x.memIssue i w.bytes ((lanesOf x.act).map (fun l => (addr l).toNat)) (x.peerSend s' id w.bytes ps (fun _ => none)) (fun g => g)
        x.fr { x.newReq id (.load 8) x.act w.bytes with addrs := ps.map (fun p => (p.1, p.2.1 * 2 ^ 48 + p.2.2.2)), sx := sx, tag := tag, dst := dst.toNat, nregs := w.regs }))

/-- STX, R425. -/
def execStx (c : Ctl) (w : Width) (pol : BitVec 2) (a b : Src) (disp : Word32) (s : State) : Out3 :=
  let i := Instr.stx c w pol a b disp
  s.runF i (fun x =>
    let addr := x.addr64 a disp
    match x.check [8] w.bytes addr true false true plainVmode with
    | .fault e => .error e
    | .stop s' => .ok s'
    | .ok ps =>
      let (id, s') := x.s.newId
      .ok (x.memIssue i w.bytes ((lanesOf x.act).map (fun l => (addr l).toNat))
        (x.peerSend s' id w.bytes ps (fun l => some (natToBytes w.bytes (x.data b w.bytes l)))) (fun g => g) x.fr
        (x.newReq id (.store 8) x.act w.bytes)))

/-- The workgroup of a request's source, as a pair. -/
def Source.wgOf : Source → Option (Nat × Nat)
  | .lane g i _ _ => some (g, i)
  | .packet _ _ | .peer _ => none

/-- The access of another package's agent, which comes by a ready port (R424): its store enters its open phase where the granule stands (R425), its request
goes to the home there (R428), and a bead request that is not performed is withdrawn (R288). What is not at this package needs no port of this one. -/
def State.peerIn (s : State) (r : PeerIn) : State :=
  match r with
  | .store src pkg tag pa n val =>
    if src = s.pkg ∨ (pkg = s.pkg ∧ !s.pkgLive src) ∨ 2 ^ 42 < pa + n ∨ (pkg = s.pkg ∧ s.poolStalls (.peer src tag) [pa] = true) then s else s.setMemOf pkg ((s.memOf pkg).put (.peer src tag) pa (natToBytes n val))
  | .request src pkg pa ptop fl op =>
    if src = s.pkg ∨ (pkg = s.pkg ∧ !s.pkgLive src) ∨ 2 ^ 42 ≤ pa then s
    else
      let (id, s) := s.newId
      s.sendService ⟨id, .peer src, 0, pkg, pa, op, ptop % 16, fl, s.tick⟩
  | .withdraw src id =>
    (s.takeService (fun k => decide (k.id = id ∧ k.src = .peer src) && opIsBead k.op && (decide (k.pkg ≠ s.pkg) || s.pkgLive src))).2

/-- The phases that a workgroup, or the core on which it stands, has committed and whose commits have not reached a package, newest first: what they hold there
is still the core's own uncommitted bytes (R425, R426). -/
def State.unacked (s : State) (w : Wg) (pkg : Nat) : List Nat :=
  ((s.peerCms.filter (fun (k : PeerCm) => decide (k.pkg = pkg ∧ k.tr = none) &&
    (decide (k.core = w.core) || w.is k.grid k.wg))).map (·.tag)).reverse

/-- Bytes as the phases of a core see them, the newest first, else the newest committed. -/
def DevMem.loadOwn (m : DevMem) (tags : List Nat) (pa n : Nat) : List Byte :=
  (List.range n).map (fun j => (tags.findSome? (fun t => m.ownByte t (pa + j))).getD (m.byteAt none (pa + j)))

/-- PEER_ACCESS_ARRIVE, R425, R428: an access of this package arrives at another, or one of another package is made. The requests of one core to one
granule arrive in order (R424). A read sees the core's own uncommitted bytes there, else the newest committed; a store enters the core's open phase.
Where no port leads there, it ends with STORAGE (R429). -/
def execPeerAccessArrive (a : PeerAccess) (s : State) : Out3 :=
  .next (match a with
    | .theirs r => s.peerIn r
    | .ours id =>
    match s.peerq.find? (fun (r : PeerReq) => decide (r.id = id)) with
    | none => s
    | some r =>
      if (s.peerq.takeWhile (fun (q : PeerReq) => decide (q.id ≠ id))).any (fun (q : PeerReq) =>
          decide (q.pkg = r.pkg ∧ q.pa / 64 = r.pa / 64 ∧ Source.wgOf q.src = Source.wgOf r.src)) then s
      else
        let s := { s with peerq := s.peerq.filter (fun (q : PeerReq) => decide (q.id ≠ id)) }
        if !s.pkgLive r.pkg then s.failLane r.src 32 else
        match r.src with
        | .packet _ _ | .peer _ => s
        | .lane g i req lane =>
          match s.wg? g i with
          | none => s
          | some w =>
            match r.data with
            | none =>
              let v := bytesToNat ((s.memOf r.pkg).loadOwn (w.phase.tag :: s.unacked w r.pkg) r.pa r.size)
              s.setWg (w.updReq req (fun q => { q with got := q.got ++ [(lane, v)] }))
            | some bs => (s.setMemOf r.pkg ((s.memOf r.pkg).put (.phase w.phase.tag) r.pa bs)).answered w req lane (fun q => q))

/-! ### Data that return -/

/-- What the waiting lanes of a load have been given, once every lane has its answer. The reads of host memory arrive there now, after those of
its lanes before them (R315). -/
def State.loadValues (s : State) (r : Req) : Option (List (Nat × Nat) × State) :=
  match r.kind with
  | .load 12 =>
    let mine := fun (q : HostReq) => match q.src with | .lane _ _ n _ => decide (n = r.id) && q.data.isNone | _ => false
    if (s.hostq.filter mine).any (fun q => (s.hostq.takeWhile (fun k => decide (k.id ≠ q.id))).any (fun k =>
        decide (Source.laneOf k.src = Source.laneOf q.src))) then none
    else some ((s.hostq.filter mine).filterMap (fun q => (Source.laneOf q.src).map (fun p => (p.2.2, s.hostLE q.ctx q.iova r.size))),
          { s with hostq := s.hostq.filter (fun q => !mine q) })
  | .load _ | .atom _ 5 =>
    if (lanesOf r.wait).all (fun l => r.got.any (fun p => decide (p.1 = l))) then some (r.got, s) else none
  | _ => none

/-- LOAD_DATA_RETURN, R203, R310, R313, R315, R324, R425: the data of every lane land. An uncorrectable error stops the workgroup later with
STORAGE, and what lands is a free value; a corrected error is recorded. Data for a core that has halted since is dropped (R388). -/
def execLoadDataReturn (core req : Nat) (err corrected : Bool) (s : State) : Out3 :=
  .next (match s.onCore core with
    | none => s
    | some w =>
      match w.req? req with
      | none => s
      | some r =>
        let c := s.ctxOfWg w
        if w.halt || decide (r.gen ≠ Tab.get 0 s.gen core) || (r.inp && !s.logRoomFor c (inputUnits (lanesOf r.wait).length)) then s
        else match s.loadValues r with
          | none => s
          | some (vals, s) =>
            let (vs, s) := if r.inp then s.logInput c w false r.ret 32 (vals.map (fun p => p.2)) else (vals.map (fun p => p.2), s)
            let (vs, s) := if err then s.takeFree vs.length else (vs, s)
            let ws := r.writes ((vals.map (fun p => p.1)).zip vs)
            let bit := match r.kind with | .load 4 | .load 5 | .atom _ _ => 8 | _ => 16
            let w := { w with
              storage := if err && w.storage.isNone then some ⟨.storage, r.frame, r.pc.toNat, 0⟩ else w.storage
              endflags := Nat.lor w.endflags ((if err then bit else 0) + (if corrected then 64 else 0)) }
            let w := (match w.frame? r.frame with
              | some fr => w.setFrame r.frame (fr.write ws)
              | none => w).dropReq req
            let s := s.setCore core w
            match r.smp with
            | some y => s.sampleRecord c y (match r.kind with | .load 4 => r.got.getLast?.map (·.1) | _ => none)
            | none => s)

end Sys2Proof.Machine
end

