-- ==== Sys2Proof/Machine/Atomics.lean ====
section
/-!
DEFINITION. Class 0xB, the atomics, bit sets and beads of the service frames (R272 to R288), and the events that perform them and bring
their replies.
-/
namespace Sys2Proof.Machine

open Sys2Proof

/-! ### Issue -/

/-- Sends one request for each lane to its home, in lane order (R273, R276). -/
def FCtx.serviceSend (x : FCtx) (s : State) (req : Nat) (ps : List (Nat × Nat × PageEnt × Nat)) (fl : Bool) (op : Nat → SOp) : State :=
  ps.foldl (fun s p =>
    let (id, s) := s.newId
    s.sendService ⟨id, .lane x.w.grid x.w.idx req p.1, x.core, p.2.1, p.2.2.2, op p.1, x.ptop, fl, s.tick⟩) s

/-- A request of class 0xB that does not block its split: the checks of every lane, then the requests (R276). `f` sets what it returns. -/
def FCtx.service (x : FCtx) (i : Instr) (n : Nat) (addr : Nat → Word64) (modify wr : Bool) (vmode : PageEnt → Option Code)
    (kind : ReqKind) (fl : Bool) (op : Nat → SOp) (f : Req → Req) : Except Code State :=
  match x.check [0, 8] n addr modify true wr vmode with
  | .fault e => .error e
  | .stop s' => .ok s'
  | .ok ps =>
    let (id, s') := x.s.newId
    .ok (x.memIssue i n ((lanesOf x.act).map (fun l => (addr l).toNat)) (x.serviceSend s' id ps fl op)
      (fun g => if modify then g.stored x.f n ((ps.filter (fun p => decide (p.2.1 = x.s.pkg))).map (fun p => (p.1, p.2.2.2))) else g) x.fr
      (f (x.newReq id kind x.act n)))

/-- BPUT, BTAKE and BINIT hold their split until every lane's operation has been performed (R287): the requests leave and the split is
blocked; when it is resumed the instruction retires. -/
def FCtx.blocking (x : FCtx) (i : Instr) (addr : Nat → Word64) (ret : Bool) (op : Nat → SOp) (f : Req → Req) : Except Code State :=
  match x.sp.st with
  | .resumed _ => .ok (x.retire x.s x.w x.fr ⟨[], []⟩ x.fall)
  | _ =>
    match x.check [0, 8] 8 addr true true true beadVmode with
    | .fault e => .error e
    | .stop s' => .ok s'
    | .ok ps =>
      let as := (lanesOf x.act).map (fun l => (addr l).toNat)
      if x.act = 0 then .ok (x.memDone i 8 as x.s (fun g => g) x.fr)
      else
        let (id, s') := x.s.newId
        let s' := x.serviceSend s' id ps false op
        let (s', smp) := x.sample i 8 as s'
        let r := { f (x.newReq id (.service false ret true) x.act 8) with smp := smp }
        .ok (s'.setCore x.core (({ x.w with reqs := x.w.reqs ++ [r] } : Wg).setFrame x.f (x.fr.setSplit { x.sp with st := .blocked id })))

/-! ### Meanings -/

/-- ATOM, R277, R278. -/
def execAtom (c : Ctl) (op : AOp) (ty : ATy) (dst : BitVec 7) (a b : Src) (disp : Word32) (s : State) : Out3 :=
  let i := Instr.atom c op ty dst a b disp
  s.runF i (fun x => x.service i ty.bytes (x.addr64 a disp) true true plainVmode (.service ty.isFloat true false) false
    (fun l => .atom op ty (x.atomOpnd ty b l)) (fun r => { r with tag := atomTag ty, dst := dst.toNat, nregs := ty.regs }))

/-- ATOMC, R277, R278: it is checked as modifying, whatever its outcome (R276). -/
def execAtomc (c : Ctl) (ty : ATy) (dst : BitVec 7) (a b d : Src) (disp : Word32) (s : State) : Out3 :=
  let i := Instr.atomc c ty dst a b d disp
  s.runF i (fun x => x.service i ty.bytes (x.addr64 a disp) true true plainVmode (.service false true false) false
    (fun l => .cas ty (x.atomOpnd ty b l) (x.atomOpnd ty d l)) (fun r => { r with tag := atomTag ty, dst := dst.toNat, nregs := ty.regs }))

/-- ATOMN, R277 to R280: its flags also go to the service flag word, and reach the lane at the core's next commit. -/
def execAtomn (c : Ctl) (op : AOp) (ty : ATy) (a b : Src) (disp : Word32) (s : State) : Out3 :=
  let i := Instr.atomn c op ty a b disp
  s.runF i (fun x => x.service i ty.bytes (x.addr64 a disp) true true plainVmode (.service false false false) true
    (fun l => .atom op ty (x.atomOpnd ty b l)) (fun r => r))

/-- ABSET8, R284. -/
def execAbset8 (c : Ctl) (a b : Src) (disp : Word32) (s : State) : Out3 :=
  let i := Instr.abset8 c a b disp
  s.runF i (fun x => x.service i 32 (x.addr64 a disp) true true plainVmode (.service false false false) false
    (fun l => .abset (x.raw64 true b l).toNat) (fun r => r))

/-- ABTST8, R284: it modifies nothing (R276). -/
def execAbtst8 (c : Ctl) (dst : BitVec 7) (a b : Src) (disp : Word32) (s : State) : Out3 :=
  let i := Instr.abtst8 c dst a b disp
  s.runF i (fun x => x.service i 32 (x.addr64 a disp) false false plainVmode (.service false true false) false
    (fun l => .abtst (x.raw64 true b l).toNat) (fun r => { r with dst := dst.toNat, nregs := 1, size := 4 }))

/-- BPUT, R286. -/
def execBput (c : Ctl) (a b : Src) (disp : Word32) (s : State) : Out3 :=
  let i := Instr.bput c a b disp
  s.runF i (fun x => x.blocking i (x.addr64 a disp) false (fun l => .bput (x.raw64 true b l)) (fun r => r))

/-- BTAKE, R286. -/
def execBtake (c : Ctl) (dst : BitVec 7) (a : Src) (disp : Word32) (s : State) : Out3 :=
  let i := Instr.btake c dst a disp
  s.runF i (fun x => x.blocking i (x.addr64 a disp) true (fun _ => .btake) (fun r => { r with dst := dst.toNat, nregs := 2 }))

/-- BPEEK, R286, R287: it does not block. -/
def execBpeek (c : Ctl) (dst : BitVec 7) (pd : BitVec 3) (a : Src) (disp : Word32) (s : State) : Out3 :=
  let i := Instr.bpeek c dst pd a disp
  s.runF i (fun x => x.service i 8 (x.addr64 a disp) false false beadVmode (.service false true true) false
    (fun _ => .bpeek) (fun r => { r with dst := dst.toNat, nregs := 2, pd := pd.toNat }))

/-- BINIT, R286. -/
def execBinit (c : Ctl) (up : Bool) (a b : Src) (disp : Word32) (s : State) : Out3 :=
  let i := Instr.binit c up a b disp
  s.runF i (fun x => x.blocking i (x.addr64 a disp) false (fun l => .binit up (x.raw64 true b l)) (fun r => r))

/-! ### At the home -/

/-- Whether the home of a granule stands on a die that has failed (R331). -/
def State.homeDead (s : State) (pkg pa : Nat) : Bool :=
  decide (pkg = s.pkg) && s.featOn && !s.dieIn.getLsbD (s.homeOf pkg pa / 24)

/-- Whether an operation would write a version now. -/
def opWrites (m : DevMem) (pa : Nat) : SOp → Bool
  | .atom _ _ _ => true
  | .cas ty _ c => decide (m.newestLE pa ty.bytes = c)
  | .abset v => decide (setBits (m.bytesAt none pa 32) v ≠ m.bytesAt none pa 32)
  | _ => false

/-- Whether a request may be performed now: the log and a replay (R410, R412), and pool relief (R348). -/
def State.mayServe (s : State) (r : SReq) : Bool :=
  if opIsBead r.op then s.beadMay r
  else
    let writes := opWrites (s.memOf r.pkg) r.pa r.op
    !(writes && s.relief.isSome && decide (r.pkg = s.pkg)) &&
    (!writes || (match s.sourceOf r.src with | some (c, w) => s.mayStamp c w (some (w.issueOf r.src)) | none => true))

/-- Whether a request still has its way to the home's package: one of another package has its own (R429). -/
def State.reachable (s : State) (r : SReq) : Bool :=
  match r.src with
  | .peer _ => true
  | _ => s.pkgLive r.pkg

/-- A request at its home: it is performed, joins a bead's waiters, or ends with STORAGE where its home's die has failed or its way is cut. -/
def State.serve (s : State) (r : SReq) : State :=
  if s.homeDead r.pkg r.pa then s.sendReply ⟨r.src, r.pkg, 0, false, flagNone, 16⟩
  else if !s.reachable r then s.sendReply ⟨r.src, r.pkg, 0, false, flagNone, 32⟩
  else s.service r

/-- Whether a request must be performed before another one that came to the same home after it: those of one lane (R273) and those of one instruction
(R278). -/
def State.precedes (s : State) (a b : SReq) : Bool :=
  match a.src, b.src with
  | .lane g i n l, .lane h j m k =>
    decide (g = h ∧ i = j) && (decide (n = m) || (decide (l = k) && (match s.wg? g i with
      | some w => decide ((w.req? n).map (·.frame) = (w.req? m).map (·.frame))
      | none => true)))
  | _, _ => false

/-- Whether a request waits for its place in a replay (R412). -/
def State.replayHeld (s : State) (r : SReq) : Bool := match s.sourceOf r.src with | some (c, _) => s.inReplay c | none => false

/-- The request that a home serves next: the first of its queue; a request that waits for its place in a replay lets those pass that need not follow it
(DESIGN CHOICE, log 87). -/
def State.nextServed (s : State) (past : List SReq) : List SReq → Option SReq
  | [] => none
  | r :: rest =>
    if past.any (fun p => s.precedes p r) then s.nextServed (r :: past) rest
    else if s.homeDead r.pkg r.pa || !s.reachable r || s.mayServe r then some r
    else if s.replayHeld r then s.nextServed (r :: past) rest
    else none

/-- SERVICE_REQUEST, R273, R278, R287, R412: the request whose turn it is at a home is performed, or joins a bead's waiters. -/
def execServiceRequest (home : Nat) (s : State) : Out3 :=
  .next (match s.nextServed [] (s.homeQueue home) with
    | some r =>
      let rest := ((Assoc.at s.svcQ home).getD []).erase r
      ({ s with svcQ := if rest.isEmpty then Assoc.drop s.svcQ home else Assoc.put s.svcQ home rest } : State).serve r
    | none => s)

/-! ### Replies -/

/-- The splits that a request held go on, and BEAD is set (R189, R287). -/
def Wg.unblock (w : Wg) (f id : Nat) : Wg :=
  match w.frame? f with
  | none => w
  | some fr =>
    if fr.splits.any (fun p => decide (p.st = .blocked id)) then
      w.setFrame f { fr.mapSplits (fun p => if p.st = .blocked id then { p with st := .resumed id } else p) with wake := fr.wake ||| wakeBead }
    else w

/-- A bead reply has come to a frame: it ends a SLEEP, and BEAD is set where a split that waited for results before, as `old` has them, waits for none now
(R181, R189). -/
def Wg.beadWake (w old : Wg) (f : Nat) : Wg :=
  match w.frame? f, old.frame? f with
  | some fr, some fo =>
    let ended := fr.splits.any (fun p => decide (p.st = .run) && old.awaitsResults f fo p && !w.awaitsResults f fr p)
    w.setFrame f { fr.wakeSleep wakeBead with wake := (fr.wakeSleep wakeBead).wake ||| (if ended then wakeBead else 0#7) }
  | _, _ => w

/-- ATOM_REPLY, R274, R279, R287: the result of one lane lands, wherever its workgroup stands. -/
def execAtomReply (id : Nat) (s : State) : Out3 :=
  .next (match s.replies.find? (fun (p : Nat × Reply) => decide (p.1 = id)) with
    | none => s
    | some (_, k) =>
      let s := { s with replies := s.replies.filter (fun (p : Nat × Reply) => decide (p.1 ≠ id)) }
      match k.src with
      | .peer _ => s
      | .packet q n => s.packetReply q n k.val
      | .lane g i req lane =>
        let s := s.synced g i
        match s.wg? g i with
        | none => s
        | some w =>
          match w.req? req with
          | none => s
          | some r =>
            let (flt, ret) := match r.kind with | .service a b _ => (a, b) | _ => (false, false)
            let ws := ({ r with preds := [(lane, k.pred)], flags := if flt then [(lane, k.flags)] else [] } : Req).writes [(lane, k.val)]
            let w := if k.err ≠ 0 then
                { w with storage := if w.storage.isNone then some ⟨.storage, r.frame, r.pc.toNat, 0⟩ else w.storage,
                         endflags := Nat.lor w.endflags k.err }
              else if ret then (match w.frame? r.frame with
                | some fr => w.setFrame r.frame (fr.write ws)
                | none => w)
              else { w with atomnFlags := if k.flags = 0 then w.atomnFlags else w.atomnFlags ++ [(32 * r.frame + lane, k.flags)] }
            let s := s.answered w req lane (fun r => r)
            match s.wg? g i with
            | some v =>
              let v := match r.kind with | .service _ _ true => v.beadWake w r.frame | _ => v
              s.setWg (if (v.req? req).isNone then v.unblock r.frame req else v)
            | none => s)

/-- WAITER_REISSUE, R287: a request that was returned goes to the tail of its home's queue 64 cycles later. -/
def execWaiterReissue (id : Nat) (s : State) : Out3 :=
  .next (match s.returned.find? (fun (r : SReq) => decide (r.id = id)) with
    | none => s
    | some r =>
      if s.cyclesSince r.since < 64 then s
      else (match r.src with
        | .lane g i req _ => ({ s with returned := s.returned.filter (fun (q : SReq) => decide (q.id ≠ id)) }).updWg g i (fun w => w.updReq req Req.replayed)
        | _ => { s with returned := s.returned.filter (fun (q : SReq) => decide (q.id ≠ id)) }).sendService r)

end Sys2Proof.Machine
end

