-- ==== Sys2Proof/Machine/Engines.lean ====
section
/-!
DEFINITION. Class 0xC, the copy engine (R254 to R268): COPY, PUBLISH and CANCEL, and the events of a copy: its start, its 256-byte units, its
end.
-/
namespace Sys2Proof.Machine

open Sys2Proof

/-! ### The layout record (R258) -/

/-- A 64-byte layout record as it stands in memory. -/
def layoutOf (bs : List Byte) : LayoutRec :=
  let f := fun (o n : Nat) => bytesToNat ((bs.drop o).take n)
  { ctl := f 0 4,
    ext := (List.range 4).map (fun d => f (4 + 4 * d) 4),
    pitch := (List.range 3).map (fun d => f (0x14 + 4 * d) 4),
    org := (List.range 4).map (fun d => (BitVec.ofNat 32 (f (0x20 + 4 * d) 4)).toInt),
    box := (List.range 4).map (fun d => f (0x30 + 2 * d) 2),
    stamp := f 0x38 8 }

def recLayout (r : LayoutRec) : Nat := bitsOf r.ctl 0 2
/-- Element size in bytes; 8 stands for the reserved code. -/
def recEsize (r : LayoutRec) : Nat := 2 ^ bitsOf r.ctl 2 2
def recMir (r : LayoutRec) (d : Nat) : Bool := r.ctl.testBit (4 + d)
def recEdge (r : LayoutRec) : Bool := r.ctl.testBit 8
/-- The tensor is the destination. -/
def recScatter (r : LayoutRec) : Bool := r.ctl.testBit 9
def recBar (r : LayoutRec) : Option Nat := if r.ctl.testBit 14 then some (bitsOf r.ctl 10 4) else none
def recAutopub (r : LayoutRec) : Bool := r.ctl.testBit 15
def recPad (r : LayoutRec) : List Byte :=
  let p := bitsOf r.ctl 16 16
  match recEsize r with
  | 1 => natToBytes 1 p
  | 2 => natToBytes 2 p
  | _ => natToBytes 4 (p * 2 ^ 16)
def recExt (r : LayoutRec) (d : Nat) : Nat := r.ext.getD d 1
def recBox (r : LayoutRec) (d : Nat) : Nat := r.box.getD d 1
/-- Elements of the box. -/
def recCount (r : LayoutRec) : Nat := recBox r 0 * recBox r 1 * recBox r 2 * recBox r 3

/-- ERR LAYOUT of R264. -/
def recBad (r : LayoutRec) : Bool :=
  decide (bitsOf r.ctl 2 2 = 3) || decide (recLayout r = 3) ||
  (List.range 4).any (fun d => decide (recExt r d = 0 ∨ recBox r d = 0)) ||
  (decide (recLayout r ≠ 0) && decide (recBox r 0 ≠ 32 ∨ recBox r 1 ≠ 32 ∨ 2 < recEsize r)) ||
  (recScatter r && (recEdge r || (List.range 4).any (recMir r))) ||
  decide (2 ^ 40 ≤ recEsize r * recCount r)

/-- MIRROR of R260. -/
def mirror (c : Int) (n : Nat) (edge : Bool) : Int :=
  let e : Int := if edge then 1 else 0
  if c < 0 then -c - e else 2 * n - 2 + e - c

/-- Element `u` of the box in the engine's order: whether it lies in the tensor, its tensor address and its packed address (R259). -/
def copyElem (r : LayoutRec) (tb pb : Word64) (u : Nat) : Bool × Word64 × Word64 :=
  let b := recBox r
  let k : Nat → Nat := fun d => match d with
    | 0 => u % b 0
    | 1 => u / b 0 % b 1
    | 2 => u / (b 0 * b 1) % b 2
    | _ => u / (b 0 * b 1 * b 2)
  let out := fun (c : Int) (d : Nat) => decide (c < 0 ∨ (recExt r d : Int) ≤ c)
  let c := fun (d : Nat) =>
    let x : Int := r.org.getD d 0 + k d
    if out x d && recMir r d then mirror x (recExt r d) (recEdge r) else x
  let es := recEsize r
  let p := fun (d : Nat) => (r.pitch.getD d 0 : Int)
  let toff : Int := es * (c 0 + c 1 * p 0 + c 2 * p 1 + c 3 * p 2)
  let img := 1024 * es * (k 2 + b 2 * k 3)
  let poff := match recLayout r with
    | 0 => es * u
    | 1 => img + slotPos es (k 1) (k 0)
    | _ => img + slotPos es (k 0) (k 1)
  ((List.range 4).all (fun d => !out (c d) d), tb + BitVec.ofInt 64 toff, pb + BitVec.ofNat 64 poff)

/-! ### Errors (R264) -/

def errLayout : Nat := 0x01
def errPath : Nat := 0x02
def errAddr : Nat := 0x03
def errXlate : Nat := 0x04
def errPerm : Nat := 0x05
def errAlign : Nat := 0x06
def errRange : Nat := 0x07
def errVmode : Nat := 0x08
def errStamp : Nat := 0x09
def errStorage : Nat := 0x0A
def errGroups : Nat := 0x0B
def errCancelled : Nat := 0x40

/-- The form of an address on one side of a copy (R257). A packet admits no own slice (R374). A mesh address whose core field is 96 to 127 has a bit set outside its
fields, as R309 has it, and gives ERR ADDR (DESIGN CHOICE, log 81). -/
def copyForm (pkt dst : Bool) (a : Word64) : Option Nat :=
  if (pathOf a).isNone || !fieldsOk a then some errAddr
  else
    let t := bitsOf a.toNat 60 4
    if t = 8 ∨ (dst ∧ t = 1) ∨ (pkt ∧ t = 5) then some errPath else none

/-- For whom a copy moves its bytes: context, partition, whether the grid is SYSTEM (R319 exempts no queue), the workgroup and the engine's cluster. -/
structure CopyEnv where
  ctx : Nat
  ptop : Nat
  system : Bool
  wg : Option Wg
  cluster : Nat

def CopyEnv.die (e : CopyEnv) : Nat := e.cluster / 24

def State.envOfWg (s : State) (w : Wg) : CopyEnv :=
  match s.grid? w.grid with
  | some g => ⟨s.ctxOf g, g.ptop, g.system, some w, clusterOf w.core⟩
  | none => ⟨0, 0, false, some w, clusterOf w.core⟩

def State.envOfPkt (s : State) (q cluster : Nat) : CopyEnv :=
  match s.queue? q with
  | some x => ⟨ctxOfDesc x.desc, x.desc.ptop, false, none, cluster⟩
  | none => ⟨0, 0, false, none, cluster⟩

/-- The page of a device address for a copy, by the L2 TLB of its cluster, or its error (R261, R262, R321). Of several errors
the partition key's comes first, then VMODE, then the W bit (DEDUCED, log 15). -/
def State.copyPage (s : State) (e : CopyEnv) (wr : Bool) (a : Word64) : Except Nat PageEnt :=
  match s.pageAt (.cluster e.cluster) e.ctx s.pkg (offsetOf a) with
  | none => .error errXlate
  | some p =>
    if !e.system && decide (p.pkey ≠ e.ptop) then .error errPerm
    else if wr then (if p.vmode ≠ 0 then .error errVmode else if !p.wr then .error errPerm else .ok p)
    else if p.vmode = 2 then .error errVmode
    else .ok p

/-- The workgroup whose slice an address names, and the offset; a core out of service holds none (R257, R313). -/
def State.copySlice (s : State) (e : CopyEnv) (a : Word64) (n : Nat) : Except Nat (Wg × Nat) :=
  let w := if bitsOf a.toNat 60 4 = 5 then e.wg else s.meshHolder (meshCore a)
  match w with
  | some w => if meshOff a + n ≤ w.code.extent then .ok (w, meshOff a) else .error errRange
  | none => .error errRange

/-- Whether the host IOMMU lets a copy through (R315). -/
def State.copyHost (s : State) (e : CopyEnv) (wr : Bool) (a : Word64) : Except Nat Nat :=
  let k := s.hostPage e.ctx (iovaOf a)
  if k = 0 then .error errXlate
  else if k = 1 ∨ (wr ∧ k = 2) then .error errPerm
  else .ok (iovaOf a)

/-- The path and fields of an element address, which keeps the path of its base (R259). -/
def copyElemOk (base a : Word64) : Bool := decide (bitsOf a.toNat 60 4 = bitsOf base.toNat 60 4) && fieldsOk a

/-- Reads one source element (R261). A 16-byte unit of a slice that the copy has read before is as it was then: the copy sees or misses a write to it as
a whole (R256). -/
def State.copyRead (s : State) (e : CopyEnv) (sc : Nat) (seen : List (Nat × List Byte)) (base a : Word64) (n : Nat) : Except Nat (List Byte) :=
  if !copyElemOk base a then .error errAddr
  else match bitsOf a.toNat 60 4 with
    | 4 | 5 => (s.copySlice e a n).map (fun p => match seen.find? (fun u => decide (u.1 = a.toNat / 16)) with
        | some u => (u.2.drop (a.toNat % 16)).take n
        | none => Tab.readBytes p.1.slice p.2 n)
    | 12 => (s.copyHost e false a).map (fun i => natToBytes n (s.hostLE e.ctx i n))
    | _ => (s.copyPage e false a).map (fun p => s.dev.bytesAt (if p.vmode = 1 then none else some sc) (p.phys (offsetOf a)) n)

/-- A checked destination element. -/
inductive CopyWrite where
  | dev (pa : Nat) (bs : List Byte)
  | slice (grid wg off : Nat) (bs : List Byte)
  | host (iova : Nat) (bs : List Byte)

/-- Checks one destination element (R262). -/
def State.copyStage (s : State) (e : CopyEnv) (base a : Word64) (bs : List Byte) : Except Nat CopyWrite :=
  if !copyElemOk base a then .error errAddr
  else match bitsOf a.toNat 60 4 with
    | 4 | 5 => (s.copySlice e a bs.length).map (fun p => .slice p.1.grid p.1.idx p.2 bs)
    | 12 => (s.copyHost e true a).map (fun i => .host i bs)
    | _ => (s.copyPage e true a).map (fun p => .dev (p.phys (offsetOf a)) bs)

def State.copyPut (s : State) (e : CopyEnv) (o : Owner) : CopyWrite → State
  | .dev pa bs => { s with dev := s.dev.put o pa bs }
  | .slice g i off bs => s.updWg g i (fun w => { w with slice := Tab.writeBytes w.slice off bs })
  | .host iova bs => s.setHost e.ctx iova bs

/-- The elements of a unit from element `u` on: where the next unit begins, the bytes, and the checked writes (R264). Both addresses of an element
are checked, inside the tensor or not (R259). -/
def State.copyGather (s : State) (e : CopyEnv) (c : Copy) : Nat → Nat → Nat → List CopyWrite → Except Nat (Nat × Nat × List CopyWrite)
  | 0, u, got, ws => .ok (u, got, ws)
  | fuel + 1, u, got, ws =>
    if 256 ≤ got ∨ recCount c.layout ≤ u then .ok (u, got, ws)
    else
      let sc := recScatter c.layout
      let dst := BitVec.ofNat 64 c.dst
      let src := BitVec.ofNat 64 c.src
      let (inside, ta, pa) := copyElem c.layout (if sc then dst else src) (if sc then src else dst) u
      let es := recEsize c.layout
      if !copyElemOk (if sc then dst else src) ta || !copyElemOk (if sc then src else dst) pa then .error errAddr
      else if sc && !inside then s.copyGather e c fuel (u + 1) got ws
      else
        match (if inside then s.copyRead e c.sc c.seen src (if sc then pa else ta) es else .ok (recPad c.layout)) with
        | .error x => .error x
        | .ok bs =>
          match s.copyStage e dst (if sc then ta else pa) bs with
          | .error x => .error x
          | .ok w => s.copyGather e c fuel (u + 1) (got + es) (w :: ws)

/-- The 16-byte units of a slice source that `n` elements from `u` on read, as they stand now. -/
def State.sliceUnits (s : State) (e : CopyEnv) (c : Copy) (u n : Nat) : List (Nat × List Byte) :=
  if bitsOf c.src 60 4 ≠ 4 ∧ bitsOf c.src 60 4 ≠ 5 then []
  else (List.range n).filterMap (fun k =>
    let sc := recScatter c.layout
    let x := copyElem c.layout (BitVec.ofNat 64 (if sc then c.dst else c.src)) (BitVec.ofNat 64 (if sc then c.src else c.dst)) (u + k)
    let a := if sc then x.2.2 else x.2.1
    if x.1 then
      match s.copySlice e a (recEsize c.layout) with
      | .ok p => some (a.toNat / 16, Tab.readBytes p.1.slice (p.2 / 16 * 16) 16)
      | .error _ => none
    else none)

/-- The L2 TLB holds the translations of the device addresses of `n` elements from `u` on, which a unit has read and written (R321). -/
def State.copyKeep (s : State) (e : CopyEnv) (c : Copy) (u n : Nat) : State :=
  (List.range n).foldl (fun s k =>
    let sc := recScatter c.layout
    let x := copyElem c.layout (BitVec.ofNat 64 (if sc then c.dst else c.src)) (BitVec.ofNat 64 (if sc then c.src else c.dst)) (u + k)
    let keep := fun (s : State) (a : Word64) =>
      if bitsOf a.toNat 60 4 ≤ 1 then s.keepPage (.cluster e.cluster) e.ctx s.pkg (offsetOf a) else s
    let s := if x.1 then keep s x.2.1 else s
    if x.1 || !sc then keep s x.2.2 else s) s

/-! ### A copy among the others -/

/-- The copy of a number, with its workgroup. -/
def State.copyOf (s : State) (id : Nat) : Option (Wg × Copy) :=
  s.wgs.findSome? (fun w => (w.copies.find? (fun (c : Copy) => decide (c.id = id))).map (fun c => (w, c)))

def State.pktCopyOf (s : State) (id : Nat) : Option Copy := s.pktCopies.find? (fun (c : Copy) => decide (c.id = id))

/-- Changes a copy, wherever it stands. -/
def State.updCopy (s : State) (id : Nat) (f : Copy → Copy) : State :=
  let g := fun (cs : List Copy) => cs.map (fun (c : Copy) => if c.id = id then f c else c)
  { s.mapWgs (fun w => { w with copies := g w.copies }) with pktCopies := g s.pktCopies }

/-- Removes a copy. -/
def State.dropCopy (s : State) (id : Nat) : State :=
  let g := fun (cs : List Copy) => cs.filter (fun (c : Copy) => decide (c.id ≠ id))
  { s.mapWgs (fun w => { w with copies := g w.copies }) with pktCopies := g s.pktCopies }

/-- The status word (R263). -/
def copyStatus (err group bytes : Nat) : Word64 := BitVec.ofNat 64 (2 ^ 63 + err * 2 ^ 56 + group * 2 ^ 40 + bytes % 2 ^ 40)
def Copy.status (c : Copy) : Word64 := copyStatus c.err c.group c.bytes

/-- A shadow group is over, published or discarded: its number is free. -/
def Wg.closeGroup (w : Wg) (cluster group : Nat) : Wg := { w with groups := w.groups.filter (fun (p : Nat × Nat) => decide (p ≠ (cluster, group))) }

/-- Numbers of open groups that a cluster skips: those it gave itself to workgroups or COPY packets, and those of the workgroups that stand on its cores, whichever
cluster gave them (R262; DESIGN CHOICE, log 92). -/
def State.openGroups (s : State) (cluster : Nat) : List Nat :=
  (s.wgs.flatMap (fun w => w.groups.filter (fun (p : Nat × Nat) => decide (p.1 = cluster)))).map (fun p => p.2) ++
  (s.live.filter (fun p => decide (clusterOf p.1 = cluster))).flatMap (fun p => p.2.groups.map (fun k => k.2)) ++
  (s.pktCopies.filter (fun (c : Copy) => decide (c.cluster = cluster))).map (fun c => c.group)

/-- The next group number of a cluster: the one after the last, skipping those still open. -/
def nextGroup (used : List Nat) (last : Nat) : Nat → Nat
  | 0 => last % 65535 + 1
  | fuel + 1 => if used.contains (last % 65535 + 1) then nextGroup used (last % 65535 + 1) fuel else last % 65535 + 1

def State.newGroup (s : State) (cluster : Nat) : Nat × State :=
  let used := s.openGroups cluster
  let g := nextGroup used (Tab.get 0 s.sgroup cluster) used.length
  (g, { s with sgroup := Tab.set 0 s.sgroup cluster g })

/-- Discards a group (R264 to R266). -/
def State.dropGroup (s : State) (cluster group : Nat) : State := { s with dev := s.dev.discard (.shadow cluster group) }

/-! ### COPY_START -/

/-- What is wrong with a record and its base addresses before any byte moves, in the order of the table of R264 (log 15). -/
def copyStartErr (pkt : Bool) (r : LayoutRec) (dst src : Word64) (low frontier : Nat) : Option Nat :=
  let tb := if recScatter r then dst else src
  let pb := if recScatter r then src else dst
  if recBad r || (pkt && (recBar r).isSome) then some errLayout
  else match copyForm pkt false src with
    | some x => some x
    | none =>
      match copyForm pkt true dst with
      | some x => some x
      | none =>
        if tb.toNat % recEsize r ≠ 0 ∨ pb.toNat % recEsize r ≠ 0 ∨ (recLayout r ≠ 0 ∧ pb.toNat % 64 ≠ 0) then some errAlign
        else if r.stamp ≠ 0 ∧ (r.stamp < low ∨ frontier < r.stamp) then some errStamp
        else none

/-- A copy to device memory. -/
def Copy.toDevice (c : Copy) : Bool := decide (bitsOf c.dst 60 4 = 0)

/-- Starts a copy: Sc is fixed, and a device destination gets its group, or the copy ends at once with an error (R256, R261, R262). A 17th group is found after every
other error of the start (DESIGN CHOICE, log 15). -/
def State.startCopy (s : State) (e : CopyEnv) (c : Copy) (snap : Nat) (full : Bool) : Nat × State :=
  let r := c.layout
  let c := { c with sc := if r.stamp ≠ 0 then r.stamp else snap, st := .moving, fixed := true }
  match copyStartErr c.pkt.isSome r (BitVec.ofNat 64 c.dst) (BitVec.ofNat 64 c.src) s.lowWater (s.frontier e.die) with
  | some x => (0, s.updCopy c.id (fun _ => { c with err := x, st := .finishing }))
  | none =>
    if !c.toDevice then (0, s.updCopy c.id (fun _ => c))
    else if full then (0, s.updCopy c.id (fun _ => { c with err := errGroups, st := .finishing }))
    else
      let (g, s) := s.newGroup c.cluster
      (g, s.updCopy c.id (fun _ => { c with group := g }))

/-- A workgroup whose copies go on: on a core, and not halted for good or for pre-emption (R89, R268, R269). -/
def Wg.copiesRun (w : Wg) : Bool := !w.halt

/-- Whether a PUBLISH of the workgroup before a place has not completed its commit (R256). -/
def State.publishing (s : State) (w : Wg) (pos : Nat) : Bool :=
  s.commits.any (fun (k : Commit) => match k.who with
    | .publish g i _ _ p _ _ => w.is g i && decide (p < pos)
    | _ => false)

/-- The conditions of R256 for a copy of a workgroup. -/
def Wg.copyReady (w : Wg) (c : Copy) : Bool :=
  w.takenBy c.pos && !w.acts.any (fun (a : Act) => decide (a.pos < c.pos)) &&
  !(w.copies.takeWhile (fun (k : Copy) => decide (k.id ≠ c.id))).any (fun (k : Copy) => decide (k.st = .issued)) &&
  !w.reqs.any (fun (r : Req) => decide (r.pos ≤ c.pos) && (match r.kind with | .store 4 | .atom _ 4 => true | _ => false))

/-- COPY_START, R255, R256: the record is read whole, but for BARV and BAR, which were read at the issue. -/
def execCopyStart (id : Nat) (s : State) : Out3 :=
  .next (match s.copyOf id with
    | none => s
    | some (w, c) =>
      if c.st = .issued && w.copiesRun && w.copyReady c && !s.publishing w c.pos && decide ((s.onCore w.core).map (fun (x : Wg) => x.is w.grid w.idx) = some true) then
        let c := { c with layout := layoutOf (Tab.readBytes w.slice c.off 64), cluster := clusterOf w.core }
        let (g, s) := s.startCopy (s.envOfWg w) c w.phase.s (decide (16 ≤ w.groups.length))
        if g = 0 then s else s.updWg w.grid w.idx (fun w => { w with groups := w.groups ++ [(clusterOf w.core, g)] })
      else s)

/-! ### COPY_UNIT -/

/-- Takes the commit stamp of a group and makes its bytes visible (R262): the commit, and the state. -/
def State.publishGroup (s : State) (cluster group : Nat) (who : CommitFor) : Nat × State :=
  let (t, s) := s.takeStamp (cluster / 24)
  let s := match who with
    | .copy g _ _ | .publish g _ _ _ _ _ _ => (match s.grid? g with | some x => s.markStamp (s.ctxOf x) | none => s)
    | .packet q _ => (match s.queue? q with | some x => s.markStamp (ctxOfDesc x.desc) | none => s)
    | _ => s
  ({ s with dev := s.dev.reown (.shadow cluster group) (.committed t) }).addCommit t (cluster / 24) .package who []

/-- A copy ends, with an error or without: AUTOPUB discards its group or takes the group's stamp (R263, R264). A packet publishes as AUTOPUB
does (R374). -/
def State.endCopy (s : State) (c : Copy) (who : CommitFor) : State :=
  if c.group ≠ 0 && (c.pkt.isSome || recAutopub c.layout) then
    if c.err ≠ 0 then
      let s := s.dropGroup c.cluster c.group
      (s.updCopy c.id (fun _ => { c with group := 0, st := .finishing })).mapWgs (fun w =>
        if w.copies.any (fun (k : Copy) => decide (k.id = c.id)) then w.closeGroup c.cluster c.group else w)
    else
      let (_, s) := s.publishGroup c.cluster c.group who
      s.updCopy c.id (fun _ => { c with st := .publishing })
  else s.updCopy c.id (fun _ => { c with st := .finishing })

/-- Moves one unit of a copy: every check and read first, then the writes; an error stops it before the unit (R264). -/
def State.moveUnit (s : State) (e : CopyEnv) (c : Copy) (err : Bool) (who : CommitFor) : State :=
  if err then s.endCopy { c with err := errStorage } who
  else match s.copyGather e c (recCount c.layout) c.next 0 [] with
    | .error x => s.endCopy { c with err := x } who
    | .ok (u, got, ws) =>
      let s0 := s
      let s := ws.reverse.foldl (fun s w => s.copyPut e (.shadow c.cluster c.group) w) (s.copyKeep e c c.next (u - c.next))
      let c := { c with next := u, bytes := c.bytes + got, seen := c.seen ++ s0.sliceUnits e c c.next (u - c.next) }
      if recCount c.layout ≤ u then s.endCopy c who else s.updCopy c.id (fun _ => c)

/-- Whether a unit would need pool entries that relief does not give (R348). -/
def State.copyStalls (s : State) (c : Copy) : Bool := s.relief.isSome && c.toDevice

/-- Whether a copy's host bytes are an input of the log (R410). -/
def Copy.fromHost (c : Copy) : Bool := decide (bitsOf c.src 60 4 = 12)

/-- Whether the next unit of a copy is its last, and its AUTOPUB, or its packet, then takes a stamp (R263, R374). -/
def State.publishesNext (s : State) (e : CopyEnv) (c : Copy) : Bool :=
  decide (c.group ≠ 0) && (c.pkt.isSome || recAutopub c.layout) && (match s.copyGather e c (recCount c.layout) c.next 0 [] with
    | .ok (u, _, _) => decide (recCount c.layout ≤ u)
    | .error _ => false)

/-- COPY_UNIT, R264: one unit of 256 destination bytes of any copy in motion. `met` says whether a read met an uncorrectable error and whether one
met a corrected error (R324). The stamp of an AUTOPUB or of a COPY packet waits for room in the log (R410). -/
def execCopyUnit (id : Nat) (met : SoftErr) (s : State) : Out3 :=
  .next (match s.copyOf id with
    | some (w, c) =>
      if c.st ≠ .moving || !w.copiesRun || s.copyStalls c || (!met.err && s.publishesNext (s.envOfWg w) c && !s.logRoom (s.ctxOfWg w)) then s
      else
        let s := if met.corrected then s.updWg w.grid w.idx (fun w => { w with endflags := Nat.lor w.endflags 64 }) else s
        let s' := s.moveUnit (s.envOfWg w) c met.err (.copy w.grid w.idx id)
        if c.fromHost then
          if s.logRoom (s.ctxOfWg w) then
            (s'.logInput (s.ctxOfWg w) w true c.pos 32 [bytesToNat (shake256 ((s.copyGather (s.envOfWg w) c (recCount c.layout) c.next 0 []).toOption.elim []
              (fun p => p.2.2.reverse.flatMap (fun k => match k with | .dev _ b | .slice _ _ _ b | .host _ b => b))) 8)]).2
          else s
        else s'
    | none =>
      match s.pktCopyOf id with
      | some c =>
        match c.pkt with
        | some (q, p) =>
          if c.st ≠ .moving || s.copyStalls c || (!met.err && s.publishesNext (s.envOfPkt q c.cluster) c && !s.logRoom (s.envOfPkt q c.cluster).ctx) then s
          else s.moveUnit (s.envOfPkt q c.cluster) c met.err (.packet q p)
        | none => s
      | none => s)

/-! ### COPY_DONE -/

/-- A copy that is registered on a core barrier arrives there (R215). -/
def Wg.copyArrives (w : Wg) (c : Copy) : Wg :=
  match c.bar with
  | some n => { w with bars := w.bars.modify n (fun (b : Bar) =>
      { b with copies := b.copies.map (fun (p : Nat × Bool) => if p.1 = c.id then (p.1, true) else p) }) }
  | none => w

/-- A copy that has nothing left to move, and whose group is discarded or committed: its status is to be written (R263). -/
def Copy.over (c : Copy) : Bool := decide (c.st = .finishing ∨ c.st = .published)

/-- Whether a CANCEL has taken over the pending write of a copy (R266): it is in flight until that write. -/
def Wg.cancelled (w : Wg) (c : Copy) : Bool := w.pend.any (fun (p : Pend) => decide (p.src = .copy c.id ∧ p.pos ≠ c.pos))

/-- The entries of a copy's CANCELs keep its status as the value that they replace: a frame that stands between the copy and one of them reads the write that
the CANCEL took over (R198, R199, R266). -/
def Wg.landOlds (w : Wg) (c : Copy) : List Entry :=
  (w.dq.zipIdx w.dqBase).map (fun p =>
    if c.pos < p.2 then { p.1 with olds := p.1.olds.map (fun (o : Nat × Word64) => if o.1 = c.reg then (o.1, c.status) else o) } else p.1)

/-- The status of a copy lands (R199, R263). -/
def Wg.landCopy (w : Wg) (c : Copy) : Wg := ({ w with dq := w.landOlds c } : Wg).setS c.reg c.status |>.landS (.copy c.id)

/-- A copy is over: it arrives at its barrier, and its status is written with DONE. A reckoner that waits at a 17th COPY goes on (R189, R254). -/
def Wg.copyDone (w : Wg) (c : Copy) : Wg :=
  let full := w.reckFull
  let w := (w.copyArrives c).regWake wakeEngine c.reg
  let w := if full then { w with rwake := w.rwake ||| wakeEngine } else w
  let w := { w with copies := w.copies.filter (fun (k : Copy) => decide (k.id ≠ c.id)) }
  (if c.wbs then w else w.landCopy c).wakeAll wakeEngine

/-- CANCELs in flight complete at a halt, into the s-register that is saved (R388). -/
def Wg.settleCancels (w : Wg) : Wg := (w.copies.filter (fun c => c.over && w.cancelled c)).foldl Wg.copyDone w

/-- COPY_DONE, R263: the status is written with DONE; a packet has its result. A halted workgroup's copies wait for its restore (R269), but for one whose CANCEL
is in flight (R388). -/
def execCopyDone (id : Nat) (s : State) : Out3 :=
  .next (match s.copyOf id with
    | some (w, c) => if c.over && (w.copiesRun || w.cancelled c) then s.setWg (w.copyDone c) else s
    | none =>
      match s.pktCopyOf id with
      | some c =>
        match c.pkt with
        | some (q, p) =>
          if c.over then (s.dropCopy id).packetDone q p c.status.toNat else s
        | none => s
      | none => s)

/-! ### The instructions -/

/-- COPY, R255. -/
def execCopy (c : Ctl) (dst : BitVec 7) (a b d : Src) (s : State) : Out3 :=
  s.runR (.copy c dst a b d) .nop (fun x =>
    let off := (x.val true d).toNat
    if 16 ≤ x.w.copies.length then .ok x.s
    else if off % 64 ≠ 0 then .error .align
    else if x.w.code.extent < off + 64 then .error .addr
    else
      let r := layoutOf (Tab.readBytes x.w.slice off 64)
      let (id, s') := x.s.newId
      let k : Copy := ⟨id, x.w.place, dst.toNat, x.c.wbs, none, (x.val true a).toNat, (x.val true b).toNat, off, recBar r, .issued, r, 0, 0, 0,
        0, 0, 0, false, []⟩
      let w := { x.w with copies := x.w.copies ++ [k] }
      let w := match recBar r with
        | some n => { w with bars := w.bars.modify n (fun (b : Bar) => { b with copies := b.copies ++ [(id, false)] }) }
        | none => w
      .ok (x.fall s' w { UOut.nop with late := if x.c.wbs then [] else [(dst.toNat, .copy id)],
                                       copies := if x.c.wbs then [] else [(dst.toNat, id)] }))

/-- The open group of a status word, and its error. -/
def statusGroup (v : Word64) : Nat := bitsOf v.toNat 40 16
def statusErr (v : Word64) : Nat := bitsOf v.toNat 56 7

/-- The cluster in which a workgroup's open group has its number. -/
def Wg.clusterOfGroup (w : Wg) (g : Nat) : Nat :=
  match w.groups.find? (fun (p : Nat × Nat) => decide (p.2 = g)) with
  | some p => p.1
  | none => clusterOf w.core

/-- A status whose group is closed is written, and counts as a write of the same copy (R265, R266). -/
def RCtx.closeStatus (x : RCtx) (s : State) (w : Wg) (n id : Nat) (v : Word64) : State :=
  x.fall s w { UOut.nop with regs := if x.c.wbs then [] else [(n, v)], copies := [(n, id)] }

/-- PUBLISH, R265: `issueR` has waited for DONE. Its commit waits until every copy before it has fixed its stamp (R256), with the reckoner at the instruction, and
takes its stamp then, whether the frames have taken the entry or not (DESIGN CHOICE, log 93). -/
def execPublish (c : Ctl) (dst : BitVec 7) (a : Src) (s : State) : Out3 :=
  s.runR (.publish c dst a) .nop (fun x =>
    let v := x.val true a
    let n := dst.toNat
    match Assoc.at x.w.lastCopy n with
    | none => .ok (x.fall x.s x.w UOut.nop)
    | some id =>
      let g := statusGroup v
      let cl := x.w.clusterOfGroup g
      if g = 0 then .ok (x.fall x.s x.w UOut.nop)
      else if statusErr v ≠ 0 then
        .ok (x.closeStatus (x.s.dropGroup cl g) (x.w.closeGroup cl g) n id (copyStatus (statusErr v) 0 (bitsOf v.toNat 0 40)))
      else if x.w.copies.any (fun (k : Copy) => decide (k.st = .issued)) || !x.s.mayStamp (x.s.ctxOfWg x.w) x.w (some (x.w.retired, 32)) then .ok x.s
      else
        let (k, s') := x.s.publishGroup cl g (.publish x.w.grid x.w.idx (if x.c.wbs then none else some n)
          (copyStatus 0 0 (bitsOf v.toNat 0 40)) x.w.place cl g)
        let s' := s'.logAtomicOf (x.s.ctxOfWg x.w) x.w (x.w.retired, 32)
        .ok (x.fall s' (x.w.endsStep k) { UOut.nop with late := if x.c.wbs then [] else [(n, .act k)], copies := [(n, id)] }))

/-- CANCEL, R266: it does not wait for its copy, and takes over the copy's pending write. -/
def execCancel (c : Ctl) (dst : BitVec 7) (a : Src) (s : State) : Out3 :=
  s.runR (.cancel c dst a) .nop (fun x =>
    let v := x.val true a
    let n := dst.toNat
    match Assoc.at x.w.lastCopy n with
    | none => .ok (x.fall x.s x.w UOut.nop)
    | some id =>
      match x.w.copies.find? (fun (k : Copy) => decide (k.id = id)) with
      | some k =>
        let keep := fun (s : State) (w : Wg) =>
          x.fall s (w.endsStep id) { UOut.nop with late := if x.c.wbs then [] else [(n, .copy id)], copies := [(n, id)] }
        if k.st = .publishing ∨ k.st = .published then .ok (keep x.s x.w)
        else
          let k' := { k with st := .finishing, err := if k.err = 0 then errCancelled else k.err, group := 0,
                             bytes := if k.st = .issued then 0 else k.bytes }
          let w := { x.w.closeGroup k.cluster k.group with copies := x.w.copies.map (fun (y : Copy) => if y.id = id then k' else y) }
          .ok (keep (if k.group = 0 then x.s else x.s.dropGroup k.cluster k.group) w)
      | none =>
        let g := statusGroup v
        if g = 0 ∨ x.w.pend.any (fun (p : Pend) => decide (p.reg = n)) then .ok (x.fall x.s x.w UOut.nop)
        else
          let cl := x.w.clusterOfGroup g
          let e := if statusErr v = 0 then errCancelled else statusErr v
          .ok (x.closeStatus (x.s.dropGroup cl g) (x.w.closeGroup cl g) n id (copyStatus e 0 (bitsOf v.toNat 0 40))))

end Sys2Proof.Machine
end

