-- ==== Sys2Proof/Machine/Reduce.lean ====
section
/-!
DEFINITION. The reductions of RED, SCAN and the barriers (R114, R115): operations, identities, the pairwise tree and the running values.
-/
namespace Sys2Proof.Machine

open Sys2Proof

/-- OP of R114, with the flags it raises. -/
def redOp (op : Lop) (ty : LTy) (a b : Word32) : Word32 × Flags :=
  match op with
  | .add =>
    match ty with
    | .f32 => let r := Fmt.fp32.add .rne (Fmt.fp32.read a.toNat) (Fmt.fp32.read b.toNat)
              (BitVec.ofNat 32 r.1, r.2)
    | _ => (a + b, flagNone)
  | .min =>
    match ty with
    | .f32 => let r := Fmt.fp32.minMax false false a.toNat b.toNat
              (BitVec.ofNat 32 r.1, r.2)
    | .i32 => (aluMin false a b, flagNone)
    | .n32 => (aluMin true a b, flagNone)
  | .max =>
    match ty with
    | .f32 => let r := Fmt.fp32.minMax true false a.toNat b.toNat
              (BitVec.ofNat 32 r.1, r.2)
    | .i32 => (aluMax false a b, flagNone)
    | .n32 => (aluMax true a b, flagNone)
  | .and => (a &&& b, flagNone)
  | .or => (a ||| b, flagNone)
  | .xor => (a ^^^ b, flagNone)

/-- The identity of OP. -/
def redId (op : Lop) (ty : LTy) : Word32 :=
  match op, ty with
  | .add, _ => 0#32
  | .min, .f32 => 0x7F800000#32
  | .min, .i32 => 0x7FFFFFFF#32
  | .min, .n32 => 0xFFFFFFFF#32
  | .max, .f32 => 0xFF800000#32
  | .max, .i32 => 0x80000000#32
  | .max, .n32 => 0#32
  | .and, _ => 0xFFFFFFFF#32
  | .or, _ => 0#32
  | .xor, _ => 0#32

/-- One node over two: absent, passed up alone as it is (DEDUCED, log 68), or combined. -/
def redNode (op : Lop) (ty : LTy) (a b : Option Word32) : Option Word32 × Flags :=
  match a, b with
  | none, b => (b, flagNone)
  | a, none => (a, flagNone)
  | some x, some y => ((redOp op ty x y).1, (redOp op ty x y).2)

/-- One level of the tree. A last node without a neighbour passes up, as beside an absent one. -/
def redLevel (op : Lop) (ty : LTy) : List (Option Word32) → List (Option Word32) × Flags
  | [] => ([], flagNone)
  | [a] => ([a], flagNone)
  | a :: b :: t =>
    let n := redNode op ty a b
    let r := redLevel op ty t
    (n.1 :: r.1, n.2 ||| r.2)

/-- The levels of the tree, from the leaves up; the last argument counts the levels left. -/
def redLevels (op : Lop) (ty : LTy) (ns : List (Option Word32)) (fl : Flags) : Nat → List (Option Word32) × Flags
  | 0 => (ns, fl)
  | fuel + 1 =>
    let r := redLevel op ty ns
    redLevels op ty r.1 (fl ||| r.2) fuel

/-- The result of the tree over up to 2^16 leaves, with the union of the flags of its nodes; none where no leaf is present. -/
def redTree (op : Lop) (ty : LTy) (leaves : List (Option Word32)) : Option Word32 × Flags :=
  let r := redLevels op ty leaves flagNone 16
  (r.1.headD none, r.2)

/-- The result, or the identity. -/
def redValue (op : Lop) (ty : LTy) (leaves : List (Option Word32)) : Word32 := (redTree op ty leaves).1.getD (redId op ty)

/-- The running values of SCAN in lane order, each with the flags of the steps that formed it (R115, R185). -/
def scanRun (op : Lop) (ty : LTy) : Option (Word32 × Flags) → List (Nat × Word32) → List (Nat × Word32 × Flags)
  | _, [] => []
  | none, (l, v) :: t => (l, v, flagNone) :: scanRun op ty (some (v, flagNone)) t
  | some (x, fl), (l, v) :: t =>
    let r := redOp op ty x v
    (l, r.1, fl ||| r.2) :: scanRun op ty (some (r.1, fl ||| r.2)) t

/-- The exclusive form: each lane has the running value before it, the first one the identity. -/
def scanExcl (op : Lop) (ty : LTy) (vs : List (Nat × Word32)) : List (Nat × Word32 × Flags) :=
  (vs.map (·.1)).zip ((redId op ty, flagNone) :: (scanRun op ty none vs).map (·.2))

end Sys2Proof.Machine
end

