-- ==== Sys2Proof/Machine/Lane.lean ====
section
/-!
DEFINITION. Class 0x5, compare and select (R135 to R139), and class 0x6, lane instructions (R182 to R187).
-/
namespace Sys2Proof.Machine

open Sys2Proof

/-! ### Compare and select -/

/-- ICMP, R135. -/
def execIcmp (c : Ctl) (u : Bool) (ty : ITy) (cond : Cond) (pd : BitVec 3) (a b : Src) (s : State) : Out3 :=
  let i := Instr.icmp c u ty cond pd a b
  if u then s.runR i .nop (fun x =>
    let r := if ty.w64 then aluCmp ty.uns cond (x.val ty.uns a) (x.val ty.uns b) else aluCmp ty.uns cond (x.val32 a) (x.val32 b)
    .ok (x.fall x.s x.w { UOut.nop with preds := uPred pd r }))
  else s.runF i (fun x =>
    let r := fun (l : Nat) => if ty.w64 then aluCmp ty.uns cond (x.raw64 ty.uns a l) (x.raw64 ty.uns b l)
      else aluCmp ty.uns cond (x.raw a 0 l) (x.raw b 0 l)
    .ok (x.finish i { Out.none with preds := x.predOut r }))

/-- FCMP, R136. -/
def execFcmp (c : Ctl) (un : Bool) (cond : Cond) (pd : BitVec 3) (a b : Src) (s : State) : Out3 :=
  s.runF (.fcmp c un cond pd a b) (fun x => do
    let p ← x.f32 a 1
    let q ← x.f32 b 1
    let r := fun (l : Nat) => fcmp cond un (p.fv 0 l) (q.fv 0 l)
    pure (x.finish (.fcmp c un cond pd a b) { Out.none with
      preds := x.predOut (fun l => (r l).1), flags := x.flagOut (fun l => (r l).2 ||| p.fl 0 l ||| q.fl 0 l) }))

/-- The tag of register `j` of a SEL source in a rod; none where the source takes the other's (R137). -/
def FCtx.selTag (x : FCtx) (a : Src) (j k : Nat) : Option Tag :=
  match a with
  | .imm _ | .sreg _ _ _ => none
  | .reg _ (some _) _ _ => some .f32
  | _ => some (x.tagOf a j k)

/-- The common tag of two SEL sources; none where SEL faults FMTTAG. -/
def commonTag (t u : Option Tag) : Option Tag :=
  match t, u with
  | some t, some u => if t = u ∧ t ≠ .f4b then some t else none
  | some t, none => if t = .f4b then none else some t
  | none, some u => if u = .f4b then none else some u
  | none, none => some .int

/-- A SEL source of `n` planes as bits and map flags. -/
def FCtx.selSrc (x : FCtx) (a : Src) (n : Nat) : Except Code Opnd :=
  match a with
  | .reg r (some k) neg abs => x.mapped r.toNat k.toNat n neg abs
  | _ => .ok ⟨.fp32, fun p l => (x.raw a p l).toNat, fun _ _ => flagNone⟩

/-- SEL, R137. A mapped source's own fault comes before FMTTAG, whichever source has the other tag (DESIGN CHOICE, log 80). -/
def execSel (c : Ctl) (u : Bool) (selp : BitVec 3) (seln : Bool) (pl : Planes) (dst : BitVec 7) (a b : Src) (s : State) : Out3 :=
  let i := Instr.sel c u selp seln pl dst a b
  if u then s.runR i .nop (fun x =>
    .ok (x.fall x.s x.w (x.to dst (if x.w.qpred selp.toNat ^^ seln then x.val false a else x.val false b))))
  else s.runF i (fun x => do
    let p ← x.selSrc a pl.count
    let q ← x.selSrc b pl.count
    let tag := fun (j k : Nat) => commonTag (x.selTag a j k) (x.selTag b j k)
    if (List.range pl.count).all (fun j => (rodsOf x.act).all (fun k => (tag j k).isSome)) then
      pure (x.finish i { Out.none with
        regs := (List.range pl.count).map (fun j =>
          ⟨(lanesOf x.act).map (fun l => (l, BitVec.ofNat 32 (if x.fr.pred l selp.toNat ^^ seln then p.val j l else q.val j l))),
           (rodsOf x.act).map (fun k => (k, (tag j k).getD .int)), [], fun k => (tag j k).getD .int⟩),
        flags := x.flagOut (fun l => flagUnion ((List.range pl.count).map (fun j => p.fl j l ||| q.fl j l))) })
    else .error .fmttag)

/-- PSET, R138. -/
def execPset (c : Ctl) (u : Bool) (pop : Pop) (pd x : BitVec 3) (nx : Bool) (y : BitVec 3) (ny : Bool) (s : State) : Out3 :=
  let i := Instr.pset c u pop pd x nx y ny
  if u then s.runR i .nop (fun r =>
    .ok (r.fall r.s r.w { UOut.nop with
      preds := uPred pd (aluPset pop (predOf (r.w.qpred x.toNat) nx) (predOf (r.w.qpred y.toNat) ny)) }))
  else s.runF i (fun f =>
    .ok (f.finish i { Out.none with
      preds := f.predOut (fun l => aluPset pop (predOf (f.fr.pred l x.toNat) nx) (predOf (f.fr.pred l y.toNat) ny)) }))

/-- The predicates p0 to p6 of a lane as PMOV reads them. -/
def Frame.predMask (fr : Frame) (l : Nat) : Word32 :=
  BitVec.ofNat 32 ((((List.range 8).filter (fun p => fr.pred l p)).map (fun p => 2 ^ p)).foldl (· + ·) 0)

/-- PMOV, R139. -/
def execPmov (c : Ctl) (dir : Bool) (dst : BitVec 7) (a : Option Src) (s : State) : Out3 :=
  s.runF (.pmov c dir dst a) (fun x =>
    match a with
    | none => .ok (x.finish (.pmov c dir dst a) { Out.none with regs := [x.dreg .int x.fr.predMask] })
    | some src =>
      let ws := (lanesOf x.act).flatMap (fun l => (List.range 7).map (fun p => (pKey l p, (x.raw src 0 l).getLsbD p)))
      .ok ({ x with fr := x.fr.setPreds ws }.finish (.pmov c dir dst a) Out.none))

/-! ### Lane instructions -/

/-- The tags of a SHFL or BCAST result by rod (R183): a register must have one tag in every rod with an active lane. -/
def FCtx.shflTags (x : FCtx) (a : Src) : Except Code (List (Nat × Tag)) :=
  let ts := (rodsOf x.act).map (fun k => (k, x.tagOf a 0 k))
  match a, ts with
  | .reg _ _ _ _, t :: rest => if rest.all (fun u => decide (u.2 = t.2)) then .ok ts else .error .fmttag
  | _, _ => .ok ts

/-- Each active lane takes A of its source lane, where that lane is valid and active, else its own, with its side byte (R183; R77 names no
SHFL: DEDUCED, log 60). -/
def FCtx.shuffle (x : FCtx) (i : Instr) (a : Src) (from? : Nat → Option Nat) : Except Code State := do
  let ts ← x.shflTags a
  let src := fun (l : Nat) => match from? l with
    | some k => if x.act.getLsbD k then k else l
    | none => l
  pure (x.finish i { Out.none with
    regs := [⟨(lanesOf x.act).map (fun l => (l, x.raw a 0 (src l))), ts, (lanesOf x.act).map (fun l => (l, x.sideOf a 0 (src l))),
      fun k => match rodsOf x.act with | m :: _ => if k ∈ rodsOf x.act then x.tagOf a 0 k else x.tagOf a 0 m | [] => x.tagOf a 0 k⟩] })

/-- SHFL, R183. -/
def execShfl (c : Ctl) (mode : ShflMode) (dst : BitVec 7) (a b : Src) (s : State) : Out3 :=
  s.runF (.shfl c mode dst a b) (fun x => x.shuffle (.shfl c mode dst a b) a (fun l => shflLane mode l (x.raw b 0 l).toNat))

/-- BCAST, R183. -/
def execBcast (c : Ctl) (dst : BitVec 7) (a b : Src) (s : State) : Out3 :=
  s.runF (.bcast c dst a b) (fun x =>
    x.shuffle (.bcast c dst a b) a (fun _ => some ((lowestOf x.act (x.raw b 0)).toNat % 32)))

/-- VOTE, R184. -/
def execVote (c : Ctl) (mode : VoteMode) (dst : BitVec 7) (pd x : BitVec 3) (nx : Bool) (s : State) : Out3 :=
  s.runF (.vote c mode dst pd x nx) (fun f =>
    let m := maskOf ((lanesOf f.act).filter (fun l => predOf (f.fr.pred l x.toNat) nx))
    let r := match mode with
      | .any | .ballot => decide (m ≠ 0)
      | .all => decide (m = f.act)
      | .eq => decide (m = 0) || decide (m = f.act)
    .ok (f.finish (.vote c mode dst pd x nx) { Out.none with regs := [f.dreg .int (fun _ => m)], preds := f.predOut (fun _ => r) }))

/-- A as RED and SCAN read it: FP32 under `.f32`, any tag otherwise (R185). -/
def FCtx.laneVals (x : FCtx) (a : Src) (lty : LTy) : Except Code (Nat → Word32) :=
  if lty = .f32 then (x.f32 a 1).map (fun o => fun l => BitVec.ofNat 32 (o.val 0 l)) else .ok (x.raw a 0)

def ltyTag (lty : LTy) : Tag := if lty = .f32 then .f32 else .int

/-- RED, R185, R114: leaf j is lane j. -/
def execRed (c : Ctl) (lop : Lop) (lty : LTy) (dst : BitVec 7) (a : Src) (s : State) : Out3 :=
  s.runF (.red c lop lty dst a) (fun x => do
    let v ← x.laneVals a lty
    let leaves := (List.range 32).map (fun l => if x.act.getLsbD l then some (v l) else none)
    pure (x.finish (.red c lop lty dst a) { Out.none with
      regs := [x.dreg (ltyTag lty) (fun _ => redValue lop lty leaves)], flags := x.flagOut (fun _ => (redTree lop lty leaves).2) }))

/-- SCAN, R185, R115. -/
def execScan (c : Ctl) (lop : Lop) (lty : LTy) (excl : Bool) (dst : BitVec 7) (a : Src) (s : State) : Out3 :=
  s.runF (.scan c lop lty excl dst a) (fun x => do
    let v ← x.laneVals a lty
    let vs := (lanesOf x.act).map (fun l => (l, v l))
    let rs := if excl then scanExcl lop lty vs else scanRun lop lty none vs
    pure (x.finish (.scan c lop lty excl dst a) { Out.none with
      regs := [⟨rs.map (fun r => (r.1, r.2.1)), (rodsOf x.act).map (fun k => (k, ltyTag lty)), [], fun _ => ltyTag lty⟩],
      flags := rs.map (fun r => (r.1, r.2.2)) }))

/-- MATCH, R186. -/
def execMatchv (c : Ctl) (dst : BitVec 7) (a : Src) (s : State) : Out3 :=
  s.runF (.matchv c dst a) (fun x =>
    .ok (x.finish (.matchv c dst a) { Out.none with
      regs := [x.dreg .int (fun l => maskOf ((lanesOf x.act).filter (fun k => decide (x.raw a 0 k = x.raw a 0 l))))] }))

/-- RNG, R187. -/
def execRng (c : Ctl) (dst : BitVec 7) (a b d : Src) (s : State) : Out3 :=
  s.runF (.rng c dst a b d) (fun x =>
    .ok (x.finish (.rng c dst a b d) { Out.none with
      regs := [x.dreg .int (fun l => aluRng (x.raw a 0 l) (x.raw b 0 l) (x.raw d 0 l))] }))

end Sys2Proof.Machine
end

