-- ==== Sys2Proof/Machine/Sync.lean ====
section
/-!
DEFINITION. Class 0xD, synchronisation: the barriers (R207 to R217), the fences (R352 to R356) and the instructions of phases and
transactions (R339 to R343), as the parties execute them.
-/
namespace Sys2Proof.Machine

open Sys2Proof

/-! ### Barriers (R207, R208) -/

def isCoreBar : BarRef → Bool
  | .core _ => true
  | _ => false

/-- A frame has ended when it has no live lane, the reckoner when it has stopped (R208). -/
def Wg.partyEnded (w : Wg) (p : Nat) : Bool :=
  if p = reckParty then decide (w.rst = .stopped)
  else match w.frame? p with
    | some fr => decide (fr.live = 0)
    | none => true

def parties : List Nat := List.range 17

/-- Members that have ended without arriving (R208). -/
def Wg.endedMembers (w : Wg) (b : Bar) : Nat :=
  (parties.filter (fun p => b.members.getLsbD p && !b.arrived.getLsbD p && w.partyEnded p)).length

def Bar.arrivals (b : Bar) : Nat := (parties.filter (fun p => b.arrived.getLsbD p)).length

/-- Whether the generation of a core barrier releases (R208). -/
def Wg.coreReleases (w : Wg) (b : Bar) : Bool :=
  decide (b.count - w.endedMembers b ≤ b.arrivals) && b.copies.all (fun p => p.2) &&
  (decide (0 < b.arrivals) || !b.waiters.isEmpty)

/-- The tree over a workgroup's own leaves: 32 * f + l for lane l of frame f, 512 for the reckoner (R212). -/
def coreTree (op : Lop) (ty : LTy) (ls : List (Nat × Word32)) : Option Word32 × Flags :=
  redTree op ty ((List.range 513).map (fun k => (ls.find? (fun p => decide (p.1 = k))).map (fun p => p.2)))

/-- The gang of a workgroup. -/
def Grid.gang? (g : Grid) (idx : Nat) : Option Gang := g.gangs.find? (fun k => decide (k.idx = idx))
def Grid.updGang (g : Grid) (idx : Nat) (f : Gang → Gang) : Grid :=
  { g with gangs := g.gangs.map (fun k => if k.idx = idx then f k else k) }

/-- The barrier above the workgroups. -/
def State.gbar (s : State) (w : Wg) (b : BarRef) : GBar :=
  match s.grid? w.grid with
  | none => GBar.start
  | some g =>
    match b with
    | .core _ => GBar.start
    | .cluster n => match g.gang? w.gang with | some k => k.cbars.getD n.toNat GBar.start | none => GBar.start
    | .grid n => g.gbars.getD n.toNat GBar.start

def State.setGbar (s : State) (w : Wg) (b : BarRef) (x : GBar) : State :=
  s.updGrid w.grid (fun g => match b with
    | .core _ => g
    | .cluster n => g.updGang w.gang (fun k => { k with cbars := k.cbars.set n.toNat x })
    | .grid n => { g with gbars := g.gbars.set n.toNat x })

/-! ### Arriving (R209 to R211) -/

/-- What an arrival comes to. -/
inductive Arrive where
  | fault (c : Code)
  /-- The party has arrived in this generation already, and waits for its release (R210). -/
  | again
  | ok (s : State) (w : Wg)

/-- The workgroup's own arrival at a cluster or grid barrier, with the leaf of its own tree (R209, R212, R217). -/
def State.arriveWg (s : State) (w : Wg) (br : BarRef) : Arrive :=
  let b := w.bar br
  let g := s.gbar w br
  if (match g.red, b.red with | some x, some y => decide (x ≠ y) | _, _ => false) then .fault .barmember
  else
    let leaf := match b.red with
      | some (op, ty) => coreTree op ty b.leaves
      | none => (none, flagNone)
    let g := { g with arrived := g.arrived ++ [w.idx],
                      red := if b.red.isSome then b.red else g.red,
                      leaves := (match leaf.1 with | some v => g.leaves ++ [(if (match br with | .cluster _ => true | _ => false) then w.pos else w.idx, v)] | none => g.leaves),
                      flags := g.flags ||| leaf.2 }
    .ok (s.setGbar w br g) (w.setBar br { b with made := true })

/-- A party arrives: `leaves` are its leaves, where the instruction reduces (R211). One that arrives after the count is reached and before BARRIER_RELEASE joins
that generation (DESIGN CHOICE, log 89). -/
def State.arrive (s : State) (w : Wg) (party : Nat) (br : BarRef) (red : Option (Lop × LTy)) (leaves : List (Nat × Word32))
    (lanes : Word32) : Arrive :=
  let b := w.bar br
  let coop := match s.grid? w.grid with | some g => g.coop | none => false
  let isGrid := match br with | .grid _ => true | _ => false
  if isGrid && !coop then .fault .barmember
  else if isCoreBar br && !b.members.getLsbD party then .fault .barmember
  else if !(isCoreBar br) && (if party = reckParty then (parties.any (fun p => decide (p ≠ reckParty) && b.arrived.getLsbD p)) else b.arrived.getLsbD reckParty)
    then .fault .barmember
  else if b.arrived.getLsbD party || b.made then .again
  else if (match red, b.red with | some x, some y => decide (x ≠ y) | _, _ => false) then .fault .barmember
  else
    let b := { b with arrived := b.arrived ||| BitVec.ofNat 17 (2 ^ party),
                      red := if red.isSome then red else b.red,
                      leaves := b.leaves ++ leaves,
                      leafLanes := if lanes = 0 then b.leafLanes else b.leafLanes ++ [(party, lanes)] }
    let w := w.setBar br b
    if isCoreBar br then .ok s w
    else if party = reckParty ∨ parties.all (fun p => decide (p = reckParty) || b.arrived.getLsbD p || w.partyEnded p) then s.arriveWg w br
    else .ok s w

/-- A failed fill is reported at the workgroup's next barrier arrival (R229). -/
def State.mapstoreStop (s : State) (w : Wg) : State := s.finalFault w ⟨.mapstore, reckParty, 0, 0⟩

/-! ### Reaches -/

def ordRefreshes : Order → Bool
  | .acq | .ar | .sc => true
  | .rel => false

/-- The reach of a fence's commit (R353). -/
def fenceReach (sc : Scope) (o : Order) : Reach :=
  match sc with
  | .system => .system
  | .package => .package
  | _ => if o = .sc then .package else .die

/-- The state with the issuing frame as its issue leaves it. -/
def FCtx.base (x : FCtx) : State := x.s.setCore x.core (x.w.setFrame x.f x.fr)

/-- What a commit is waited for: its stamp and its reach; where a refresh of package reach follows a commit that discarded its transaction, the last
stamp taken and the frontier of the party's own die (R354, R356). -/
def Committed.waits (k : Committed) (r : Reach) (acq : Bool) (last : Nat) : Nat × Reach :=
  if acq && k.stamp = 0 && r ≠ .die then (last, .here) else (k.stamp, r)

/-- A frame's split commits the phase and waits for the commit's completion (R334, R336); `acq` says that its FENCE then refreshes (R354). -/
def FCtx.commit (x : FCtx) (r : Reach) (acq : Bool) : State :=
  let k := x.base.commitFor x.w.grid x.w.idx true
  let t := k.waits r acq x.s.last
  let (id, s) := k.s.addCommit t.1 (dieOf x.core) t.2 (.party ⟨x.w.grid, x.w.idx, x.f, x.sp.id⟩ acq) k.peers
  s.setSplitSt x.core x.f x.sp.id (.commit id)

/-- A frame's split waits for the frontier of the die it stands on to reach the last stamp taken, and then refreshes (R356). -/
def FCtx.awaitLast (x : FCtx) : State :=
  let (id, s) := x.base.addCommit x.s.last (dieOf x.core) .front (.party ⟨x.w.grid, x.w.idx, x.f, x.sp.id⟩ true) []
  s.setSplitSt x.core x.f x.sp.id (.commit id)

/-! ### The frame forms -/

/-- The reduction of an instruction. -/
def redOf (bop : Option Lop) (lty : LTy) : Option (Lop × LTy) := bop.map (fun op => (op, lty))

/-- The leaves of a frame: its active lanes' values (R211). -/
def FCtx.leaves (x : FCtx) (bop : Option Lop) (lty : LTy) (a : Option Src) : Except Code (List (Nat × Word32)) :=
  match bop with
  | none => .ok []
  | some _ => (x.laneVals (a.getD noSrc) lty).map (fun v => (lanesOf x.act).map (fun l => (32 * x.f + l, v l)))

/-- The reach of a barrier's `.rel` (R336). -/
def barReach (b : BarRef) : Reach := match b with | .grid _ => .package | _ => .die

/-- A barrier's s-register, named once however many parties name it: one release is one write (R200, R213). -/
def Bar.name (b : Bar) (sd : Bool) (sn : BitVec 6) : List Nat := if sd && !b.sregs.contains sn.toNat then b.sregs ++ [sn.toNat] else b.sregs

/-- The frame waits for the release of the barrier's generation (R211). -/
def FCtx.await (x : FCtx) (s : State) (w : Wg) (br : BarRef) (vec : Option Nat) (acq sd : Bool) (sn : BitVec 6) : State :=
  let b := w.bar br
  let b := { b with waiters := b.waiters ++ [⟨x.f, x.sp.id, b.gen, x.act, vec, acq⟩], sregs := b.name sd sn }
  s.setCore x.core ((w.setBar br b).setFrame x.f (x.fr.setSplit { x.sp with st := .barrier br b.gen }))

/-- A frame-form BAR or BARA after its `.rel`: it arrives, and waits where `wait` says so. A second arrival waits for the release first (R210); FMTTAG of a
`.f32` operand is then raised before BARMEMBER (R141, R211; DESIGN CHOICE, log 88). -/
def FCtx.barArrive (x : FCtx) (wait : Bool) (bop : Option Lop) (lty : LTy) (acq vec : Bool) (dst : BitVec 7) (a : Option Src)
    (br : BarRef) (sd : Bool) (sn : BitVec 6) : Except Code State :=
  if (x.w.bar br).arrived.getLsbD x.f then .ok x.s else do
  let ls ← x.leaves bop lty a
  match x.s.arrive x.w x.f br (redOf bop lty) ls (if bop.isSome then x.act else 0#32) with
  | .fault c => .error c
  | .again => .ok x.s
  | .ok s w =>
    if x.w.mapstore then .ok (x.s.mapstoreStop x.w)
    else if wait then .ok (x.await s w br (if vec && !x.c.wbs then some dst.toNat else none) acq sd sn)
    else .ok (x.retire s w x.fr ⟨[], []⟩ x.fall)

/-- A frame-form BAR, BARA or BARW: after its release, the refresh of `.acq`, when `issueF` finds that it may be made (R256); before its arrival,
the commit of `.rel` (R211). -/
def FCtx.bar (x : FCtx) (rel : Bool) (br : BarRef) (k : Except Code State) : Except Code State :=
  if x.sp.st = .acquire then
    .ok (x.retire (x.s.refresh x.w.grid x.w.idx) (((x.s.refresh x.w.grid x.w.idx).onCore x.core).getD x.w) x.fr ⟨[], []⟩ x.fall)
  else if rel && !x.sp.isResumed then .ok (x.commit (barReach br) false)
  else k

/-- BAR, R211: `issueF` has gathered the frame (R209). -/
def execBar (c : Ctl) (bop : Option Lop) (lty : LTy) (rel acq vec : Bool) (dst : BitVec 7) (a : Option Src) (br : BarRef) (sd : Bool)
    (sn : BitVec 6) (s : State) : Out3 :=
  s.runF (.bar c bop lty rel acq vec dst a br sd sn) (fun x => x.bar rel br (x.barArrive true bop lty acq vec dst a br sd sn))

/-- BARA, R211. -/
def execBara (c : Ctl) (bop : Option Lop) (lty : LTy) (rel : Bool) (a : Option Src) (br : BarRef) (sn : BitVec 6) (s : State) : Out3 :=
  s.runF (.bara c bop lty rel a br sn) (fun x => x.bar rel br (x.barArrive false bop lty false false 0#7 a br false sn))

/-- Whether a barrier may be waited for: a grid barrier only in a COOP grid (R217). -/
def State.barAdmits (s : State) (w : Wg) (br : BarRef) : Bool :=
  match br with
  | .grid _ => (match s.grid? w.grid with | some g => g.coop | none => false)
  | _ => true

/-- BARW, R211. -/
def execBarw (c : Ctl) (acq vec : Bool) (dst : BitVec 7) (br : BarRef) (sd : Bool) (sn : BitVec 6) (s : State) : Out3 :=
  s.runF (.barw c acq vec dst br sd sn) (fun x => x.bar false br
    (if x.s.barAdmits x.w br then .ok (x.await x.s x.w br (if vec && !x.c.wbs then some dst.toNat else none) acq sd sn)
     else .error .barmember))

/-- BARSET, R216. -/
def execBarset (c : Ctl) (mask : BitVec 17) (count : BitVec 5) (n : BitVec 4) (s : State) : Out3 :=
  s.runF (.barset c mask count n) (fun x =>
    if x.act = 0 then .ok (x.retire x.s x.w x.fr ⟨[], []⟩ x.fall)
    else
      let b := x.w.bar (.core n)
      if b.arrived ≠ 0 ∨ !b.waiters.isEmpty ∨ !b.copies.isEmpty then .error .barbusy
      else .ok (x.retire x.s (x.w.setBar (.core n) { b with members := mask, count := count.toNat, red := none }) x.fr ⟨[], []⟩ x.fall))

/-- FENCE, R353, R354, R356: `issueF` has waited for what it drains. A refresh after a wait is made where the wait ends, at COMMIT_COMPLETE. -/
def execFence (c : Ctl) (sc : Scope) (ord : Order) (s : State) : Out3 :=
  s.runF (.fence c sc ord) (fun x =>
    let done := fun (s : State) => x.retire s ((s.onCore x.core).getD x.w) x.fr ⟨[], []⟩ x.fall
    if x.act = 0 then .ok (done x.s)
    else if x.sp.isResumed then .ok (done x.s)
    else if scopeRank sc < 2 then .ok (done x.s)
    else if ordCommits ord then .ok (x.commit (fenceReach sc ord) (ordRefreshes ord))
    else if 4 ≤ scopeRank sc then .ok x.awaitLast
    else .ok (done (x.s.refresh x.w.grid x.w.idx)))

/-! ### The U forms: each places its entry, and takes effect once the frames have taken it (R337) -/

/-- Leaves an action for the place of this instruction; the reckoner itself goes on, and does not wait for the completion of a PHASE, TXBEGIN or TXEND (R336, R337,
R341, R355; DEDUCED, log 96). -/
def RCtx.act (x : RCtx) (k : ActKind) (late : Option (BitVec 7)) : State :=
  let (id, s) := x.s.newId
  let w : Wg := { x.w with acts := x.w.acts ++ [⟨id, x.w.place, k, x.w.rpc, false, 0#64⟩] }
  x.fall s (w.endsStep id) { UOut.nop with late := match late with
    | some n => if x.c.wbs then [] else [(n.toNat, .act id)]
    | none => [] }

/-- FENCE.u, R355. -/
def execFenceU (c : Ctl) (sc : Scope) (ord : Order) (s : State) : Out3 :=
  s.runR (.fenceU c sc ord) .nop (fun x => .ok (x.act (.fence sc ord) none))

/-- PHASE, R340. -/
def execPhase (c : Ctl) (s : State) : Out3 := s.runR (.phase c) .nop (fun x => .ok (x.act .phase none))

/-- TXBEGIN, R341. -/
def execTxbegin (c : Ctl) (s : State) : Out3 := s.runR (.txbegin c) .nop (fun x => .ok (x.act .txbegin none))

/-- TXEND, R341 to R343. -/
def execTxend (c : Ctl) (dst : BitVec 7) (s : State) : Out3 :=
  s.runR (.txend c dst) .nop (fun x => .ok (x.act (.txend dst.toNat x.c.wbs) (some dst)))

/-- TXABORT, R341. -/
def execTxabort (c : Ctl) (s : State) : Out3 := s.runR (.txabort c) .nop (fun x => .ok (x.act .txabort none))

/-- The reckoner waits for the release; with `.acq` its refresh is an action of this place, which `.rel` has
left already. -/
def RCtx.await (x : RCtx) (s : State) (w : Wg) (placed : Bool) (br : BarRef) (acq sd : Bool) (sn : BitVec 6) : State :=
  let b := w.bar br
  let b := { b with waiters := b.waiters ++ [⟨reckParty, 0, b.gen, 0#32, none, acq⟩], sregs := b.name sd sn }
  let (id, s) := s.newId
  let w := w.setBar br b
  let w := if acq && !placed then { w with acts := w.acts ++ [⟨id, w.place, .barAcq, w.rpc, false, 0#64⟩] } else w
  x.park s w (if placed then none else some { UOut.nop with late := if sd then [(sn.toNat, .bar br w.rpc)] else [] }) (.barrier br b.gen)

/-- BAR.u and BARA.u after their `.rel`; `placed` says that the entry stands already. -/
def RCtx.barArrive (x : RCtx) (placed wait : Bool) (bop : Option Lop) (lty : LTy) (acq : Bool) (a : Option Src) (br : BarRef) (sd : Bool)
    (sn : BitVec 6) : Except Code State :=
  let ls := if bop.isSome then [(512, x.val32 (a.getD noSrc))] else []
  match x.s.arrive x.w reckParty br (redOf bop lty) ls 0#32 with
  | .fault c => .error c
  | .again => .ok x.s
  | .ok s w =>
    if x.w.mapstore then .ok (x.s.mapstoreStop x.w)
    else if wait then .ok (x.await s w placed br acq sd sn)
    else if placed then .ok (x.release s w)
    else .ok (x.fall s w UOut.nop)

def ReckSt.isResumed : ReckSt → Bool
  | .resumed _ => true
  | _ => false

/-- BAR.u and BARA.u: the commit of `.rel` is an action of this place, and the reckoner waits for it; the refresh of `.acq` follows it
(R211, R337). -/
def RCtx.bar (x : RCtx) (rel acq : Bool) (br : BarRef) (sd : Bool) (sn : BitVec 6) (k : Bool → Except Code State) : Except Code State :=
  if x.w.rst.isResumed then k true
  else if rel then
    let (id, s) := x.s.newId
    let (aid, s) := s.newId
    .ok (x.hold s { x.w with acts := x.w.acts ++ ⟨id, x.w.place, .barRel (barReach br), x.w.rpc, false, 0#64⟩ ::
        (if acq then [⟨aid, x.w.place, .barAcq, x.w.rpc, false, 0#64⟩] else []) }
      { UOut.nop with late := if sd then [(sn.toNat, .bar br x.w.rpc)] else [] } (.commit id))
  else k false

/-- BAR.u, R211. -/
def execBarU (c : Ctl) (bop : Option Lop) (lty : LTy) (rel acq : Bool) (a : Option Src) (br : BarRef) (sd : Bool) (sn : BitVec 6)
    (s : State) : Out3 :=
  s.runR (.barU c bop lty rel acq a br sd sn) .nop (fun x => x.bar rel acq br sd sn (fun p => x.barArrive p true bop lty acq a br sd sn))

/-- BARA.u, R211. -/
def execBaraU (c : Ctl) (bop : Option Lop) (lty : LTy) (rel : Bool) (a : Option Src) (br : BarRef) (sn : BitVec 6) (s : State) : Out3 :=
  s.runR (.baraU c bop lty rel a br sn) .nop (fun x => x.bar rel false br false sn (fun p => x.barArrive p false bop lty false a br false sn))

/-- BARW.u, R211. -/
def execBarwU (c : Ctl) (acq : Bool) (br : BarRef) (sd : Bool) (sn : BitVec 6) (s : State) : Out3 :=
  s.runR (.barwU c acq br sd sn) .nop (fun x =>
    if !x.s.barAdmits x.w br then .error .barmember
    else .ok (x.await x.s x.w false br acq sd sn))

/-! ### BARRIER_RELEASE (R208, R210, R213) -/

/-- The s-register result (R213). -/
def barWord (red : Option (Lop × LTy)) (v : Word32) : Word64 :=
  match red with
  | some (_, .i32) => v.signExtend 64
  | some _ => v.setWidth 64
  | none => 0#64

/-- The first pending write of a register by a barrier is satisfied (R200, R213). -/
def landBar (br : BarRef) (n : Nat) : List Pend → List Pend
  | [] => []
  | p :: ps =>
    if decide (p.reg = n) && (match p.src with | .bar b _ => decide (b = br) | _ => false) then ps else p :: landBar br n ps

/-- Whether a refresh of `.acq` may be made at a frame's place now: every copy before it has fixed its stamp, and every U action before it is over
(R256, R337; that the release does not wait for it is DEDUCED, log 69). -/
def Wg.mayRefresh (w : Wg) (fr : Frame) : Bool :=
  !w.copies.any (fun (c : Copy) => decide (c.pos < fr.taken ∧ c.st = .issued)) && !w.acts.any (fun (a : Act) => decide (a.pos < fr.taken))

/-- A waiting frame goes on after its BAR or BARW: VEC's result, BARRIER in %wake, and the instruction retires (R189, R213); one whose `.acq` refresh
may not be made yet waits for that. -/
def Wg.passFrame (w : Wg) (k : Waiter) (tag : Tag) (v : Word32) (now : Nat) : Wg :=
  match w.frame? k.frame with
  | none => w
  | some fr =>
    match fr.split? k.split with
    | none => w
    | some sp =>
      let c := match w.code.shapeAt sp.pc with | some p => p.ctl | none => ⟨true, 0#3, false, false, false, 7#3, false⟩
      let fr := match k.vec with
        | some d => fr.write { Writes.none with
            v := (lanesOf k.act).map (fun l => (vKey l d, v)), tags := (rodsOf k.act).map (fun r => (tKey r d, tag)) }
        | none => fr
      if k.acq && !w.mayRefresh fr then
        w.setFrame k.frame { fr.setSplit { sp with st := .acquire } with wake := fr.wake ||| wakeBarrier }
      else
        let fr := fr.after sp c ⟨[], []⟩ now (fun _ => sp.pc + 16#64)
        (w.setFrame k.frame { fr with wake := fr.wake ||| wakeBarrier }).count c

/-- The waiting reckoner goes on, at once or, with `.acq`, when its refresh is made (R337). -/
def Wg.passReck (w : Wg) (k : Waiter) : Wg :=
  let w := { w with rwake := w.rwake ||| wakeBarrier }
  if k.acq then { w with acts := w.acts.map (fun (a : Act) => if a.kind = .barAcq then { a with begun := true } else a) }
  else w.reckOn

/-- The parties whose second arrival waited for this release go on to make it, with BARRIER in their %wake (R189, R210). -/
def Wg.wakeAgain (w : Wg) (br : BarRef) : Wg :=
  { w with
    frames := w.frames.zipIdx.map (fun p =>
      if p.1.splits.any (fun q => decide (w.splitAgain p.2 p.1 q = some br)) then { p.1 with wake := p.1.wake ||| wakeBarrier } else p.1)
    rwake := if w.reckAgain = some br then w.rwake ||| wakeBarrier else w.rwake }

/-- The release as one workgroup sees it: the flags of the tree, the results, the waiters, and the next generation. -/
def Wg.passBar (w : Wg) (br : BarRef) (red : Option (Lop × LTy)) (v : Word32) (fl : Flags) (now : Nat) : Wg :=
  let b := w.bar br
  let w := w.wakeAgain br
  let w := w.setBar br { b with gen := b.gen + 1, arrived := 0, red := none, leaves := [], leafLanes := [], copies := [], waiters := [],
                                sregs := [], made := false }
  let w := b.leafLanes.foldl (fun w (p : Nat × Word32) => match w.frame? p.1 with
    | some fr => w.setFrame p.1 ((lanesOf p.2).foldl (fun fr l => fr.raiseFlags l fl) fr)
    | none => w) w
  let w := b.sregs.foldl (fun w n =>
    let w := w.regWake wakeBarrier n
    { w.setS n (barWord red v) with pend := landBar br n w.pend, lastCopy := Assoc.drop w.lastCopy n }) w
  let tag := match red with | some (_, .f32) => Tag.f32 | _ => .int
  b.waiters.foldl (fun w (k : Waiter) => if k.frame = reckParty then w.passReck k else w.passFrame k tag v now) w

/-- The release in one workgroup, with the refresh of its waiting frames that may make it (R211, R256). -/
def State.passWg (s : State) (w : Wg) (br : BarRef) (red : Option (Lop × LTy)) (v : Word32) (fl : Flags) : State :=
  let acq := (w.bar br).waiters.any (fun (k : Waiter) => k.acq && (match w.frame? k.frame with | some fr => w.mayRefresh fr | none => false))
  let s := s.setWg (w.passBar br red v fl s.tick)
  if acq then s.refresh w.grid w.idx else s

/-- The result of a reduction and its flags. -/
def barResult (red : Option (Lop × LTy)) (n : Nat) (ls : List (Nat × Word32)) : Word32 × Flags :=
  match red with
  | some (op, ty) =>
    let leaves := (List.range n).map (fun k => (ls.find? (fun p => decide (p.1 = k))).map (fun p => p.2))
    (redValue op ty leaves, (redTree op ty leaves).2)
  | none => (0#32, flagNone)

/-- Workgroups all of whose remaining frames stand arrived make their arrival when the frames that had not arrived have ended (R208, R209); one in which a
fill has failed stops there (R229). -/
def State.lateArrivals (s : State) (ws : List Wg) (br : BarRef) : State :=
  ws.foldl (fun s w =>
    let b := w.bar br
    if !b.made && decide (b.arrived ≠ 0) && parties.all (fun p => decide (p = reckParty) || b.arrived.getLsbD p || w.partyEnded p) then
      if w.mapstore then s.mapstoreStop w else
      match s.arriveWg w br with
      | .ok s w => s.setWg w
      | .fault c =>
        match (List.range 16).find? (fun p => b.arrived.getLsbD p) with
        | some p => s.finalFault w ⟨c, p, (match (w.frame? p).bind (fun fr => fr.splits.head?) with | some sp => sp.pc.toNat | none => 0), 0⟩
        | none => s
      | .again => s
    else s) s

/-- A cluster or grid barrier releases, in every workgroup of `ws`, when its arrivals reach the count of members that have not ended without
arriving (R208); `n` is the number of leaf positions. -/
def State.releaseAbove (s : State) (ws : List Wg) (br : BarRef) (n ended : Nat) : State :=
  match ws with
  | [] => s
  | w0 :: _ =>
    let g := s.gbar w0 br
    if decide (n - ended ≤ g.arrived.length) && (!g.arrived.isEmpty || ws.any (fun w => !(w.bar br).waiters.isEmpty)) then
      let r := barResult g.red n g.leaves
      let s := s.setGbar w0 br { GBar.start with gen := g.gen + 1 }
      ws.foldl (fun s w => s.passWg w br g.red r.1 (g.flags ||| r.2)) s
    else s

/-- BARRIER_RELEASE, R208, R210, R213. -/
def execBarrierRelease (b : BarId) (s : State) : Out3 :=
  .next (match b with
    | .core core n =>
      match s.onCore core with
      | none => s
      | some w =>
        let br := BarRef.core (BitVec.ofNat 4 n)
        let k := w.bar br
        if decide (n < 16) && w.coreReleases k then
          let r := barResult k.red 513 k.leaves
          s.passWg w br k.red r.1 r.2
        else s
    | .cluster g gang n =>
      match s.grid? g with
      | none => s
      | some gr =>
        let br := BarRef.cluster (BitVec.ofNat 3 n)
        let mine := fun (s : State) => s.wgs.filter (fun (w : Wg) => decide (w.grid = g ∧ w.gang = gang))
        let s1 := s.lateArrivals (mine s) br
        let x := match (mine s1).head? with | some w => s1.gbar w br | none => GBar.start
        let ended := ((List.range gr.lrec.gang).filter (fun p => gr.ended.contains (gr.lrec.gang * gang + p) && !x.arrived.contains (gr.lrec.gang * gang + p))).length
        if n < 8 then s1.releaseAbove (mine s1) br gr.lrec.gang ended else s
    | .grid g n =>
      match s.grid? g with
      | none => s
      | some gr =>
        let br := BarRef.grid (BitVec.ofNat 2 n)
        let mine := fun (s : State) => s.wgs.filter (fun (w : Wg) => decide (w.grid = g))
        let s1 := s.lateArrivals (mine s) br
        let x := match (mine s1).head? with | some w => s1.gbar w br | none => GBar.start
        let ended := (gr.ended.filter (fun i => !x.arrived.contains i)).length
        if decide (n < 4) && gr.coop then s1.releaseAbove (mine s1) br gr.count ended else s)

end Sys2Proof.Machine
end

