-- ==== Sys2Proof/Machine/Launch.lean ====
section
/-!
DEFINITION. The launch unit (R290 to R306): the launch record and its checks, code objects (R379), acceptance, the search for cores, the
placement of a gang, and the tile dispenser.
-/
namespace Sys2Proof.Machine

open Sys2Proof

/-! ### The launch record (R292) -/

/-- `n` bytes of a block from offset `o`, as a number. -/
def field (bs : List Byte) (o n : Nat) : Nat := bytesToNat ((bs.drop o).take n)

/-- A 192-byte launch record as it stands in memory. -/
def recordOf (bs : List Byte) : LaunchRec :=
  { code := field bs 0 8, args := field bs 8 8, carea := field bs 0x10 8, beads := field bs 0x18 8,
    x := field bs 0x20 4, y := field bs 0x24 4, z := field bs 0x28 4, g := field bs 0x2C 2, order := field bs 0x2E 1,
    gang := field bs 0x2F 1, gmin := field bs 0x30 2, gmax := field bs 0x32 2, flags := field bs 0x34 4, reserved := field bs 0x38 40,
    argw := (List.range 12).map (fun k => field bs (0x60 + 8 * k) 8) }

/-- ERR LAYOUT of R293; `coop` says whether COOP grids are accepted (R369). -/
def launchBad (coop : Bool) (r : LaunchRec) : Bool :=
  decide (r.x = 0 ∨ r.y = 0 ∨ r.z = 0 ∨ 2 ^ 48 < r.x * r.y * r.z) || decide (1 < r.order) || decide ((r.order = 0) ≠ (r.g = 0)) ||
  !([1, 2, 4].contains r.gang) || decide (r.gmin = 0 ∨ r.gmax < r.gmin ∨ 6144 / r.gang < r.gmax) ||
  decide (bitsOf r.flags 24 8 ≠ 0 ∨ bitsOf r.flags 11 5 ≠ 0 ∨ bitsOf r.flags 3 5 ≠ 0 ∨ 8 < recChild r) || decide (r.reserved ≠ 0) ||
  decide (r.carea % 128 ≠ 0 ∨ r.beads % 8 ≠ 0) || (r.flags.testBit 0 && !coop)

/-! ### Code objects (R70, R379) -/

/-- A section entry of a container. -/
structure Sect where
  kind : Nat
  off : Nat
  size : Nat
  deriving DecidableEq, Repr

def sectOf (e : List Byte) (i : Nat) : Sect := ⟨field e (16 * i) 4, field e (16 * i + 4) 4, field e (16 * i + 8) 8⟩

/-- Whether two ranges of bytes share one. -/
def rangesMeet (a n b m : Nat) : Bool := decide (0 < n ∧ 0 < m ∧ a < b + m ∧ b < a + n)

/-- Whether the entries keep the rules of R379, and SYMBOLS its size of whole 80-byte entries (R434). -/
def sectsOk (size : Nat) (ss : List Sect) : Bool :=
  ss.all (fun x => decide (1 ≤ x.kind ∧ x.kind ≤ 4 ∧ x.off + x.size ≤ size ∧ (x.size = 0 ∨ 64 + 16 * ss.length ≤ x.off)) &&
    (if x.kind = 2 then decide (x.off = 0x1000) else decide (x.off % 64 = 0)) && (x.kind != 4 || decide (x.size % 80 = 0))) &&
  (List.range ss.length).all (fun i => (List.range i).all (fun j =>
    match ss[i]?, ss[j]? with
    | some a, some b => !rangesMeet a.off a.size b.off b.size && decide (a.kind ≠ b.kind)
    | _, _ => true)) &&
  [1, 2, 3].all (fun k => ss.any (fun x => decide (x.kind = k)))

/-- The runs of a PRELOAD section. -/
def preloadRuns (bs : List Byte) : Nat → List (Nat × List Byte)
  | 0 => []
  | fuel + 1 =>
    if bs.length < 8 then []
    else
      let n := field bs 4 4
      (field bs 0 4, (bs.drop 8).take n) :: preloadRuns (bs.drop (8 + (n + 7) / 8 * 8)) fuel

/-- The limits of R10 and R70 on what DESC and TEXT say. -/
def CodeObj.fits (o : CodeObj) : Bool :=
  decide (1 ≤ o.frames ∧ o.frames ≤ 16 ∧ 8 ≤ o.regs ∧ o.regs ≤ 128 ∧ o.regs % 8 = 0 ∧ o.frames * o.regs ≤ 2048 ∧ o.slots ≤ 8) &&
  decide (o.extent ≤ 3145728 ∧ o.extent % 256 = 0 ∧ o.args ≤ 4096 ∧ o.args % 8 = 0) &&
  decide (o.text % 16 = 0 ∧ o.size % 16 = 0 ∧ 16 ≤ o.size ∧ o.size ≤ 4194304) &&
  o.preload.all (fun p => decide (p.1 + p.2.length ≤ o.extent))

/-- The code object of a container, read by `rd` (offset and length); none where it is not a valid one. -/
def codeObject (rd : Nat → Nat → Option (List Byte)) (text stamp : Nat) : Option CodeObj := do
  let h ← rd 0 64
  let n := field h 6 2
  let size := field h 8 8
  if field h 0 4 ≠ 0x4F435842 ∨ field h 4 2 ≠ 1 ∨ (n ≠ 3 ∧ n ≠ 4) ∨ field h 16 48 ≠ 0 then none
  else
    let e ← rd 64 (16 * n)
    let ss := (List.range n).map (sectOf e)
    if !sectsOk size ss then none
    else
      let d ← ss.find? (fun x => decide (x.kind = 1))
      let t ← ss.find? (fun x => decide (x.kind = 2))
      let p ← ss.find? (fun x => decide (x.kind = 3))
      let db ← rd d.off d.size
      let tb ← rd t.off t.size
      let pb ← rd p.off p.size
      let o : CodeObj := ⟨text, t.size, stamp, Tab.writeBytes [] 0 tb, field db 64 2, field db 66 2, field db 68 1, field db 70 4, field db 74 2,
        preloadRuns pb pb.length⟩
      if o.fits && decide (76 ≤ d.size) then some o else none

/-- Bytes of a context's device memory as a snapshot sees them, by the translations that the package's units hold; none where a page does not
translate. -/
def State.ctxBytes (s : State) (ctx : Nat) (lim : Option Nat) (va n : Nat) : Option (List Byte) :=
  (List.range n).foldr (fun k acc =>
    match acc, s.pageAt .unit ctx s.pkg (va + k) with
    | some bs, some p => if va + k < 2 ^ 48 then some (s.dev.byteAt lim (p.phys (va + k)) :: bs) else none
    | _, _ => none) (some [])

/-- The loaded code object whose TEXT stands at an address, as of a stamp (R25). -/
def State.loadCode (s : State) (ctx code stamp : Nat) : Option CodeObj :=
  if code < 0x1000 then none else codeObject (fun o n => s.ctxBytes ctx (some stamp) (code - 0x1000 + o) n) code stamp

/-- The translations that reading a code object uses: its container's (R321). -/
def State.keepCode (s : State) (ctx code stamp : Nat) : State :=
  match s.ctxBytes ctx (some stamp) (code - 0x1000 + 8) 8 with
  | some bs => s.keepRange .unit ctx s.pkg (code - 0x1000) (bytesToNat bs)
  | none => s

/-! ### Partitions (R381, R384) -/

def partKey (top child : Nat) : Nat := 16 * top + child
def State.part? (s : State) (top child : Nat) : Option PartDesc := Assoc.at s.parts (partKey top child)

/-- A core that placement may use at all: its die is ready, and firmware has not marked it (R294, R368, R421). -/
def State.coreIn (s : State) (c : Nat) : Bool := s.readyDies.getLsbD (dieOf c) && !s.oos.contains c

def coresOf (cluster : Nat) : List Nat := (List.range 4).map (fun k => 4 * cluster + k)

/-- The clusters of a partition, in ascending number. -/
def partClusters (d : PartDesc) : List Nat := (List.range 1536).filter (fun c => d.clusters.testBit c)

/-- In-service cores of a partition. -/
def State.partCores (s : State) (d : PartDesc) : Nat := (((partClusters d).flatMap coresOf).filter (fun c => s.coreIn c)).length

/-- Whether an issuer in one partition may name another: its own, or one of its children (R293, R375). -/
def partAdmits (top child : Nat) (r : LaunchRec) : Bool :=
  decide (recTop r = top) && (decide (recChild r = child) || decide (child = 0))

/-! ### Acceptance (R291, R293, R294) -/

def State.isPending (g : Grid) : Bool := decide (g.st = .pending)

/-- The next grid id (R291). -/
def nextGridId (used : List Nat) (last : Nat) : Nat → Nat
  | 0 => last % (2 ^ 32 - 1) + 1
  | fuel + 1 => let n := last % (2 ^ 32 - 1) + 1; if used.contains n then nextGridId used n fuel else n

def State.newGridId (s : State) : Nat × State :=
  let used := s.grids.map (·.id) ++ s.queues.flatMap (fun p => match p.2 with
    | some q => (q.reports ++ q.pkts.flatMap (fun k => k.reports)).map (·.grid)
    | none => [])
  let n := nextGridId used s.lastGrid used.length
  (n, { s with lastGrid := n })

/-- The checks of R293 after LAYOUT, PRIV and PRIO, in the order of its table: a code, or the code object. -/
def State.checkPlace (s : State) (r : LaunchRec) (parts : Bool) (ctx die stamp : Nat) : Except Nat CodeObj :=
  match s.part? (recTop r) (recChild r) with
  | none => .error 0x04
  | some d =>
    if !parts then .error 0x04
    else match s.loadCode ctx r.code stamp with
      | none => .error 0x05
      | some o =>
        if s.partCores d < r.gmin * r.gang then .error 0x06
        else if 64 ≤ (s.grids.filter (fun (g : Grid) => decide (g.st = .pending ∧ g.die = die))).length then .error 0x07
        else .ok o

/-- Accepts a record: the grid is pending at its accepting die. -/
def State.accept (s : State) (r : LaunchRec) (argw : List Word64) (o : CodeObj) (queue : Nat) (packet : Option Nat) (die : Nat)
    (measured : Option Nat) : Nat × State :=
  let (id, s) := s.newGridId
  let g : Grid := ⟨id, r, argw, o, queue, packet, die, .pending, 0, 0, [], [], (List.range 4).map (fun _ => GBar.start), [], [], [], false,
    false, none, none, measured, measured⟩
  (id, { s with grids := s.grids ++ [g] })

/-- The status word of LAUNCH (R304). -/
def launchStatus (err grid : Nat) : Word64 := BitVec.ofNat 64 (2 ^ 63 + err * 2 ^ 56 + grid)

/-- LAUNCH of a record by a grid (R293, R303): the status, and the state. -/
def State.launch (s : State) (w : Wg) (r : LaunchRec) : Word64 × State :=
  match s.grid? w.grid with
  | none => (launchStatus 0x02 0, s)
  | some g =>
    let measured := match s.queue? g.queue with | some q => q.desc.measured | none => false
    if launchBad (s.feature 4) r then (launchStatus 0x01 0, s)
    else if (r.flags.testBit 2 && !g.system) || measured then (launchStatus 0x02 0, s)
    else if g.prio < recPrio r then (launchStatus 0x03 0, s)
    else match s.checkPlace r (partAdmits g.ptop (recChild g.lrec) r) (s.ctxOf g) (dieOf w.core) s.last with
      | .error e => (launchStatus e 0, s)
      | .ok o =>
        let (id, s) := (s.keepCode (s.ctxOf g) r.code s.last).accept r (r.argw.map (BitVec.ofNat 64)) o g.queue none (dieOf w.core) none
        (launchStatus 0 id, s)

/-! ### The search for cores (R294, R384, R396) -/

/-- Cores that belong to a gang that is not parked, or that a workgroup stands on. -/
def State.busyCores (s : State) : List Nat :=
  s.live.map (·.1) ++ s.grids.flatMap (fun g => (g.gangs.filter (fun (k : Gang) => !k.parked)).flatMap (fun (k : Gang) => k.cores))

/-- The children of a top-level partition. -/
def State.children (s : State) (top : Nat) : List PartDesc := (List.range 9).tail.filterMap (fun c => s.part? top c)

/-- Whether a schedule entry of a top-level partition may place gangs on a cluster now (R384). -/
def State.scheduled (s : State) (top child cluster : Nat) : Bool :=
  match Assoc.at s.scheds top with
  | none => true
  | some e => decide (e.entry = child) || !(match s.part? top e.entry with | some d => d.clusters.testBit cluster | none => false)

/-- Whether a grid still waits for gangs: to start, or without COOP to grow (R295). -/
def Grid.hungry (g : Grid) : Bool :=
  decide (g.st = .pending) || (!g.coop && decide (g.placed < g.lrec.gmax ∧ g.ended.length < g.lrec.gang * g.placed))

/-- Gangs that a grid needs at once. -/
def Grid.need (g : Grid) : Nat := if g.st = .pending then g.lrec.gmin else 1

/-- Whether a gang is parked and waits to be restored; one that CSAVE holds waits for CREST alone (R385, R394). -/
def State.waitsPlace (s : State) (g : Grid) (k : Gang) : Bool :=
  k.parked && s.parked.any (fun w => decide (w.grid = g.id ∧ w.gang = k.idx))

/-- Gangs that a grid waits to have placed or restored at once (R295, R385). -/
def State.wants (s : State) (g : Grid) : Nat :=
  let back := (g.gangs.filter (fun k => s.waitsPlace g k)).length
  if g.hungry then g.need else if g.coop then back else min 1 back

/-- The owner of a cluster: the top-level partition that holds it. -/
def State.ownerOf (s : State) (cluster : Nat) : Option Nat :=
  (List.range 16).find? (fun t => match s.part? t 0 with | some d => d.clusters.testBit cluster | none => false)

/-- Whether a cluster is lent and idle (R396): no gang of its owner stands on it, and none that waits to be placed or restored may stand on it. -/
def State.lentIdle (s : State) (cluster : Nat) : Bool :=
  match s.ownerOf cluster with
  | none => false
  | some t =>
    (match s.part? t 0 with | some d => d.lend | none => false) &&
    !s.grids.any (fun g => decide (g.ptop = t) && (g.gangs.any (fun (k : Gang) => !k.parked && decide (k.cluster = cluster)) ||
      ((g.hungry || g.gangs.any (fun k => s.waitsPlace g k)) &&
        (match s.part? t (recChild g.lrec) with | some d => d.clusters.testBit cluster | none => false))))

/-- The free cores of a cluster for a grid: in service, not busy, and not reserved for another grid (R294, R297). -/
def State.freeIn (s : State) (gid cluster : Nat) (busy : List Nat) : List Nat :=
  if s.grids.any (fun (g : Grid) => g.reserved.contains cluster && decide (g.id ≠ gid)) then []
  else (coresOf cluster).filter (fun c => s.coreIn c && !busy.contains c)

/-- Groups of `n` of a list. -/
def chunks (n : Nat) (l : List Nat) : Nat → List (List Nat)
  | 0 => []
  | fuel + 1 => if n ≤ l.length ∧ n ≠ 0 then l.take n :: chunks n (l.drop n) fuel else []

/-- Numbers 0 to n - 1, from `k` on and around. -/
def ringFrom (n k : Nat) : List Nat := (List.range n).map (fun i => (k + i) % n)

/-- The clusters that a grid's gangs may stand on, in the order of the search: those of its partition, then borrowed ones. -/
def State.searchOrder (s : State) (g : Grid) (borrow : Bool) : List Nat :=
  match s.part? g.ptop (recChild g.lrec) with
  | none => []
  | some d =>
    let all := (ringFrom 64 g.die).flatMap (fun die => (List.range 24).map (fun c => 24 * die + c))
    all.filter (fun c => d.clusters.testBit c && s.scheduled g.ptop (recChild g.lrec) c) ++
    (if borrow && d.borrow && decide (recChild g.lrec = 0) then
      all.filter (fun c => !d.clusters.testBit c && decide (s.ownerOf c ≠ some g.ptop) && s.lentIdle c) else [])

/-- Where gangs of a grid could stand now, given the busy cores: clusters with the cores of each gang. -/
def State.spots (s : State) (g : Grid) (borrow : Bool) (busy : List Nat) : List (Nat × List Nat) :=
  (s.searchOrder g borrow).flatMap (fun c => (chunks g.lrec.gang (s.freeIn g.id c busy) 4).map (fun cs => (c, cs)))

/-! ### A workgroup before its first instruction (R12, R195, R294) -/

/-- A frame at its start, with every lane at `pc` (R12, R79). -/
def Frame.start (f : Nat) (pc : Word64) : Frame where
  v := Tab.setAll 0#32 [] ((List.range 32).map (fun l => (vKey l 0, BitVec.ofNat 32 (32 * f + l))))
  side := []
  tags := []
  preds := []
  resid := []
  fpst := []
  live := 0xFFFFFFFF#32
  fmask := 0#32
  prio := 0#2
  wake := 0#7
  splits := [⟨0, 0xFFFFFFFF#32, pc, .run, none, false, false, none, false, false, 0, [], []⟩]
  parked := []
  nextSplit := 1
  taken := 0
  defer := []
  yielded := false
  heldAt := none

/-- A workgroup before its first instruction (R12, R195). -/
def Wg.start (grid idx gang pos core count : Nat) (o : CodeObj) (args : List Word64) (ph : Phase) : Wg where
  grid := grid
  idx := idx
  gang := gang
  pos := pos
  core := core
  home := core
  code := o
  frames := (List.range o.frames).map (fun f => Frame.start f (BitVec.ofNat 64 o.text))
  s := Tab.setAll 0#64 [] ([(0, BitVec.ofNat 64 grid), (1, BitVec.ofNat 64 idx), (2, BitVec.ofNat 64 count), (3, BitVec.ofNat 64 gang)] ++
    (args.take 12).zipIdx.map (fun p => (4 + p.2, p.1)))
  q := []
  rpc := BitVec.ofNat 64 o.text
  rst := .run
  rwake := 0#7
  lastCopy := []
  pend := []
  dq := []
  dqBase := 0
  slice := o.preload.foldl (fun m p => Tab.writeBytes m p.1 p.2) []
  slots := []
  slotOps := []
  passes := []
  bars := (List.range 16).map (fun _ => Bar.start o.frames)
  cparts := (List.range 8).map (fun _ => Bar.start o.frames)
  gparts := (List.range 4).map (fun _ => Bar.start o.frames)
  phase := ph
  kept := none
  pins := []
  expired := 0
  copies := []
  groups := []
  acts := []
  reqs := []
  atomnFlags := []
  replays := []
  retired := 0
  total := 0
  maxst := 0
  nz := 0
  endflags := 0
  fault := none
  mapstore := false
  storage := none
  run := .running
  halt := false
  gated := false
  savearea := 0
  imgSize := 0
  brk := []
  wbase := []
  wctl := []
  rdbg := false
  rstep := false
  rskip := false
  rends := none

/-- The argument words of a workgroup: from ARGW, or from the block as its snapshot sees it; those beyond `.args` read zero (R195, R303). A
block that does not translate gives free values. -/
def State.argWords (s : State) (g : Grid) (S : Nat) : List Word64 × State :=
  let cut := fun (l : List Word64) => l.zipIdx.map (fun (p : Word64 × Nat) => if 8 * p.2 < g.code.args then p.1 else 0#64)
  if !g.argw.isEmpty then (cut g.argw, s)
  else match s.ctxBytes (s.ctxOf g) (some S) g.lrec.args (min 96 g.code.args) with
    | some bs => (cut ((List.range 12).map (fun k => BitVec.ofNat 64 (field bs (8 * k) 8))),
        s.keepRange .unit (s.ctxOf g) s.pkg g.lrec.args (min 96 g.code.args))
    | none => let (f, s) := s.takeFree 12
              (cut (f.map (BitVec.ofNat 64)), s)

/-- The header of a save area that firmware has reserved: STATE 0, empty (R390, R392). -/
def emptyArea : List Byte := natToBytes 4 0x4E435458 ++ natToBytes 2 1 ++ natToBytes 250 0

/-- Places one workgroup of a gang: its phase opens in plain mode at the die's frontier, or at the stamp of a measured launch (R294, R415). -/
def State.placeWg (s : State) (g : Grid) (count k p core : Nat) : State :=
  let (tag, s) := s.newTag core
  let S := g.opened.getD (s.frontier (dieOf core))
  let (args, s) := s.argWords g S
  let (area, s) := s.reserveArea g.code
  let w := Wg.start g.id (g.lrec.gang * k + p) k p core count g.code args ⟨tag, S, false⟩
  let w := { w with savearea := area, run := if decide (g.st = GridSt.held) && !g.contain then RunSt.held else RunSt.running }
  (s.putArea area emptyArea).setCore core (w.skipRun g.code.words)

/-- Places the next gang of a grid on cores of a cluster (R253, R291, R294). -/
def State.placeGang (s : State) (gid count : Nat) (cluster : Nat) (cores : List Nat) : State :=
  match s.grid? gid with
  | none => s
  | some g =>
    let k := g.placed
    let (seq, s) := s.newId
    let s := (cores.zipIdx).foldl (fun s (p : Nat × Nat) => s.placeWg g count k p.2 p.1) s
    let done := decide (g.lrec.gmax ≤ k + 1)
    s.updGrid gid (fun g => { g with
      placed := k + 1, gangs := g.gangs ++ [⟨k, cluster, cores, false, seq, false, false, (List.range 8).map (fun _ => GBar.start)⟩],
      reserved := g.reserved.filter (fun c => decide (c ≠ cluster)),
      measured := if done then none else g.measured })

/-! ### The tile dispenser (R299 to R302) -/

/-- COORD of a linear index. -/
def coord (r : LaunchRec) (t : Nat) : Nat × Nat × Nat :=
  let z := t / (r.x * r.y)
  let q := t % (r.x * r.y)
  if r.order = 0 then (q % r.x, q / r.x, z)
  else
    let b := q / (r.g * r.x)
    let h := min r.g (r.y - r.g * b)
    let k := q - r.g * r.x * b
    (k / h, r.g * b + k % h, z)

/-- The shares of the dies at a grid's start (R301): `cores` are its placed cores. -/
def tileShares (n : Nat) (cores : List Nat) : List (Nat × Nat × Nat) :=
  let dies := sortNat (cores.map dieOf)
  let share := dies.map (fun d => (d, n * (cores.filter (fun c => decide (dieOf c = d))).length / cores.length))
  let rest := n - (share.map (fun p => p.2)).foldl (· + ·) 0
  ((share.zipIdx.map (fun (p : (Nat × Nat) × Nat) => (p.1.1, p.1.2 + if p.2 < rest then 1 else 0))).foldl
    (fun (acc : Nat × List (Nat × Nat × Nat)) p => (acc.1 + p.2, acc.2 ++ [(p.1, acc.1, acc.1 + p.2)])) (0, [])).2

/-- The lowest index of a die's own range, which leaves it. -/
def popTile (die : Nat) : List (Nat × Nat × Nat) → Option (Nat × List (Nat × Nat × Nat))
  | [] => none
  | (d, lo, hi) :: t =>
    if d = die ∧ lo < hi then some (lo, (d, lo + 1, hi) :: t)
    else (popTile die t).map (fun r => (r.1, (d, lo, hi) :: r.2))

/-- The indices that a die has left. A replay may have left them in pieces (log 87). -/
def tilesLeft (rs : List (Nat × Nat × Nat)) (die : Nat) : Nat := ((rs.filter (fun p => decide (p.1 = die))).map (fun p => p.2.2 - p.2.1)).sum

/-- The die with the most indices remaining, the lowest number on a tie (R302). -/
def stealFrom (rs : List (Nat × Nat × Nat)) : Option Nat :=
  rs.foldl (fun (b : Option Nat) p =>
    match b with
    | none => some p.1
    | some d => if tilesLeft rs d < tilesLeft rs p.1 ∨ (tilesLeft rs d = tilesLeft rs p.1 ∧ p.1 < d) then some p.1 else some d) none

/-- Cuts the indices of a die, which rise through its ranges: the lowest `keep` stay, and the others become ranges of die `die`. -/
def cutTiles (die victim : Nat) : Nat → List (Nat × Nat × Nat) → List (Nat × Nat × Nat) × List (Nat × Nat × Nat)
  | _, [] => ([], [])
  | keep, (d, lo, hi) :: t =>
    if d = victim then
      let k := min keep (hi - lo)
      let r := cutTiles die victim (keep - k) t
      ((d, lo, lo + k) :: r.1, (die, lo + k, hi) :: r.2)
    else
      let r := cutTiles die victim keep t
      ((d, lo, hi) :: r.1, r.2)

/-- A steal (R302): the upper ceil(n / 2) of the n remaining indices of the die with the most. -/
def stealTiles (die : Nat) (rs : List (Nat × Nat × Nat)) : List (Nat × Nat × Nat) :=
  match stealFrom rs with
  | none => rs
  | some v =>
    let r := cutTiles die v (tilesLeft rs v / 2) rs
    (r.2 ++ r.1).filter (fun p => decide (p.2.1 < p.2.2))

/-- The next grant to a core of a die (R301, R302): the index, or none when the space is exhausted. -/
def Grid.grant (g : Grid) (die : Nat) : Option Nat × Grid :=
  let rs := if (popTile die g.ranges).isNone then stealTiles die g.ranges else g.ranges
  match popTile die rs with
  | some (t, rs) => (some t, { g with ranges := rs })
  | none => (none, g)

/-- A replayed grant: the logged index leaves the range that holds it, whichever die's that is, and no steal is made (R410, R412; DESIGN CHOICE, log 87). -/
def Grid.takeTile (g : Grid) (t : Nat) : Grid :=
  { g with ranges := g.ranges.flatMap (fun (p : Nat × Nat × Nat) =>
      if p.2.1 ≤ t ∧ t < p.2.2 then [(p.1, p.2.1, t), (p.1, t + 1, p.2.2)] else [p]) }

end Sys2Proof.Machine
end

