-- ==== Sys2Proof/Machine/Acts.lean ====
section
/-!
DEFINITION. What a U instruction does once the frames have taken its entry (R256, R303, R337, R355), one action after the other in program
order, and COMMIT_COMPLETE (R336).
-/
namespace Sys2Proof.Machine

open Sys2Proof

/-! ### When an action may begin -/

/-- Whether an action commits the phase. -/
def actCommits (tx : Bool) (k : ActKind) : Bool :=
  match k with
  | .barRel _ | .phase | .txend _ _ => true
  | .txbegin => !tx
  | .fence sc o => decide (2 ≤ scopeRank sc) && ordCommits o
  | _ => false

/-- Whether a frame's access before the action must be performed first (R256, R337, R353): a store before every commit and refresh. -/
def Req.beforeAct (r : Req) (k : ActKind) : Bool :=
  match k with
  | .fence sc _ => r.drains sc || (decide (2 ≤ scopeRank sc) && r.beforeCommit)
  | _ => r.beforeCommit

def ActKind.isLaunch : ActKind → Bool
  | .launch _ _ _ => true
  | _ => false

/-- Whether the first action of a workgroup may take effect: the live frames have taken its entry, and what precedes it has been
performed (R256, R337); a LAUNCH waits for the commits of PUBLISH too (R303). -/
def State.actReady (s : State) (w : Wg) (a : Act) : Bool :=
  decide (a.begun = decide (a.kind = .barAcq)) && w.takenBy a.pos &&
  !w.reqs.any (fun (r : Req) => decide (r.pos ≤ a.pos) && r.beforeAct a.kind) && !s.sliceWrites w a.pos (fun _ => true) &&
  !w.copies.any (fun (c : Copy) => decide (c.pos < a.pos ∧ c.st = .issued)) && !(a.kind.isLaunch && s.publishing w a.pos) &&
  (!actCommits w.phase.tx a.kind || s.mayStamp (s.ctxOfWg w) w none)

/-! ### What it does -/

def Wg.dropAct (w : Wg) (id : Nat) : Wg := { w with acts := w.acts.filter (fun (a : Act) => decide (a.id ≠ id)) }
def Wg.updAct (w : Wg) (id : Nat) (f : Act → Act) : Wg := { w with acts := w.acts.map (fun (a : Act) => if a.id = id then f a else a) }

/-- The result of an action lands in its s-register (R199), and the action is over. -/
def Wg.landAct (w : Wg) (id dst : Nat) (wbs : Bool) (v : Word64) : Wg :=
  let w := w.dropAct id
  if wbs then w else (w.setS dst v).landS (.act id)

/-- Commits the phase for an action, which is over when the commit completes; `acq` says that a refresh of package reach follows. -/
def State.actCommit (s : State) (w : Wg) (a : Act) (keep acq : Bool) (r : Reach) (f : Committed → Wg → Wg) : State :=
  let k := s.commitFor w.grid w.idx keep
  let t := k.waits r acq s.last
  let (_, s) := k.s.addCommit t.1 (dieOf w.core) t.2 (.act w.grid w.idx a.id) k.peers
  s.updWg w.grid w.idx (fun w => f k (w.updAct a.id (fun a => { a with begun := true })))

/-- The status word of TXEND (R343). -/
def txStatus (outcome : Nat) (early : Bool) (bytes : Nat) : Word64 :=
  BitVec.ofNat 64 (2 ^ 63 + outcome * 2 ^ 56 + (if early then 2 ^ 55 else 0) + bytes)

/-- The status of a TXEND whose commit came to `k`, on a phase that was transactional or not, with what the core kept (R341 to R343). -/
def txendStatus (tx : Bool) (kept : Option (Nat × Nat)) (k : Committed) : Word64 :=
  if tx then txStatus k.outcome false k.bytes
  else match kept with
    | some (o, b) => txStatus o (decide (o ≠ 2)) b
    | none => txStatus 3 false 0

/-- SNAP (R344): the stamp that it writes, and the workgroup with its pin. -/
def Wg.snap (w : Wg) : Word64 × Wg :=
  if 8 ≤ w.pins.length then (0#64, w) else (BitVec.ofNat 64 w.phase.s, { w with pins := w.pins ++ [w.phase.s] })

/-- The reckoner goes on after a release whose refresh was an action. -/
def Wg.reckGo (w : Wg) : Wg :=
  match w.rst with
  | .barrier _ _ => w.reckOn
  | _ => w

/-- Begins an action that is ready; one that waits for no commit is over at once. -/
def State.beginAct (s : State) (w : Wg) (a : Act) : State :=
  let upd := fun (s : State) (f : Wg → Wg) => s.updWg w.grid w.idx f
  match a.kind with
  | .barRel r => s.actCommit w a true false r (fun _ w => w)
  | .barAcq => upd (s.refresh w.grid w.idx) (fun w => (w.dropAct a.id).reckGo)
  | .fence sc o =>
    if scopeRank sc < 2 then upd s (fun w => w.dropAct a.id)
    else if ordCommits o then s.actCommit w a true (ordRefreshes o) (fenceReach sc o) (fun _ w => w)
    else if 4 ≤ scopeRank sc then
      let (_, s) := s.addCommit s.last (dieOf w.core) .front (.act w.grid w.idx a.id) []
      upd s (fun w => w.updAct a.id (fun a => { a with begun := true }))
    else upd (s.refresh w.grid w.idx) (fun w => w.dropAct a.id)
  | .phase => s.actCommit w a true false .package (fun _ w => w)
  | .txbegin =>
    if w.phase.tx then upd s (fun w => w.dropAct a.id)
    else s.actCommit w a true false .package (fun _ w => { w with phase := { w.phase with tx := true } })
  | .txend _ _ =>
    s.actCommit w a false false .package (fun k v =>
      { v.updAct a.id (fun a => { a with status := txendStatus w.phase.tx w.kept k }) with kept := none })
  | .txabort => upd (s.abortTx w.grid w.idx false) (fun w => w.dropAct a.id)
  | .snap dst wbs => upd s (fun w => (w.snap.2).landAct a.id dst wbs w.snap.1)
  | .launch dst off wbs =>
    let (v, s) := s.launch w (recordOf (Tab.readBytes w.slice off 192))
    upd s (fun w => w.landAct a.id dst wbs v)

/-- The actions of a core go on: the first of its workgroup begins when it is ready, unless the workgroup is halted (R387). -/
def State.settleCore (s : State) (core : Nat) : State :=
  match s.onCore core with
  | none => s
  | some w =>
    match w.acts with
    | [] => s
    | a :: _ => if !w.halt && s.actReady w a then s.beginAct w a else s

/-- An action whose commit is complete is over: the refresh of FENCE and PHASE, the status of TXEND, the reckoner's own arrival after
`.rel`. -/
def State.finishAct (s : State) (g i id : Nat) : State :=
  match s.wg? g i with
  | none => s
  | some w =>
    match w.acts.find? (fun (a : Act) => decide (a.id = id)) with
    | none => s
    | some a =>
      match a.kind with
      | .barRel _ => s.updWg g i (fun w => { w.dropAct id with rst := if w.rst = .commit id then .resumed id else w.rst })
      | .fence _ o => (if ordRefreshes o then s.refresh g i else s).updWg g i (fun w => w.dropAct id)
      | .phase => (s.refresh g i).updWg g i (fun w => w.dropAct id)
      | .txend dst wbs => s.updWg g i (fun w => w.landAct id dst wbs a.status)
      | _ => s.updWg g i (fun w => w.dropAct id)

/-! ### COMMIT_COMPLETE -/

/-- The flags of ATOMN requests reach their lanes at a commit of the core (R279); the wait of a FENCE with ACQ alone is none (R282). -/
def Wg.applyAtomn (w : Wg) : Wg :=
  { w.atomnFlags.foldl (fun (w : Wg) p => match w.frame? (p.1 / 32) with
      | some fr => w.setFrame (p.1 / 32) (fr.raiseFlags (p.1 % 32) p.2)
      | none => w) w with atomnFlags := [] }

def Wg.committed (w : Wg) (r : Reach) : Wg := if r = .front then w else w.applyAtomn

/-- A party goes on with its instruction. -/
def Wg.resumeParty (w : Wg) (frame id : Nat) : Wg :=
  if frame = reckParty then { w with rst := if w.rst = .commit id then .resumed id else w.rst }
  else match w.frame? frame with
    | some fr => w.setFrame frame (fr.mapSplits (fun p => if p.st = .commit id then { p with st := .resumed id } else p))
    | none => w

/-- The final commit is complete: the record, then the bead, and the workgroup has ended (R219, R298). -/
def State.finishWg (s : State) (g i stamp : Nat) : State :=
  match s.wg? g i, s.grid? g with
  | some w, some x =>
    let (t, s) := s.writeRecord x w (if stamp = 0 then none else some stamp)
    let s := s.putEndBead ((s.grid? g).getD x) i t
    s.endWg g i
  | _, _ => s

/-- COMMIT_COMPLETE, R336, R354: what waited for the commit goes on, after the refresh of a FENCE. -/
def execCommitComplete (id : Nat) (s : State) : Out3 :=
  .next (match s.commits.find? (fun (c : Commit) => decide (c.id = id)) with
    | none => s
    | some c =>
      if s.commitDone c then
        let s := { s with commits := s.commits.filter (fun (c : Commit) => decide (c.id ≠ id)) }
        match c.who with
        | .party x acq =>
          (if acq then s.refresh x.grid x.wg else s).updWg x.grid x.wg (fun w => (w.committed c.reach).resumeParty x.frame id)
        | .act g i n => (s.updWg g i (fun w => w.committed c.reach)).finishAct g i n
        | .copy g i n =>
          s.updWg g i (fun w => match w.copies.find? (fun (k : Copy) => decide (k.id = n)) with
            | some k => { w.closeGroup k.cluster k.group with
                copies := w.copies.map (fun (y : Copy) => if y.id = n then { y with st := .published, group := 0 } else y) }
            | none => w)
        | .publish g i reg v _ c k => s.updWg g i (fun w => (match reg with
            | some n => ((w.regWake wakeEngine n).setS n v).landS (.act id)
            | none => w).closeGroup c k |>.wakeAll wakeEngine)
        | .final g i => (s.updWg g i Wg.applyAtomn).finishWg g i c.stamp
        | .packet q n =>
          { s with pktCopies := s.pktCopies.map (fun (y : Copy) => if y.pkt = some (q, n) then { y with st := .published, group := 0 } else y) }
      else s)

end Sys2Proof.Machine
end

