-- ==== Sys2Proof/Machine/Control.lean ====
section
/-!
DEFINITION. Class 0x0, control (R167 to R181): branches, calls, exits, stops and waits.
-/
namespace Sys2Proof.Machine

open Sys2Proof

/-! ### Branch targets (R39, R170) -/

/-- The target of a relative branch. -/
def branchTarget (pc : Word64) (off : Word32) : Word64 := pc + 16#64 + 16#64 * off.signExtend 64

/-- Whether an address is a word of TEXT. -/
def CodeObj.inText (o : CodeObj) (t : Word64) : Bool := decide (o.text ≤ t.toNat ∧ t.toNat < o.text + o.size)

/-- What is wrong with these targets, in the order of R170. -/
def CodeObj.targetFault (o : CodeObj) (ts : List Word64) : Option Code :=
  if ts.any (fun t => decide (t.toNat % 16 ≠ 0)) then some .align
  else if ts.any (fun t => !o.inText t) then some .addr
  else none

/-- The active lanes of a frame go to their targets, after the checks and with these writes made; the others fall through (R80, R84). -/
def FCtx.branch (x : FCtx) (ws : Writes) (t : Nat → Word64) : Except Code State :=
  match x.w.code.targetFault ((lanesOf x.act).map t) with
  | some c => .error c
  | none => .ok (x.retire x.s x.w (x.fr.write ws) ⟨[], []⟩ (fun l => if x.act.getLsbD l then t l else x.sp.pc + 16#64))

/-- The link of a call: the address of the next instruction in an aligned pair, tagged INT (R171). -/
def FCtx.link (x : FCtx) (dst : BitVec 7) : Writes :=
  let r := x.sp.pc + 16#64
  ({ Out.none with regs := [x.dreg .int (fun _ => r.setWidth 32), x.dreg .int (fun _ => r.extractLsb' 32 32)] } : Out).writes
    dst.toNat 7 x.c.wbs

/-! ### Meanings -/

/-- The reckoner stops fetching without a fault (R48). -/
def State.quietStop (s : State) (core : Nat) : State := s.setReck core .stopped

/-- UND, R175: ILLEGAL, but for the quiet stop of the reckoner where U = 0 (R48). -/
def execUnd (c : Ctl) (u : Bool) (s : State) : Out3 :=
  match s.cur, u with
  | some (.reck core), false => .next (s.quietStop core)
  | _, true => s.runR (.und c true) .nop (fun _ => .error .illegal)
  | _, false => s.runF (.und c false) (fun _ => .error .illegal)

/-- NOP, R180. -/
def execNop (c : Ctl) (s : State) : Out3 := s.runF (.nop c) (fun x => .ok (x.finish (.nop c) Out.none))

/-- NOP.u, R180: its entry does nothing. -/
def execNopU (c : Ctl) (s : State) : Out3 := s.runR (.nopU c) .nop (fun x => .ok (x.fall x.s x.w UOut.nop))

/-- BRA, R168. -/
def execBra (c : Ctl) (off : Word32) (s : State) : Out3 :=
  s.runF (.bra c off) (fun x => x.branch Writes.none (fun _ => branchTarget x.sp.pc off))

/-- BRA.u, R168: the reckoner branches, and the entry holds the direction. -/
def execBraU (c : Ctl) (off : Word32) (s : State) : Out3 :=
  s.runR (.braU c off) (.branch false 0#64) (fun x =>
    let t := branchTarget x.w.rpc off
    match x.w.code.targetFault [t] with
    | some e => .error e
    | none => .ok (x.done x.s x.w { UOut.nop with kind := .branch true t } t))

/-- BRX, R169. -/
def execBrx (c : Ctl) (a : Src) (s : State) : Out3 :=
  s.runF (.brx c a) (fun x => x.branch Writes.none (fun l => x.raw64 true a l))

/-- CALL, R171. -/
def execCall (c : Ctl) (dst : BitVec 7) (off : Word32) (s : State) : Out3 :=
  s.runF (.call c dst off) (fun x => x.branch (x.link dst) (fun _ => branchTarget x.sp.pc off))

/-- CALLX, R171: A is read before the link is written. -/
def execCallx (c : Ctl) (dst : BitVec 7) (a : Src) (s : State) : Out3 :=
  s.runF (.callx c dst a) (fun x => x.branch (x.link dst) (fun l => x.raw64 true a l))

/-- RET, R172. -/
def execRet (c : Ctl) (a : Src) (s : State) : Out3 :=
  s.runF (.ret c a) (fun x => x.branch Writes.none (fun l => x.raw64 true a l))

/-- The workgroup keeps the largest status and the count of nonzero ones (R173). -/
def Wg.status (w : Wg) (sts : List Nat) : Wg :=
  { w with maxst := sts.foldl max w.maxst, nz := w.nz + (sts.filter (fun n => decide (n ≠ 0))).length }

/-- EXIT, R173: the active lanes leave with their statuses; the others fall through. -/
def execExit (c : Ctl) (a : Src) (s : State) : Out3 :=
  s.runF (.exit c a) (fun x =>
    .ok ((x.retire x.s (x.w.status ((lanesOf x.act).map (fun l => (x.raw a 0 l).toNat % 2 ^ 16))) (x.fr.kill x.act s.tick) ⟨[], []⟩ x.fall).gatherFails
      x.core x.f))

/-- EXIT.u, R173: the reckoner stops fetching, and every frame that takes the entry retires its live lanes. -/
def execExitU (c : Ctl) (a : Src) (s : State) : Out3 :=
  s.runR (.exitU c a) (.exit false 0#16) (fun x =>
    .ok ((x.fall x.s x.w { UOut.nop with kind := .exit true ((x.val32 a).setWidth 16) }).setReck x.core .stopped))

/-- TRAP, R176, R90: the grid is held, and the frame goes on after the TRAP when it is resumed. -/
def execTrap (c : Ctl) (a : Src) (s : State) : Out3 :=
  s.runF (.trap c a) (fun x =>
    let s' := x.finish (.trap c a) Out.none
    if x.act = 0 then .ok s'
    else .ok (s'.raise x.core x.f x.sp.id x.sp.pc .trap ((lowestOf x.act (x.raw a 0)).toNat % 2 ^ 16)))

/-- TRAP.u, R176: the frames take its entry as a NOP. -/
def execTrapU (c : Ctl) (a : Src) (s : State) : Out3 :=
  s.runR (.trapU c a) (.trap false) (fun x =>
    .ok ((x.fall x.s x.w { UOut.nop with kind := .trap true }).raise x.core reckParty 0 x.w.rpc .trap ((x.val32 a).toNat % 2 ^ 16)))

/-- BRK, R177: with a debugger attached it stops its split (R92), else the grid is held (R90). -/
def execBrk (c : Ctl) (code : BitVec 16) (s : State) : Out3 :=
  s.runF (.brk c code) (fun x =>
    let s' := x.finish (.brk c code) Out.none
    if x.act = 0 then .ok s'
    else if x.s.attached x.w then
      .ok (s'.debugStop x.core x.f { x.sp with skipB := [], skipW := [] } Code.brk.num code.toNat false)
    else .ok (s'.raise x.core x.f x.sp.id x.sp.pc .brk code.toNat))

/-- REJOIN, R178: `issueF` has gathered the frame, and the frame is one split (R81). -/
def execRejoin (c : Ctl) (s : State) : Out3 := s.runF (.rejoin c) (fun x => .ok (x.finish (.rejoin c) Out.none))

/-- YIELD, R179: the hint of R29; none with an empty active set. -/
def execYld (c : Ctl) (s : State) : Out3 :=
  s.runF (.yld c) (fun x =>
    .ok ({ x with c := { x.c with yld := x.c.yld || decide (x.act ≠ 0) } }.finish (.yld c) Out.none))

/-- The cycle at which a SLEEP of `n` cycles ends; none for 0 (R181). -/
def State.sleepUntil (s : State) (n : Nat) : Option Nat := if n = 0 then none else some (s.cycle + n)

/-- SLEEP, R181: the split has passed it, and waits for a wake event or the count. -/
def execSleep (c : Ctl) (a : Src) (s : State) : Out3 :=
  s.runF (.sleep c a) (fun x =>
    let s' := x.finish (.sleep c a) Out.none
    if x.act = 0 then .ok s'
    else .ok (s'.setSplitSt x.core x.f x.sp.id (.sleep (x.s.sleepUntil (lowestOf x.act (x.raw a 0)).toNat))))

/-- SLEEP.u, R181: the reckoner waits; the frames take the entry as a NOP. -/
def execSleepU (c : Ctl) (a : Src) (s : State) : Out3 :=
  s.runR (.sleepU c a) .nop (fun x =>
    .ok ((x.fall x.s x.w UOut.nop).setReck x.core (.sleep (x.s.sleepUntil (x.val32 a).toNat))))

end Sys2Proof.Machine
end

