-- ==== Sys2Proof/Machine/Map.lean ====
section
/-!
DEFINITION. Class 0x7, the slot instructions of the reckoner (R226 to R233), and the events of the map unit: passes, the effects of
slot-changing instructions, and fills (R226, R229, R246).
-/
namespace Sys2Proof.Machine

open Sys2Proof

/-! ### Slot-changing instructions -/

/-- The targeted quads (R226). -/
def quadSet (q : QuadSel) : BitVec 4 :=
  match q with
  | none => 0xF#4
  | some k => 1#4 <<< k.toNat

/-- Places a slot-changing instruction: it takes effect later in each targeted quad. -/
def RCtx.slotChange (x : RCtx) (q : QuadSel) (m : BitVec 3) (act : SlotAct) (dst : Option Nat) : State :=
  let (id, s) := x.s.newId
  let op : SlotOp := ⟨id, x.w.place, m.toNat, act, quadSet q, 0, 0, quadSet q, false, dst⟩
  x.fall s (match act with
      | .bind _ _ => { x.w with slotOps := x.w.slotOps ++ [op] }
      | _ => ({ x.w with slotOps := x.w.slotOps ++ [op] } : Wg).endsStep id)
    { UOut.nop with late := match dst with | some n => [(n, .slot id)] | none => [] }

/-- MAPBIND, R227: the area is checked at once, and the status lands when every targeted quad has ended its fill. -/
def execMapbind (c : Ctl) (fmt : SlotFmt) (q : QuadSel) (dst : BitVec 7) (a : Src) (m : BitVec 3) (s : State) : Out3 :=
  s.runR (.mapbind c fmt q dst a m) .nop (fun x =>
    let off := (x.val true a).toNat
    if off % 64 ≠ 0 then .error .align
    else if x.w.code.extent < off + slotBytes fmt then .error .addr
    else .ok (x.slotChange q m (.bind fmt off) (if x.c.wbs then none else some dst.toNat)))

/-- MAPCLR, R230. -/
def execMapclr (c : Ctl) (q : QuadSel) (m : BitVec 3) (s : State) : Out3 :=
  s.runR (.mapclr c q m) .nop (fun x => .ok (x.slotChange q m .clear none))

/-- MAPMODE, R231. -/
def execMapmode (c : Ctl) (q : QuadSel) (full : Bool) (m : BitVec 3) (s : State) : Out3 :=
  s.runR (.mapmode c q full m) .nop (fun x => .ok (x.slotChange q m (.mode full) none))

/-- MAPSCL, R232. -/
def execMapscl (c : Ctl) (q : QuadSel) (a : Src) (m : BitVec 3) (s : State) : Out3 :=
  s.runR (.mapscl c q a m) .nop (fun x => .ok (x.slotChange q m (.scale ((x.val true a).setWidth 16)) none))

/-- One word of a slot's row in logical columns (R233). -/
def Slot.word (sl : Slot) (row w : Nat) : Word64 :=
  BitVec.ofNat 64 (match sl.fmt with
    | .bf16 | .f16 => packElems 16 ((List.range 4).map (fun k => sl.code row (4 * w + k)))
    | .e4m3 | .e5m2 => if w < 4 then packElems 8 ((List.range 8).map (fun k => sl.code row (8 * w + k))) else 0
    | .f4b =>
      if w < 2 then packElems 4 ((List.range 16).map (fun k => sl.code row (16 * w + k)))
      else if w = 2 then packElems 8 ((List.range 4).map (fun b => sl.scale row (8 * b)))
      else if w = 3 then sl.band.toNat
      else 0)

/-- MAPRD, R233: it holds the reckoner until every earlier change of the slot in that quad has taken effect. -/
def execMaprd (c : Ctl) (qk : BitVec 2) (dst : BitVec 7) (m : BitVec 3) (rw : BitVec 5) (wd : BitVec 3) (s : State) : Out3 :=
  s.runR (.maprd c qk dst m rw wd) .nop (fun x =>
    if x.w.slotBusy (x.w.place + 1) qk.toNat m.toNat then .ok x.s
    else
      let sl := x.w.slot qk.toNat m.toNat
      if sl.binding ≠ .bound then .error .mapunbound
      else .ok (x.fall x.s x.w (x.to dst (sl.word rw.toNat wd.toNat))))

/-! ### Events of the map unit -/

/-- MAP_PASS_COMPLETE, R246: the last pass of a mapped instruction completes, and its results land. -/
def execMapPassComplete (core id : Nat) (s : State) : Out3 :=
  .next (match s.onCore core with
    | none => s
    | some w =>
      match w.passes.find? (fun p => decide (p.id = id)) with
      | none => s
      | some p =>
        let w := { w with passes := w.passes.filter (fun p => decide (p.id ≠ id)) }
        s.setCore core (match w.frame? p.frame with
          | some fr => w.setFrame p.frame (fr.write p.writes)
          | none => w))

def Wg.updSlotOp (w : Wg) (id : Nat) (f : SlotOp → SlotOp) : Wg :=
  { w with slotOps := w.slotOps.map (fun o => if o.id = id then f o else o) }
def Wg.setSlot (w : Wg) (q k : Nat) (sl : Slot) : Wg := { w with slots := Tab.set Slot.start w.slots (slotKey q k) sl }
def clearBit4 (m : BitVec 4) (q : Nat) : BitVec 4 := m &&& ~~~(1#4 <<< q)
def setBit4 (m : BitVec 4) (q : Nat) : BitVec 4 := m ||| (1#4 <<< q)

/-- Whether a slot-changing instruction may take effect in a quad (R226). -/
def Wg.slotReady (w : Wg) (q : Nat) (o : SlotOp) : Bool :=
  o.todo.getLsbD q &&
  !w.slotOps.any (fun p => decide (p.slot = o.slot ∧ p.pos < o.pos) && (p.todo.getLsbD q || p.filling.getLsbD q)) &&
  (w.quadFrames q).all (fun fr => decide (o.pos < fr.taken)) &&
  !w.passes.any (fun p => decide (p.frame % 4 = q) && p.slots.contains o.slot)

/-- The status word of MAPBIND (R228). -/
def slotStatus (o : SlotOp) : Word64 :=
  match o.act with
  | .bind fmt _ => BitVec.ofNat 64 (2 ^ 63 + (if o.err then 2 ^ 56 else 0) + o.bound.toNat * 2 ^ 52 + o.slot * 2 ^ 40 +
      fmt.code.toNat * 2 ^ 32 + slotBytes fmt)
  | _ => 0#64

/-- A slot-changing instruction that has reached every targeted quad is over, and its status lands (R227). -/
def Wg.slotOver (w : Wg) (id : Nat) : Wg :=
  match w.slotOps.find? (fun o => decide (o.id = id)) with
  | some o =>
    if o.todo = 0 ∧ o.filling = 0 then
      let w := { w with slotOps := w.slotOps.filter (fun p => decide (p.id ≠ id)) }
      match o.dst with
      | some n => (w.setS n (slotStatus o)).landS (.slot id)
      | none => w
    else w
  | none => w

/-- Whether a bind must still wait, for the frames of every quad that it targets to take its entry, and for the slice writes that they issued before it
(R227). -/
def State.fillWaits (s : State) (w : Wg) (o : SlotOp) : Bool :=
  (match o.act with | .bind _ _ => true | _ => false) &&
  (!(List.range 4).all (fun q => !o.todo.getLsbD q || (w.quadFrames q).all (fun fr => decide (o.pos < fr.taken))) ||
   s.sliceWrites w o.pos (fun f => o.todo.getLsbD (f % 4)))

/-- SLOT_CHANGE_EFFECT, R226: the instruction takes effect in one quad; a bind begins its fill there. In a halted workgroup it stays pending
(R240). -/
def execSlotChangeEffect (core quad id : Nat) (s : State) : Out3 :=
  .next (match s.onCore core with
    | none => s
    | some w =>
      match w.slotOps.find? (fun o => decide (o.id = id)) with
      | none => s
      | some o =>
        if !w.halt && w.slotReady quad o && !s.fillWaits w o then
          let sl := w.slot quad o.slot
          let w := w.updSlotOp id (fun o => { o with todo := clearBit4 o.todo quad })
          s.setCore core ((match o.act with
            | .bind fmt _ =>
              (w.setSlot quad o.slot { sl with binding := .filling, fmt := fmt }).updSlotOp id (fun o =>
                { o with filling := setBit4 o.filling quad })
            | .clear => w.setSlot quad o.slot Slot.start
            | .mode full => w.setSlot quad o.slot { sl with full := full }
            | .scale band => w.setSlot quad o.slot { sl with band := band }).slotOver id)
        else s)

/-- A fill ends in a quad: the area is read into the slot, which is BOUND, or UNBOUND after an uncorrectable error; a corrected one is
recorded (R227, R229). Every unit of the area is read at this moment (DEDUCED, log 19). -/
def Wg.fillDone (w : Wg) (quad : Nat) (o : SlotOp) (err corrected : Bool) : Wg :=
  match o.act with
  | .bind fmt off =>
    if o.filling.getLsbD quad then
      let sl := w.slot quad o.slot
      let bytes := if err then sl.bytes else Tab.writeBytes [] 0 (Tab.readBytes w.slice off (slotBytes fmt))
      let w := w.setSlot quad o.slot { sl with bytes := bytes, binding := if err then .unbound else .bound }
      let w := { w with mapstore := w.mapstore || err,
                        endflags := Nat.lor w.endflags ((if err then 12 else 0) + (if corrected then 64 else 0)) }
      (w.updSlotOp o.id (fun o =>
        { o with filling := clearBit4 o.filling quad, err := o.err || err,
                 bound := if err then o.bound else setBit4 o.bound quad })).slotOver o.id
    else w
  | _ => w

/-- SLOT_FILL_DONE, R227, R229. -/
def execSlotFillDone (core quad id : Nat) (err corrected : Bool) (s : State) : Out3 :=
  .next (match s.onCore core with
    | none => s
    | some w =>
      match w.slotOps.find? (fun o => decide (o.id = id)) with
      | some o => s.setCore core (w.fillDone quad o err corrected)
      | none => s)

end Sys2Proof.Machine
end

