-- ==== Sys2Proof/Machine/Halt.lean ====
section
/-!
DEFINITION. The halt of a pre-empted workgroup, its save and its restore, as the causes of R385 and the debug checkpoint use them (R240, R269,
R274, R288, R387 to R392), and the grant that a TFETCH waits for.
-/
namespace Sys2Proof.Machine

open Sys2Proof

/-! ### The grant of a tile (R299 to R302) -/

/-- What TFETCH writes. -/
def tileRegs (dst : BitVec 7) (r : LaunchRec) (t : Option Nat) : List (Nat × Word64) :=
  let vs := match t with
    | some n => let p := coord r n
                [BitVec.ofNat 64 n, BitVec.ofNat 64 p.1, BitVec.ofNat 64 p.2.1, BitVec.ofNat 64 p.2.2]
    | none => List.replicate 4 0xFFFFFFFFFFFFFFFF#64
  vs.zipIdx dst.toNat |>.map (fun p => (p.2, p.1))

/-- The tile that a workgroup's TFETCH gets now, with the grid and the state after it: in a replay the logged one. Where none of the core's is left in the log,
the logged run gave it none, if the tiles that are left are all granted in the log; else it lies behind the log's last entry, and waits until that has come
(R412; DESIGN CHOICE, log 87). -/
def State.nextGrant (s : State) (ctx : Nat) (w : Wg) (g : Grid) (core : Nat) : Option (Option Nat × Grid × State) :=
  match s.expects ctx (LogEntry.isGrantOf w.home) with
  | some (.grant k gr tile) => some (some tile, g.takeTile tile, s.replayed ctx (.grant k gr tile))
  | _ =>
    let left := match (s.ctx? ctx).bind (·.replay) with | some r => r.left | none => []
    if left.isEmpty then
      let r := g.grant (dieOf core)
      some (r.1, r.2, match r.1 with | some n => s.logAdd ctx (.grant w.home g.id n) | none => s)
    else
      let kept := left.foldl (fun (h : Grid) e => match e with | .grant _ n t => if n = g.id then h.takeTile t else h | _ => h) g
      if (kept.grant (dieOf core)).1.isNone then some (none, g, s) else none

/-- The grant is written, and logged or taken from the log, and the reckoner goes on; while the log is full it waits (R410). -/
def State.grantTile (s : State) (core : Nat) : State :=
  match s.onCore core with
  | none => s
  | some w =>
    match w.tfetchAt, s.grid? w.grid with
    | some (c, dst), some g =>
      let ctx := s.ctxOf g
      if !s.logRoom ctx then s else
      match s.nextGrant ctx w g core with
      | none => s
      | some (t, g', s) =>
      let s := s.updGrid g.id (fun _ => g')
      (RCtx.mk s core w true c).fall s w { UOut.nop with regs := if c.wbs then [] else tileRegs dst g.lrec t }
    | _, _ => s

/-! ### The halt (R387, R388) -/

/-- Results in flight land, and a fill in progress completes. -/
def Wg.landAll (w : Wg) : Wg :=
  let w := w.passes.foldl (fun (w : Wg) p => match w.frame? p.frame with
    | some fr => w.setFrame p.frame (fr.write p.writes)
    | none => w) w
  (({ w with passes := [] } : Wg).slotOps).foldl (fun w o =>
    (List.range 4).foldl (fun w q =>
      match w.slotOps.find? (fun p => decide (p.id = o.id)) with
      | some p => w.fillDone q p false false
      | none => w) w) { w with passes := [] }

/-- Whether an access of a workgroup's request that is on its way is dropped at the halt: a load, which is issued again, but for a lane whose later store
goes to the same bytes (R316). -/
def Wg.loadReq (w : Wg) (src : Source) : Bool :=
  match src with
  | .lane g i n l => w.is g i && w.reqs.any (fun (r : Req) => decide (r.id = n) && !r.keep.getLsbD l && (match r.kind with | .load _ => true | _ => false))
  | .packet _ _ | .peer _ => false

/-- What a lane of a load of the slice or of a SINGLE page reads now; none for a load that makes its access again. -/
def State.bytesNow (s : State) (w : Wg) (r : Req) (addr : Nat) : Option Nat :=
  match r.kind with
  | .load 5 => some (Tab.readLE w.slice addr r.size)
  | .load 0 => some (bytesToNat (s.dev.loadBytes (some w.phase.tag) none addr r.size))
  | .load 1 => some (bytesToNat (s.dev.loadBytes none none addr r.size))
  | _ => none

/-- A load at the halt (R388): what has come back without landing is read again after the restore, but for a lane that has stored to those bytes since
(R316). A device load of MULTI pages keeps what it read at the pinned stamp. -/
def Req.settle (r : Req) : Req :=
  { r with got := r.got.filter (fun q => r.keep.getLsbD q.1 || !r.addrs.any (fun p => decide (p.1 = q.1))) }

/-- The actions at the head of a workgroup's list that are in flight and complete at the halt: LAUNCH and SNAP (R388). -/
def State.settleQuick (s : State) (core : Nat) : Nat → State
  | 0 => s
  | fuel + 1 =>
    match s.onCore core with
    | none => s
    | some w =>
      match w.acts with
      | a :: _ =>
        (match a.kind with
         | .snap _ _ | .launch _ _ _ => if s.actReady w a then (s.beginAct w a).settleQuick core fuel else s
         | _ => s)
      | [] => s

/-- The halt itself: issue stops, what is in flight is settled, a CANCEL too, bead requests that can wait and have not been performed are withdrawn, chains go back to their heads,
sleepers wake. -/
def State.haltNow (s : State) (core : Nat) : State :=
  match s.onCore core with
  | none => s
  | some w =>
    let w := (w.settleCancels.landAll.mapFrames (fun fr => { fr.restartChain with defer := [], yielded := false })).wakeAll wakePreempt
    let mine := fun (k : SReq) => opWaits k.op && (match k.src with | .lane g i _ _ => w.is g i | .packet _ _ | .peer _ => false)
    let (gone, s) := s.takeService mine
    let rs := gone.filterMap (fun k => match k.src with
      | .lane _ _ n l => some (Replay.mk n l k.op k.pkg k.pa)
      | .packet _ _ | .peer _ => none)
    let w := { w with reqs := w.reqs.map Req.settle, replays := w.replays ++ rs, halt := true }
    let s := { s with
      mesh := s.mesh.filter (fun k => !w.loadReq k.src),
      acks := s.acks.filter (fun k => !w.loadReq k.2.src),
      hostq := s.hostq.filter (fun k => !w.loadReq k.src),
      peerq := s.peerq.filter (fun k => !w.loadReq k.src),
      gen := Tab.set 0 s.gen core (Tab.get 0 s.gen core + 1) }
    s.setCore core w

/-- Halts the workgroup of a core, after the grant and the actions that are in flight and complete. -/
def State.haltCore (s : State) (core : Nat) : State :=
  let s := s.grantTile core
  (s.settleQuick core (match s.onCore core with | some w => w.acts.length | none => 0)).haltNow core

/-! ### The save (R390) -/

/-- A gang is parked once none of its workgroups stands on a core. -/
def State.markParked (s : State) (g k : Nat) : State :=
  s.updGrid g (fun x => { x with gangs := x.gangs.map (fun (y : Gang) =>
    if y.idx = k ∧ (s.live.any (fun p => decide (p.2.grid = g ∧ p.2.gang = k))) = false then { y with parked := true } else y) })

/-- The halted workgroup of a core is parked: its image stands in its save area, STATE 1. -/
def State.parkCore (s : State) (core : Nat) : State :=
  match s.onCore core with
  | none => s
  | some w =>
    let s := s.putImage w 1 w.savearea
    (State.markParked { s with cores := Assoc.drop s.cores core, parked := s.parked ++ [{ w with imgSize := w.imageSize }] } w.grid w.gang)

/-! ### The restore (R391) -/

/-- The lanes of a load that read again, with their addresses. -/
def Req.again (r : Req) : List (Nat × Nat) := r.addrs.filter (fun p => r.wait.getLsbD p.1 && !r.keep.getLsbD p.1 && !r.got.any (fun q => decide (q.1 = p.1)))

/-- What a load reads again after a restore (R388). -/
def State.reread (s : State) (w : Wg) (r : Req) : State :=
  let todo := r.again
  match r.kind with
  | .load 5 | .load 0 | .load 1 =>
    s.updWg w.grid w.idx (fun v => v.updReq r.id (fun r => { r with got := r.got ++ todo.filterMap (fun p => (s.bytesNow w r p.2).map (fun x => (p.1, x))) }))
  | .load 4 => todo.foldl (fun s p =>
      let (id, s) := s.newId
      let t := meshCore (BitVec.ofNat 64 p.2)
      let (g, i, held) := match s.meshHolder t with | some w => (w.grid, w.idx, true) | none => (0, 0, false)
      { s with mesh := s.mesh ++ [⟨id, .lane w.grid w.idx r.id p.1, w.core, t, g, i, held, meshOff (BitVec.ofNat 64 p.2), r.size, none, false, 0,
          0⟩] }) s
  | .load 12 => todo.foldl (fun s p =>
      let (id, s) := s.newId
      { s with hostq := s.hostq ++ [⟨id, .lane w.grid w.idx r.id p.1, s.ctxOfWg w, p.2, none⟩] }) s
  | .load 8 => todo.foldl (fun s p =>
      let (id, s) := s.newId
      { s with peerq := s.peerq ++ [⟨id, .lane w.grid w.idx r.id p.1, p.2 / 2 ^ 48, p.2 % 2 ^ 48, none, r.size⟩] }) s
  | _ => s

/-- Whether a request of a saved workgroup is issued again after its restore. -/
def Wg.reissues (w : Wg) (r : Req) : Bool :=
  w.replays.any (fun k => decide (k.req = r.id)) || (match r.kind with | .load _ => !r.again.isEmpty | _ => false)

/-- The first load over the mesh that, issued again, names a workgroup of another top-level partition: it faults PERM (R313). -/
def State.rereadPerm (s : State) (w : Wg) (ptop : Nat) : Option Req :=
  w.reqs.find? (fun r => decide (r.kind = .load 4) && r.again.any (fun p => s.meshPerm ptop (meshCore (BitVec.ofNat 64 p.2))))

/-- Puts a saved workgroup on a core: PREEMPT in every %wake, STATE 3 in its save area, and the replay packets issued first, under the generation tag
of the core. -/
def State.restoreOn (s : State) (w : Wg) (core : Nat) : State :=
  let s := s.putArea (w.savearea + 6) (natToBytes 2 3)
  let w' := { w.mapFrames (fun fr => { fr with wake := fr.wake ||| wakePreempt }) with
    core := core, halt := false, gated := false, rwake := w.rwake ||| wakePreempt, replays := []
    reqs := w.reqs.map (fun r => { (if w.reissues r then r.replayed else r) with gen := Tab.get 0 s.gen core }) }
  let ptop := match s.grid? w.grid with | some g => g.ptop | none => 0
  let s := s.setCore core w'
  let s := w.replays.foldl (fun s k =>
    let (id, s) := s.newId
    s.sendService ⟨id, .lane w.grid w.idx k.req k.lane, core, k.pkg, k.pa, k.op, ptop, false, s.tick⟩) s
  match s.rereadPerm w' ptop with
  | some r => s.finalFault w' ⟨.perm, r.frame, r.pc.toNat, 0⟩
  | none => w'.reqs.foldl (fun s r => s.reread w' r) s

/-- The gang of a workgroup stands on these cores now. -/
def State.gangOn (s : State) (g k cluster : Nat) (cores : List Nat) : State :=
  s.updGrid g (fun x => { x with gangs := x.gangs.map (fun (y : Gang) =>
    if y.idx = k then { y with parked := false, raised := false, sliced := false, cluster := cluster, cores := cores } else y) })

end Sys2Proof.Machine
end

