-- ==== Sys2Proof/Machine/System.lean ====
section
/-!
DEFINITION. Class 0xE, system: special registers (R188 to R191, R253, R345, R420), TFETCH and LAUNCH (R299, R303), TRACEMARK and CKPT
(R404, R409), SNAP and UNSNAP (R344), and the privileged TLBINV, CSAVE, CREST and SIGNAL (R322, R393 to R395, R419).
-/
namespace Sys2Proof.Machine

open Sys2Proof

/-! ### Special registers -/

/-- %gangcore (R253). -/
def State.gangcore (s : State) (w : Wg) : Nat :=
  let cores := match (s.grid? w.grid).bind (fun g => g.gang? w.gang) with | some k => k.cores | none => []
  packElems 7 ((List.range 4).map (fun p => match cores[p]? with | some c => coreInDie c | none => 0x7F))

/-- %phase (R332). -/
def Phase.word (p : Phase) : Nat := (if p.tx then 2 ^ 63 else 0) + p.tag % 2 ^ 53

/-- The registers of a core, a workgroup and the package, by number (R188, R253, R345, R420). -/
def State.special (s : State) (core : Nat) (w : Wg) (n : Nat) : Nat :=
  match n with
  | 0x04 => coreInDie core
  | 0x05 => coreInDie core / 4
  | 0x06 => dieOf core
  | 0x07 => s.pkg
  | 0x08 => w.idx
  | 0x09 => w.gang
  | 0x0A => w.pos
  | 0x0B => match s.grid? w.grid with | some g => g.placed | none => 0
  | 0x0C => s.gangcore w
  | 0x10 => w.phase.s
  | 0x11 => w.phase.word
  | 0x12 => min 255 w.expired * 256 + w.pins.length
  | 0x13 => (Tab.get 0#32 s.sigin core).toNat
  | 0x20 => w.retired
  | 0x21 => s.cycle
  | 0x22 => s.tick
  | _ => 0

/-- The registers that a frame or a lane holds. -/
def FCtx.specialAt (x : FCtx) (n l : Nat) : Nat :=
  match n with
  | 0x00 => l
  | 0x01 => l / 4
  | 0x02 => x.f
  | 0x03 => x.f % 4
  | 0x18 => (x.fr.flagsOf l).toNat
  | 0x19 => x.fr.fmask.toNat
  | 0x1A => x.fr.wake.toNat
  | 0x1B => x.fr.prio.toNat
  | _ => x.s.special x.core x.w n

/-- What a read clears: EXPIRED of %pins in the workgroup, %sigin in the core (R4, R345, R420). -/
def Wg.readClears (w : Wg) (n : Nat) : Wg := if n = 0x12 then { w with expired := 0 } else w
def State.readClears (s : State) (core n : Nat) : State := if n = 0x13 then { s with sigin := Tab.set 0#32 s.sigin core 0#32 } else s

/-- SRD, R190. -/
def execSrd (c : Ctl) (dst : BitVec 7) (num : BitVec 8) (s : State) : Out3 :=
  s.runF (.srd c dst num) (fun x =>
    let n := num.toNat
    let ctx := x.s.ctxOfWg x.w
    if x.act = 0 then .ok (x.finish (.srd c dst num) Out.none)
    else if srLogged n && !x.s.logRoom ctx then .ok x.s
    else
      let (vals, s) := if srLogged n then x.s.logInput ctx x.w false x.w.retired 32 [x.s.special x.core x.w n] else ([], x.s)
      let v := fun (l : Nat) => if srLogged n then vals.getD 0 0 else x.specialAt n l
      let regs := x.dreg .int (fun l => BitVec.ofNat 32 (v l)) ::
        (if srdWide num then [x.dreg .int (fun l => BitVec.ofNat 32 (v l / 2 ^ 32))] else [])
      let fr := if n = 0x1A then { x.fr with wake := 0#7 } else x.fr
      .ok ({ x with s := s.readClears x.core n, w := x.w.readClears n, fr := fr }.finish (.srd c dst num) { Out.none with regs := regs }))

/-- SRD.u, R190. -/
def execSrdU (c : Ctl) (dst : BitVec 7) (num : BitVec 8) (s : State) : Out3 :=
  s.runR (.srdU c dst num) .nop (fun x =>
    let n := num.toNat
    let ctx := x.s.ctxOfWg x.w
    if srLogged n && !x.s.logRoom ctx then .ok x.s
    else
      let (vals, s) := if srLogged n then x.s.logInput ctx x.w true x.w.place 32 [x.s.special x.core x.w n] else ([], x.s)
      let v := if srLogged n then vals.getD 0 0 else if n = 0x1A then x.w.rwake.toNat else x.s.special x.core x.w n
      let w := if n = 0x1A then { x.w with rwake := 0#7 } else x.w.readClears n
      .ok (x.fall (s.readClears x.core n) w (x.to dst (BitVec.ofNat 64 v))))

/-- SWR, R191: a write to any register but %fpst and %prio is ignored. -/
def execSwr (c : Ctl) (a : Src) (num : BitVec 8) (s : State) : Out3 :=
  s.runF (.swr c a num) (fun x =>
    let fr := if num = 0x18#8 then { x.fr with fpst := Tab.setAll 0#5 x.fr.fpst ((lanesOf x.act).map (fun l => (l, (x.raw a 0 l).setWidth 5))) }
      else if num = 0x1B#8 ∧ x.act ≠ 0 then { x.fr with prio := (lowestOf x.act (x.raw a 0)).setWidth 2 }
      else x.fr
    .ok ({ x with fr := fr }.finish (.swr c a num) Out.none))

/-! ### Tiles and launches -/

/-- TFETCH, R299: the request goes to the launch unit, and the reckoner stays here until TILE_GRANT writes the grant. -/
def execTfetch (c : Ctl) (dst : BitVec 7) (s : State) : Out3 :=
  s.runR (.tfetch c dst) .nop (fun x =>
    let (id, s) := x.s.newId
    .ok (s.setCore x.core { x.w with rst := .commit id }))

/-- TILE_GRANT, R301, R302. -/
def execTileGrant (core : Nat) (s : State) : Out3 := .next (s.grantTile core)

/-- LAUNCH, R303: the record is read and checked once the frames have taken the entry. -/
def execLaunch (c : Ctl) (dst : BitVec 7) (a : Src) (s : State) : Out3 :=
  s.runR (.launch c dst a) .nop (fun x =>
    let off := (x.val true a).toNat
    if off % 64 ≠ 0 then .error .align
    else if x.w.code.extent < off + 192 then .error .addr
    else .ok (x.act (.launch dst.toNat off x.c.wbs) (some dst)))

/-! ### Marks, checkpoints, pins -/

/-- TRACEMARK, R404, R405. -/
def execTracemark (c : Ctl) (a : Src) (code : BitVec 16) (s : State) : Out3 :=
  s.runF (.tracemark c a code) (fun x =>
    let ctx := x.s.ctxOfWg x.w
    let s := if x.act = 0 then x.s
      else x.s.traceRecord ctx (x.s.recordHead ctx 1 x.f x.w.home x.w.retired x.sp.pc.toNat x.act.toNat ++ natToBytes 2 code.toNat ++
        natToBytes 2 0 ++ natToBytes 4 (lowestOf x.act (x.raw a 0)).toNat ++ natToBytes 28 0)
    .ok ({ x with s := s }.finish (.tracemark c a code) Out.none))

/-- CKPT, R409: it requests a checkpoint. -/
def execCkpt (c : Ctl) (s : State) : Out3 :=
  s.runF (.ckpt c) (fun x =>
    let s := if x.act = 0 then x.s
      else x.s.updCtx (x.s.ctxOfWg x.w) (fun k => if k.interval ≠ 0 ∧ k.replay.isNone then { k with asked := true } else k)
    .ok ({ x with s := s }.finish (.ckpt c) Out.none))

/-- SNAP, R344. -/
def execSnap (c : Ctl) (dst : BitVec 7) (s : State) : Out3 :=
  s.runR (.snap c dst) .nop (fun x => .ok (x.act (.snap dst.toNat x.c.wbs) (some dst)))

/-- UNSNAP, R344: after the SNAPs before it in program order (DEDUCED, log 17). -/
def execUnsnap (c : Ctl) (a : Src) (s : State) : Out3 :=
  s.runR (.unsnap c a) .nop (fun x => .ok (
    if x.w.acts.any (fun (k : Act) => match k.kind with | .snap _ _ => true | _ => false) then x.s
    else x.fall x.s { x.w with pins := x.w.pins.erase (x.val true a).toNat } UOut.nop))

/-! ### Privileged instructions -/

/-- The 64-bit address of the lowest-numbered active lane. -/
def FCtx.addrLow (x : FCtx) (a : Src) : Word64 :=
  match lowestLane x.act with
  | some l => x.raw64 true a l
  | none => 0#64

/-- The TLB entries that a TLBINV removes: those of its offset mod 2^48, of every package tag, with no check of the address (DESIGN CHOICE, log 82). -/
def tlbNamed (scope core ctx va : Nat) (e : TlbEnt) : Bool :=
  decide (e.ctx = ctx) && (decide (scope = 2) || e.page.holds va) &&
  (decide (scope ≠ 0) || (match e.at_ with | .core k => decide (clusterOf k = clusterOf core) | .cluster k => decide (k = clusterOf core) | .unit => false))

/-- The walks that a TLBINV waits for; every walk of the context in its scope counts, since the page that it will reach is not known. -/
def walkNamed (scope core ctx : Nat) (k : Walk) : Bool :=
  decide (k.ctx = ctx) && !k.failed && (decide (scope ≠ 0) || k.asks.any (fun a => decide (clusterOf a.core = clusterOf core)))

/-- TLBINV, R322: named entries go at once; the split waits for the walks that had begun, which end without installing an entry. -/
def execTlbinv (c : Ctl) (a : Src) (scope : BitVec 2) (s : State) : Out3 :=
  s.runF (.tlbinv c a scope) (fun x =>
    let done := fun (s : State) => x.retire s x.w x.fr ⟨[], []⟩ x.fall
    match x.sp.st with
    | .resumed _ => .ok (done x.s)
    | _ =>
      if x.act = 0 then .ok (done x.s)
      else
        let ctx := x.s.ctxOfWg x.w
        let va := (x.addrLow a).toNat % 2 ^ 48
        let s := { x.s with tlb := x.s.tlb.filter (fun e => !tlbNamed scope.toNat x.core ctx va e) }
        if s.walks.any (walkNamed scope.toNat x.core ctx) then
          let (id, s) := s.newId
          let s := { s with walks := s.walks.map (fun k => if walkNamed scope.toNat x.core ctx k then { k with stale := id :: k.stale } else k) }
          .ok (s.setCore x.core (x.w.setFrame x.f (x.fr.setSplit { x.sp with st := .blocked id })))
        else .ok (done s))

/-- The header of a save area as CSAVE and CREST read it: the newest committed bytes. -/
def State.headerField (s : State) (pa o n : Nat) : Nat := s.dev.newestLE (pa + o) n

/-- A committed store that CSAVE or CREST makes for a workgroup (R394), under a stamp that its context has taken (R411). -/
def State.saveStore (s : State) (w : Wg) (pa : Nat) (bs : List Byte) : State := (s.storeCommitted s.pkg (dieOf w.core) pa bs).2.markStamp (s.ctxOfWg w)

/-- Writes STATUS under a stamp of its own (R394). -/
def State.saveStatus (s : State) (w : Wg) (pa v : Nat) : State := s.saveStore w (pa + 0x24) (natToBytes 4 v)

/-- The address of CSAVE and CREST, checked by R309 for 4,096 bytes in the lowest active lane (R393). -/
def FCtx.saveAddr (x : FCtx) (a : Src) : Checked :=
  match lowestLane x.act with
  | some l => ({ x with act := maskOf [l] } : FCtx).check [0] 4096 (x.raw64 true a) true false false plainVmode
  | none => .ok []

/-- CSAVE after its checks (R394): the status, and the state with the image saved. -/
def State.csave (s : State) (w : Wg) (pa : Nat) : Nat × State :=
  let t := s.headerField pa 0x20 4 % 2 ^ 13
  match s.onCore t with
  | none => (0x01, s)
  | some v =>
    match s.grid? v.grid with
    | none => (0x01, s)
    | some g =>
      if v.grid = w.grid then (0x02, s)
      else if 1 < g.lrec.gang ∨ g.coop then (0x03, s)
      else
        let s := s.haltCore t
        match s.onCore t with
        | none => (0x01, s)
        | some v =>
          let (img, s) := s.imageBody v
          let s := s.saveStore w pa (v.header 2 t 0 (Tab.get 0 s.gen t) ++ img)
          let s := { s with cores := Assoc.drop s.cores t, saved := Assoc.put s.saved pa { v with savearea := pa, imgSize := v.imageSize } }
          (0x00, s.markParked v.grid v.gang)

/-- CREST after its checks (R394). -/
def State.crest (s : State) (w : Wg) (pa : Nat) : Nat × State :=
  let t := s.headerField pa 0x20 4 % 2 ^ 13
  match Assoc.at s.saved pa with
  | none => (0x06, s)
  | some v =>
    if s.headerField pa 0 4 ≠ 0x4E435458 ∨ s.headerField pa 4 2 ≠ 1 ∨ s.headerField pa 8 8 ≠ v.imgSize ∨ s.headerField pa 6 2 ≠ 2 then (0x06, s)
    else if 6144 ≤ t ∨ !s.coreIn t ∨ s.busyCores.contains t then (0x04, s)
    else match s.grid? v.grid with
      | none => (0x06, s)
      | some g =>
        if !(match s.part? g.ptop (recChild g.lrec) with | some d => d.clusters.testBit (clusterOf t) | none => false) then (0x05, s)
        else
          let s := ({ s with saved := Assoc.drop s.saved pa }.gangOn v.grid v.gang (clusterOf t) [t]).restoreOn (s.fromImage v pa) t
          (0x00, s.saveStore w (pa + 6) (natToBytes 2 3))

/-- Whether a checkpoint of a workgroup's context is pending: CSAVE and CREST of it wait until that has been taken (R408). -/
def State.saveHeld (s : State) (w : Option Wg) : Bool :=
  match w with
  | some w => s.ckptPending (s.ctxOfWg w)
  | none => false

/-- CSAVE and CREST: the operation on a workgroup, then STATUS, and the split goes on. -/
def FCtx.saveOp (x : FCtx) (a : Src) (v : Nat → Option Wg) (f : State → Wg → Nat → Nat × State) : Except Code State :=
  match x.saveAddr a with
  | .fault e => .error e
  | .stop s => .ok s
  | .ok [] => .ok (x.retire x.s x.w x.fr ⟨[], []⟩ x.fall)
  | .ok (p :: _) =>
    if x.s.saveHeld (v p.2.2.2) then .ok (x.s.updSplit x.core x.f x.sp.id (fun q => { q with stalled := true })) else
    let r := f x.s x.w p.2.2.2
    .ok (x.retire (r.2.saveStatus x.w p.2.2.2 r.1) x.w x.fr ⟨[], []⟩ x.fall)

/-- CSAVE, R393, R394. -/
def execCsave (c : Ctl) (a : Src) (s : State) : Out3 := s.runF (.csave c a) (fun x => x.saveOp a (fun pa => x.s.onCore (x.s.headerField pa 0x20 4 % 2 ^ 13)) State.csave)

/-- CREST, R393, R394. -/
def execCrest (c : Ctl) (a : Src) (s : State) : Out3 := s.runF (.crest c a) (fun x => x.saveOp a (fun pa => Assoc.at x.s.saved pa) State.crest)

/-- INTR in the %wake of every waiting party (R419), and the end of its SLEEP. -/
def State.postWake (s : State) (w : Wg) : Wg :=
  let r := s.reckWaits w
  let w := { w with frames := w.frames.zipIdx.map (fun p =>
    if p.1.splits.any (fun q => !p.1.isParked q.id && s.splitBlocks w p.2 p.1 q) then { (p.1.wakeSleep wakeIntr) with wake := p.1.wake ||| wakeIntr } else p.1) }
  if r then { w.wakeReck wakeIntr with rwake := w.rwake ||| wakeIntr } else w

/-- An event posted to a core (R419): dropped where no workgroup stands. -/
def State.postSignal (s : State) (core : Nat) (ev : BitVec 5) : State :=
  match s.onCore core with
  | none => s
  | some w => { s.setCore core (s.postWake w) with sigin := Tab.set 0#32 s.sigin core (setBit32 (Tab.get 0#32 s.sigin core) ev.toNat) }

/-- SIGNAL, R419. -/
def execSignal (c : Ctl) (a : Src) (ev : BitVec 5) (s : State) : Out3 :=
  s.runF (.signal c a ev) (fun x =>
    let s := x.finish (.signal c a ev) Out.none
    if x.act = 0 then .ok s else .ok (s.postSignal ((lowestOf x.act (x.raw a 0)).toNat % 2 ^ 13) ev))

end Sys2Proof.Machine
end

