-- ==== Sys2Proof/Machine/Frames.lean ====
section
/-!
DEFINITION. The events of the frames and the reckoner of a core: taking a decision-queue entry (R197), the end of a deferral (R28), the merge of
splits and its timeout (R81, R209, R237), the end of a SLEEP (R181), and clock gating (R218).
-/
namespace Sys2Proof.Machine

open Sys2Proof

/-! ### Taking an entry -/

/-- A frame takes the entry at its read position: the direction, the exit, or nothing (R168, R173, R176, R197). -/
def Wg.takeEntry (w : Wg) (f : Nat) (fr : Frame) (sp : Split) (e : Entry) (now : Nat) : Wg :=
  let fr := { fr with taken := fr.taken + 1, yielded := false }
  let step := fun (fr : Frame) (pc : Word64) =>
    { fr.setSplit { sp with pc := pc, chain := none, dbg := sp.step, step := false, ends := none, skipB := [], skipW := [] } with
        heldAt := if sp.step then some (fr.heldAt.getD now) else fr.heldAt }
  let next := sp.pc + 16#64
  match e.kind with
  | .branch true t => w.setFrame f (step fr t)
  | .exit true st => (w.status ((lanesOf fr.live).map (fun _ => st.toNat))).setFrame f (fr.kill fr.live now)
  | _ => w.setFrame f (step fr next)

/-- DQ_ENTRY_TAKE, R197: the frame that issues stands at a word with U = 1; a deferral and a yield hold for this issue too (R28, R29). One that reaches it inside a chain, and finds its entry, faults ILLEGAL
(R40, R48; log 7). -/
def execDqEntryTake (s : State) : Out3 :=
  match s.cur with
  | some (.frame core f id) =>
    .next (match s.onCore core with
      | none => s
      | some w =>
        match w.frame? f with
        | none => s
        | some fr =>
          match fr.split? id with
          | none => s
          | some sp =>
            if !w.goes || sp.dbg || fr.isParked id || decide (sp.st ≠ .run) then s
            else match w.storage with
              | some r => s.finalFault w r
              | none =>
              match fr.givesWay s.tick (s.splitReady core w f fr sp) (s.rivals core w f false) (s.rivals core w f true) with
              | some fr => s.setCore core (w.setFrame f fr)
              | none =>
                if s.ckptDue (s.ctxOfWg w) then s
                else if s.replayStop w then s.replayHold (s.ctxOfWg w)
                else if 1 < fr.splits.length then s.raise core f id sp.pc .dqmismatch 0
                else match w.entryAt fr.taken with
                  | some e =>
                    if e.pc ≠ sp.pc then s.raise core f id sp.pc .dqmismatch 0
                    else if sp.chain.isSome then s.raise core f id sp.pc .illegal 0
                    else s.setCore core (w.takeEntry f fr sp e s.tick).freeEntries
                  | none => if w.rst = .stopped then s.raise core f id sp.pc .dqmismatch 0 else s)
  | _ => .fault .noParty

/-! ### Deferral, gathering, sleep -/

/-- Changes a frame of the workgroup on a core. -/
def State.updFrame (s : State) (core f : Nat) (g : Wg → Frame → State) : State :=
  match s.onCore core with
  | none => s
  | some w => match w.frame? f with | some fr => g w fr | none => s

/-- STALL_DEFERRAL_END, R28: a deferral is over after its contested clocks, which `givesWay` counts, or after 16 clocks in all. -/
def execStallDeferralEnd (core f : Nat) (s : State) : Out3 :=
  .next (s.updFrame core f (fun w fr => s.setCore core (w.setFrame f { fr with defer := fr.defer.filter (fun d => decide (s.tick < d.clocks)) })))

/-- REJOIN_MERGE, R81, R209, R237: every live rod stands at one gathering instruction with no part parked, and the splits become one, which
goes on with the instruction; a split that the others have left alone goes on too (R83). -/
def execRejoinMerge (core f : Nat) (s : State) : Out3 :=
  .next (s.updFrame core f (fun w fr =>
    if w.goes && !fr.splits.isEmpty && fr.allGather && fr.oneAddress && !fr.splits.any (·.dbg) then
      s.setCore core (w.setFrame f fr.merge)
    else s))

/-- GATHER_TIMEOUT, R81, R209, R237: a wait of 2^20 cycles faults REGANG; the count does not advance while the debugger holds a split of
the frame (R92, `Frame.unhold`), and it does while the workgroup is parked, held or stopped. Of several splits that have waited so long the first of the
frame's list faults (DESIGN CHOICE, log 75). -/
def execGatherTimeout (core f : Nat) (s : State) : Out3 :=
  .next (s.updFrame core f (fun w fr =>
    if !w.goes || fr.splits.any (·.dbg) then s
    else match fr.splits.find? (fun p => match p.st with | .gather t => decide (2 ^ 20 ≤ s.cyclesSince t) | _ => false) with
      | some p => s.raise core f p.id p.pc .regang 0
      | none => s))

/-- SLEEP_TIMEOUT, R181: the count of a SLEEP has run out. -/
def execSleepTimeout (p : Party) (s : State) : Out3 :=
  .next (match p with
    | .frame core f id => s.updFrame core f (fun w fr =>
        match fr.split? id with
        | some sp =>
          match sp.st with
          | .sleep (some t) =>
            if t ≤ s.cycle then
              s.setCore core (w.setFrame f { fr.setSplit { sp with st := .run } with wake := fr.wake ||| wakeTimeout })
            else s
          | _ => s
        | none => s)
    | .reck core =>
      match s.onCore core with
      | some w =>
        match w.rst with
        | .sleep (some t) => if t ≤ s.cycle then s.setCore core (w.wakeReck wakeTimeout) else s
        | _ => s
      | none => s)

/-! ### Clock gating (R218) -/

/-- Every party that has not ended waits; those of a workgroup that an XLATE has stopped do (R323). An issue that is to stop the workgroup, by STORAGE or in
a replay, is still to come (R324, R411, R412). -/
def State.idle (s : State) (w : Wg) : Bool :=
  match w.run with
  | .xlate _ _ _ => true
  | _ => w.frames.zipIdx.all (fun p => p.1.splits.all (s.splitWaits w p.2 p.1)) && s.reckWaits w && !w.allDead && w.storage.isNone &&
    !s.replayStop w && !s.stillExpects (s.ctxOfWg w) w.missed

/-- CLOCK_WAKE, R218: a wake event has reached a gated core, and it issues again. -/
def execClockWake (core : Nat) (s : State) : Out3 :=
  .next (match s.onCore core with
    | some w => if w.gated && !s.idle w then s.setCore core { w with gated := false } else s
    | none => s)

/-- The turn of a party finds its core: one whose every party waits is gated, and a gated one does not issue. -/
def State.gate (s : State) (core : Nat) : State × Bool :=
  match s.onCore core with
  | none => (s, false)
  | some w =>
    if w.gated then (s, true)
    else if s.idle w then (s.setCore core { w with gated := true }, true)
    else (s, false)

end Sys2Proof.Machine
end

