-- ==== Sys2Proof/Machine/Package.lean ====
section
/-!
DEFINITION. The events of the package around its cores: the phase table (R330), the collector and pool relief (R346, R348), page walks and
their faults (R321 to R323), commits at other packages (R426, R427), and what fails: dies, ports, links, bytes that nobody reads
(R324, R331, R429).
-/
namespace Sys2Proof.Machine

open Sys2Proof

/-! ### The phase table -/

/-- The entry of a stamp has reached a die; an entry that every die has is dropped. -/
def arriveAt (die stamp : Nat) (es : List PhaseEntry) : List PhaseEntry :=
  es.filterMap (fun e =>
    let e := if e.stamp = stamp then { e with missing := e.missing &&& ~~~ BitVec.ofNat 64 (2 ^ die) } else e
    if e.missing = 0 then none else some e)

/-- PHASE_ENTRY_ARRIVAL, R330. -/
def execPhaseEntryArrival (die stamp : Nat) (s : State) : Out3 := .next { s with phaseTab := arriveAt die stamp s.phaseTab }

/-! ### The collector (R346) -/

/-- The stamps at which a snapshot may still be opened are not below this: L, and no die's frontier. -/
def State.foldLimit (s : State) : Nat := min s.lowWater (frontierOf s.last s.phaseTab (fun _ => true))

/-- Folds the newest committed bytes at or below `lim` of a granule into its base image, and frees the versions that hold them. -/
def DevMem.collect (m : DevMem) (lim gran : Nat) : DevMem :=
  let old := fun (v : Version) => decide (v.gran = gran) && v.stamp?.any (fun t => decide (t ≤ lim))
  { m with
    base := (List.range 64).foldl (fun b k => Tab.set 0#8 b (64 * gran + k) (m.byteAt (some lim) (64 * gran + k))) m.base,
    vers := m.vers.filter (fun v => !old v) }

/-- COLLECTOR, R346. -/
def execCollector (gran : Nat) (s : State) : Out3 := .next { s with dev := s.dev.collect s.foldLimit gran }

/-! ### Pool relief (R348) -/

def minOf (l : List Nat) : Option Nat :=
  match l with
  | [] => none
  | a :: t => some (t.foldl min a)

/-- The first entry that `p` admits changes. -/
def mapFirst {α : Type} (p : α → Bool) (f : α → α) : List α → List α
  | [] => []
  | a :: t => if p a then f a :: t else a :: mapFirst p f t

/-- Step 1: the program pin with the least stamp expires; of several, the one of the first workgroup (DESIGN CHOICE, log 95). -/
def State.expirePin (s : State) (P : Nat) : State :=
  match s.wgs.find? (fun w => w.pins.contains P) with
  | some w => s.updWg w.grid w.idx (fun w => { w with pins := w.pins.erase P, expired := w.expired + 1 })
  | none => s

/-- Step 1: the host pin with the least stamp expires; of several, the oldest (DESIGN CHOICE, log 95). -/
def State.expireHostPin (s : State) (P : Nat) : State :=
  { s with hostPins := mapFirst (fun (p : HostPin) => !p.expired && decide (p.stamp = P)) (fun p => { p with expired := true }) s.hostPins }

/-- Step 2: the checkpoint with the least stamp expires, and its debugger is told; of several, the one of the first context (DESIGN CHOICE, log 95). -/
def State.expireCkpt (s : State) (ck : Nat) : State :=
  match s.ctxs.find? (fun p => match p.2 with
    | some c => c.ckpts.any (fun k => !k.expired && decide (k.ck = ck))
    | none => false) with
  | some (n, _) =>
    (s.updCtx n (fun c => { c with ckpts := mapFirst (fun (k : Ckpt) => !k.expired && decide (k.ck = ck)) (fun k =>
      { k with expired := true, wgs := [], parked := [], held := [], grids := [], frozen := [] }) c.ckpts })).report n
      (.expired ck)
  | none => s

def State.livePins (s : State) : List Nat := s.wgs.flatMap (fun w => w.pins)
def State.liveHostPins (s : State) : List Nat := (s.hostPins.filter (fun p => !p.expired)).map (fun p => p.stamp)
def State.liveCkpts (s : State) : List Nat :=
  s.ctxs.flatMap (fun p => match p.2 with
    | some c => (c.ckpts.filter (fun k => !k.expired)).map (fun k => k.ck)
    | none => [])

/-- The workgroup with the least S among those that `p` selects; of several, the first (DESIGN CHOICE, log 95). -/
def State.lowestPhase (s : State) (p : Wg → Bool) : Option Wg :=
  (s.wgs.filter p).foldl (fun (best : Option Wg) w => match best with
    | none => some w
    | some b => if w.phase.s < b.phase.s then some w else some b) none

/-- The next action of relief: steps 1 to 3 on the holder of the least stamp, then step 4. -/
def State.relieve (s : State) : State :=
  match minOf s.livePins with
  | some P => s.expirePin P
  | none =>
    match minOf s.liveHostPins with
    | some P => s.expireHostPin P
    | none =>
      match minOf s.liveCkpts with
      | some ck => s.expireCkpt ck
      | none =>
        match s.lowestPhase (fun w => w.phase.tx) with
        | some w => s.abortTx w.grid w.idx true
        | none => if s.relief.isNone then { s with relief := some s.tick } else s

/-- POOL_RELIEF, R348: relief begins below 1/64, takes one action at a time, and stops above 1/32. -/
def execPoolRelief (s : State) : Out3 :=
  .next (if s.lowPool then
      if s.poolHigh then { s with lowPool := false, relief := none } else s.relieve
    else if s.poolLow then ({ s with lowPool := true }).relieve
    else s)

/-- VPOOL_TIMEOUT, R348 step 5: 1 ms of step 4, each time. -/
def execVpoolTimeout (s : State) : Out3 :=
  .next (match s.relief with
    | none => s
    | some t =>
      if s.tick - t < 1000000 || s.poolHigh then s
      else match s.lowestPhase (fun w => !w.phase.tx) with
        | some w => ({ s with relief := some s.tick }).finalFault w ⟨.vpool, 0xFF, 0, 0⟩
        | none => s)

/-! ### Page walks (R321 to R323) -/

/-- TLBINVs that no walk keeps waiting go on. -/
def State.freeTlbinv (s : State) (ids : List Nat) : State :=
  (ids.filter (fun id => !s.walks.any (fun w => w.stale.contains id))).foldl (fun s id =>
    s.mapWgs (fun w => w.mapFrames (fun fr => fr.mapSplits (fun p => if p.st = .blocked id then { p with st := .resumed id } else p)))) s

/-- What an error in the walk data does to the workgroups that asked: an uncorrectable one stops them with STORAGE at their next issue, a corrected one
is recorded (R324); `bits` go to ENDFLAGS. -/
def State.walkErr (s : State) (as : List Ask) (err corrected : Bool) (bits : Nat) : State :=
  as.foldl (fun s a => s.updWg a.grid a.wg (fun w => { w with
    storage := if err && w.storage.isNone then some ⟨.storage, a.frame, a.pc, 0⟩ else w.storage
    endflags := Nat.lor w.endflags ((if err then bits else 0) + (if corrected then 64 else 0)) })) s

/-- The TLBs that hold a walk's translation. -/
def Walk.places (k : Walk) : List TlbAt :=
  (sortNat (k.asks.map (·.core))).map TlbAt.core ++ (sortNat (k.asks.map (fun a => clusterOf a.core))).map TlbAt.cluster

/-- PAGE_WALK, R321, R322, R324: the walk of some cores ends. It installs its page, or leaves its failure to the instructions that asked; after a
TLBINV that came later than its beginning, or an uncorrectable error, it does neither; nor where no port leads to the package whose table it is, which stops
those that asked with STORAGE (R429). -/
def execPageWalk (e : WalkEnd) (s : State) : Out3 :=
  .next (match s.walks.find? (fun w => decide (w.id = e.id) && !w.failed) with
    | none => s
    | some k =>
      let cut := !s.pkgLive k.pkg
      let s := s.walkErr k.asks (e.met.err || cut) e.met.corrected (if cut then 32 else 16)
      let gone := { s with walks := s.walks.filter (fun w => decide (w.id ≠ e.id)) }
      if !k.stale.isEmpty || e.met.err || cut then gone.freeTlbinv k.stale
      else match s.walkNow k.ctx k.pkg k.va with
        | some p => { gone with tlb := gone.tlb ++ k.places.map (fun t => TlbEnt.mk t k.ctx k.pkg p) }
        | none => { s with walks := s.walks.map (fun w => if w.id = e.id then { w with failed := true } else w) })

/-- XLATE_RESOLVED, R323: the instruction replays whole, or the fault becomes final. -/
def execXlateResolved (grid wg : Nat) (ok : Bool) (s : State) : Out3 :=
  .next (match s.wg? grid wg with
    | none => s
    | some w =>
      match w.run with
      | .xlate party _ pc => if ok then s.resumeXlate grid wg else s.finalFault w ⟨.xlate, party, pc, 0⟩
      | _ => s)

/-! ### Commits at other packages (R426, R427, R429) -/

/-- A commit, or its acknowledgement, that a package cannot be reached with: the phase's versions there are discarded, and a fence that
awaited it faults STORAGE. -/
def State.loseCommit (s : State) (k : PeerCm) : State :=
  let s := { s with peerCms := s.peerCms.filter (fun p => decide (p.id ≠ k.id)) }
  let s := if k.tr.isNone then s.setMemOf k.pkg ((s.memOf k.pkg).discard (.phase k.tag)) else s
  (s.commits.filter (fun c => decide (c.reach = .system) && c.peers.contains k.id)).foldl (fun s c =>
    match c.who with
    | .party x _ =>
      (match s.wg? x.grid x.wg with
       | some w =>
         let pc := match (w.frame? x.frame).bind (fun fr => fr.split? x.split) with | some p => p.pc.toNat | none => w.rpc.toNat
         s.finalFault { w with endflags := Nat.lor w.endflags 32 } ⟨.storage, x.frame, pc, 0⟩
       | none => s)
    | .act g i n =>
      (match s.wg? g i with
       | some w =>
         let pc := match w.acts.find? (fun a => decide (a.id = n)) with | some a => a.pc.toNat | none => w.rpc.toNat
         s.finalFault { w with endflags := Nat.lor w.endflags 32 } ⟨.storage, reckParty, pc, 0⟩
       | none => s)
    | _ => s) s

/-- Another package's commit, or discard, of its phase at a package (R426), which comes by a ready port (R424). -/
def State.peerEnd (s : State) (r : PeerEnd) : State :=
  match r with
  | .commit src pkg tag =>
    if src = s.pkg ∨ (pkg = s.pkg ∧ !s.pkgLive src) then s
    else
      let (t, s) := s.takeStampOf pkg 0
      s.setMemOf pkg ((s.memOf pkg).reown (.peer src tag) (.committed t))
  | .discard src pkg tag => if pkg = s.pkg ∧ !s.pkgLive src then s else s.setMemOf pkg ((s.memOf pkg).discard (.peer src tag))

/-- PEER_COMMIT, R426: the package that a commit reaches, another one or this one, takes Tr, which commits every version of the phase there in one
step. -/
def execPeerCommit (c : PeerCommitOf) (s : State) : Out3 :=
  .next (match c with
    | .theirs r => s.peerEnd r
    | .ours id =>
    match s.peerCms.find? (fun k => decide (k.id = id) && k.tr.isNone) with
    | none => s
    | some k =>
      if !s.pkgLive k.pkg then s.loseCommit k
      else
        let (t, s) := s.takeStampOf k.pkg 0
        let s := s.setMemOf k.pkg ((s.memOf k.pkg).reown (.phase k.tag) (.committed t))
        { s with peerCms := s.peerCms.map (fun p => if p.id = id then { p with tr := some t } else p) })

/-- PEER_FRONTIER_ACK, R427: the remote frontier has reached Tr. -/
def execPeerFrontierAck (id : Nat) (s : State) : Out3 :=
  .next (match s.peerCms.find? (fun k => decide (k.id = id) && k.tr.isSome) with
    | none => s
    | some k => if s.pkgLive k.pkg then { s with peerCms := s.peerCms.filter (fun p => decide (p.id ≠ id)) } else s.loseCommit k)

/-! ### Failures -/

/-- A readiness word that reports a failure (R368). -/
def failedWord (code : Nat) : Word32 := BitVec.ofNat 32 (2 ^ 30 + code % 2 ^ 16)

def State.isReady (s : State) (off : Nat) : Bool := (Tab.get 0#32 s.ready off).getLsbD 31
/-- Whether every memory stack is ready: the least page, 64 KiB, lies on all 32 of them (R326, R368). -/
def State.stacksReady (s : State) : Bool := (List.range 32).all (fun k => s.isReady (0x100 + 4 * k))
def State.setReady (s : State) (off : Nat) (v : Word32) : State := { s with ready := Tab.set 0#32 s.ready off v }

/-- Service requests that `p` selects, at their home or waiting there, end with STORAGE; `bits` go to ENDFLAGS. -/
def State.failService (s : State) (p : SReq → Bool) (bits : Nat) : State :=
  let (gone, s) := s.takeService p
  gone.foldl (fun s r => s.sendReply ⟨r.src, r.pkg, 0, false, flagNone, bits⟩) s

/-- Stops workgroups with STORAGE. -/
def State.stopWgs (s : State) (ws : List (Nat × Nat)) : State :=
  ws.foldl (fun s p => match s.wg? p.1 p.2 with
    | some w => s.finalFault w ⟨.storage, 0xFF, 0, 0⟩
    | none => s) s

/-- DIE_FAILED, R331. -/
def execDieFailed (die code : Nat) (s : State) : Out3 :=
  .next (if 64 ≤ die ∨ !s.isReady (0x200 + 4 * die) then s
    else
      let s := s.setReady (0x200 + 4 * die) (failedWord code)
      let s := { s with dieIn := s.dieIn &&& ~~~ BitVec.ofNat 64 (2 ^ die),
                        phaseTab := s.phaseTab.filterMap (fun (e : PhaseEntry) =>
                          let m := e.missing &&& ~~~ BitVec.ofNat 64 (2 ^ die)
                          if m = 0 then none else some { e with missing := m }) }
      let s := s.failService (fun r => decide (r.pkg = s.pkg ∧ s.homeOf r.pkg r.pa / 24 = die)) 16
      s.stopWgs ((s.live.filter (fun (p : Nat × Wg) => decide (dieOf p.1 = die))).map (fun (p : Nat × Wg) => (p.2.grid, p.2.idx))))

/-- The lanes of loads from a package whose data have not returned. -/
def State.peerLoads (s : State) (pkg : Nat) : List Source :=
  s.wgs.flatMap (fun w => (w.reqs.filter (fun (r : Req) => decide (r.kind = .load 8))).flatMap (fun r =>
    (r.addrs.filter (fun p => r.wait.getLsbD p.1 && decide (p.2 / 2 ^ 48 = pkg))).map (fun p => Source.lane w.grid w.idx r.id p.1)))

/-- A package that no port reaches any more: its requests end with STORAGE, those too that have been performed there and whose answers cannot return,
and its commits are lost (R429). Its own bead requests at homes here are withdrawn, and
the versions of its phases here, whose commits cannot come any more, are discarded. -/
def State.losePkg (s : State) (pkg : Nat) : State :=
  let gone := (s.peerq.filter (fun r => decide (r.pkg = pkg) && r.data.isSome)).map (·.src) ++ s.peerLoads pkg
  let s := { s with peerq := s.peerq.filter (fun r => decide (r.pkg ≠ pkg)),
                    replies := s.replies.map (fun (p : Nat × Reply) => if p.2.pkg = pkg then (p.1, { p.2 with err := Nat.lor p.2.err 32 }) else p),
                    dev := { s.dev with vers := s.dev.vers.filter (fun v => match v.owner with | .peer p _ => decide (p ≠ pkg) | _ => true) } }
  let s := gone.foldl (fun s k => s.failLane k 32) s
  let s := s.failService (fun r => (decide (r.pkg = pkg) && (match r.src with | .peer _ => false | _ => true)) || decide (r.src = .peer pkg ∧ r.pkg = s.pkg)) 32
  (s.peerCms.filter (fun k => decide (k.pkg = pkg))).foldl (fun s k => s.loseCommit k) s

/-- PORT_DOWN, R429: the event log names the port. Requests go on by another live port, in their order; where there is none, they end. -/
def execPortDown (port code : Nat) (s : State) : Out3 :=
  .next (if 18 ≤ port ∨ !s.isReady (0x300 + 4 * port) then s
    else
      let s := s.setReady (0x300 + 4 * port) (failedWord code)
      let s := { s with evlog := s.evlog ++ [LogEv.portDown port] }
      (s.fabric.filter (fun (e : Nat × List Nat) => e.2.contains port && !s.pkgLive e.1)).foldl (fun s e => s.losePkg e.1) s)

/-- A page walk that a failing link carried ends: those that asked stop with STORAGE at their next issue (R324). -/
def State.linkWalk (s : State) (id : Nat) : State :=
  match s.walks.find? (fun k => decide (k.id = id) && !k.failed) with
  | some k => ({ s.walkErr k.asks true false 32 with walks := s.walks.filter (fun v => decide (v.id ≠ id)) } : State).freeTlbinv k.stale
  | none => s

/-- A copy whose unit a failing link carried ends with ERR STORAGE before that unit, and its workgroup goes on (R264, R324; DESIGN CHOICE, log 97). -/
def State.linkCopy (s : State) (id : Nat) : State :=
  match s.copyOf id with
  | some (w, c) =>
    if c.st = .moving ∧ w.copiesRun = true then
      (s.updWg w.grid w.idx (fun v => { v with endflags := Nat.lor v.endflags 32 })).moveUnit (s.envOfWg w) c true (.copy w.grid w.idx id)
    else s
  | none =>
    match s.pktCopyOf id with
    | some c =>
      (match c.pkt with
       | some (q, p) => if c.st = .moving then s.moveUnit (s.envOfPkt q c.cluster) c true (.packet q p) else s
       | none => s)
    | none => s

/-- A request, access, answer, page walk or copy unit of this number that a die link carried ends with STORAGE. -/
def State.linkFails (s : State) (id : Nat) : State :=
  let m := s.mesh.filter (fun r => decide (r.id = id))
  let a := s.acks.filter (fun p => decide (p.1 = id))
  let h := s.hostq.filter (fun r => decide (r.id = id))
  let p := s.peerq.filter (fun r => decide (r.id = id))
  let s := { s with hostq := s.hostq.filter (fun r => decide (r.id ≠ id)), peerq := s.peerq.filter (fun r => decide (r.id ≠ id)), mesh := s.mesh.filter (fun r => decide (r.id ≠ id)), acks := s.acks.filter (fun p => decide (p.1 ≠ id)),
                    replies := s.replies.map (fun (p : Nat × Reply) => if p.1 = id then (p.1, { p.2 with err := Nat.lor p.2.err 32 }) else p) }
  let s := (m.map (fun (r : MeshReq) => r.src) ++ a.map (fun (p : Nat × MeshAckRec) => p.2.src) ++
    h.map (fun (r : HostReq) => r.src) ++ p.map (fun (r : PeerReq) => r.src)).foldl (fun s src => s.failLane src 32) s
  let s := ((s.failService (fun r => decide (r.id = id)) 32).linkWalk id).linkCopy id
  match s.wgs.findSome? (fun w => (w.req? id).map (fun r => (w, r))) with
  | some (w, r) =>
    (match r.kind with
     | .load 0 | .load 1 => (lanesOf r.wait).foldl (fun s l => s.failLane (.lane w.grid w.idx id l) 32) s
     | .load 8 => ((lanesOf r.wait).filter (fun l => r.got.any (fun p => decide (p.1 = l)))).foldl (fun s l => s.failLane (.lane w.grid w.idx id l) 32) s
     | _ => s)
  | none => s

/-- VYHAL_LINK_FAILURE, R324. -/
def execVyhalLinkFailure (ids : List Nat) (s : State) : Out3 := .next (ids.foldl State.linkFails s)

/-- SCRUBBING, R324: an uncorrectable error in bytes that no access reads is logged, and faults nothing; one in a TLB entry makes it a miss, walked
again; a corrected error that an access of a workgroup met is recorded. -/
def execScrubbing (e : ErrAt) (s : State) : Out3 :=
  .next (match e with
    | .unread addr => { s with evlog := s.evlog ++ [LogEv.storage addr] }
    | .tlb n => { s with tlb := s.tlb.eraseIdx n }
    | .corrected core => (match s.onCore core with
      | some w => s.setCore core { w with endflags := Nat.lor w.endflags 64 }
      | none => s))

end Sys2Proof.Machine
end

