-- ==== Sys2Proof/Machine/Queues.lean ====
section
/-!
DEFINITION. The queue processor (R370 to R380): the notify registers, what a queue's thread reads, the kinds of packet, indirect buffers,
measurement and receipts (R414 to R417), mapping, and the coalescing timer.
-/
namespace Sys2Proof.Machine

open Sys2Proof

/-! ### Notify registers (R371, R372, R377) -/

/-- What a read of the notify page shows at an offset (R4, R371): RESUME and GRIDCTL read zero. -/
def State.notifyRead (s : State) (q off : Nat) : Nat :=
  match s.queue? q with
  | none => 0
  | some x =>
    match off with
    | 0x000 => x.wridx
    | 0x004 => x.rdidx
    | 0x008 => (s.qStatus q).toNat
    | 0x010 => (s.qRgrid q).toNat
    | 0x014 => (s.qRwg q).toNat
    | 0x018 => (s.qRcode q).toNat
    | 0x020 => (s.qRpc q).toNat
    | _ => 0

/-- WRIDX runs more than the ring's slots ahead of RDIDX. -/
def Queue.overrun (x : Queue) : Bool := decide (2 ^ x.desc.sizeLog2 < (x.wridx + 2 ^ 32 - x.rdidx) % 2 ^ 32)

def State.mappedCount (s : State) : Nat := (s.queues.filter (fun p => match p.2 with | some x => x.mapped | none => false)).length

/-- Maps the queues that wait, in their order, while fewer than 32 are mapped (R370). -/
def State.mapWaiting (s : State) : State :=
  match s.waitMap with
  | [] => s
  | q :: rest =>
    if s.mappedCount < 32 then
      { (s.updQueue q (fun x => { x with mapped := true, since := if x.pre.blocks || x.op.blocks then some s.tick else x.since })) with waitMap := rest }
    else s

/-- A write of WRIDX notifies firmware, which maps the queue. -/
def State.notifyQueue (s : State) (q : Nat) : State :=
  match s.queue? q with
  | some x => if x.mapped ∨ s.waitMap.contains q then s else ({ s with waitMap := s.waitMap ++ [q] }).mapWaiting
  | none => s

/-- WRIDX, R371, R372. -/
def execWridx (q : Nat) (val : Word32) (s : State) : Out3 :=
  .next (match s.queue? q with
    | none => s
    | some x =>
      let x := { x with wridx := val.toNat }
      let s := (s.setQueue q x).notifyQueue q
      if x.overrun ∧ x.stop = 0 then s.stopQueue q 0x13 else s)

/-- Withdraws the bead requests of a queue's current packet that are not performed; the packet makes them again (R288, R370). -/
def State.withdraw (s : State) (q : Nat) : State :=
  match s.queue? q with
  | none => s
  | some x =>
    let (gone, s) := s.takeService (fun r => decide (x.pre = .bead r.id ∨ x.op = .bead r.id))
    let back := fun (a : Await) => if gone.any (fun r => decide (a = .bead r.id)) then .fresh else a
    s.updQueue q (fun x => { x with pre := back x.pre, op := back x.op, since := none })

/-- The packet at RDIDX is to be read again: what the thread has read goes, unless its own operation has been performed (R371). -/
def Queue.reread (x : Queue) : Queue :=
  let ind := x.ind.map (fun b => { b with got := b.got.filter (fun u => decide (u.1 ≠ (b.addr + 64 * b.next) / 256)) })
  match x.op with
  | .bead _ | .past _ => x
  | _ => { x with pre := .fresh, now := none, since := none, ind := ind }

/-- RESUME, R371, R376, R377: it clears STOP, and the report of a FAULT, BEADPAGE or RECORD stop with it; the packet at RDIDX is read again, and a bead wait
of the packet as it was is withdrawn. While STOP is 0 a write is ignored (DEDUCED, log 13). -/
def execResume (q : Nat) (val : Word32) (s : State) : Out3 :=
  .next (match s.queue? q with
    | none => s
    | some x =>
      if val ≠ 1 ∨ x.stop = 0 then s
      else
        let reps := if x.stop = 0x14 ∨ x.stop = 0x15 ∨ x.stop = 0x16 then x.reports.filter (fun r => decide (r.kind = 1)) else x.reports
        (s.withdraw q).updQueue q (fun x => { x.reread with stop := 0, reports := reps }))

/-- GRID_RESUME, R377: a write for a grid that is not held, or not of this queue, is ignored. -/
def execGridResume (q grid : Nat) (s : State) : Out3 :=
  .next (match s.grid? grid with
    | some g => if g.queue = q ∧ g.st = .held then s.resumeGrid g else s
    | none => s)

/-- GRID_ABORT, R377: the report, now of kind 2, goes on naming the stop that held the grid (R371: a TRAP or BRK code in [31:16]). -/
def execGridAbort (q grid : Nat) (s : State) : Out3 :=
  .next (match s.grid? grid with
    | some g =>
      if g.queue = q ∧ g.st = .held then
        match (s.queue? q).bind (fun x => x.reports.find? (fun r => decide (r.grid = grid ∧ r.kind = 1))) with
        | some r => s.teardown g r.code r.trap r.wg r.pc
        | none => s.teardown g 0 0 0 0
      else s
    | none => s)

/-! ### Reading a packet (R372, R373, R378) -/

/-- Bytes of the context of a queue at an address on the device or the host path; none where it does not translate or is refused. -/
def State.queueBytes (s : State) (d : QueueDesc) (a n : Nat) : Option (List Byte) :=
  if bitsOf a 60 4 = 12 then
    if s.hostPage (ctxOfDesc d) (a % 2 ^ 57) < 2 then none
    else some (natToBytes n (s.hostLE (ctxOfDesc d) (a % 2 ^ 57) n))
  else match s.pageAt .unit (ctxOfDesc d) s.pkg (a % 2 ^ 48) with
    | some p => if p.pkey = d.ptop then some (s.dev.bytesAt none (p.phys (a % 2 ^ 48)) n) else none
    | none => none

/-- The translation that such an access uses stays in the queue processor's TLB (R321). -/
def State.keepQueue (s : State) (d : QueueDesc) (a : Nat) : State :=
  if bitsOf a 60 4 = 12 then s else s.keepPage .unit (ctxOfDesc d) s.pkg (a % 2 ^ 48)

/-- The ring's address of a slot; a ring stands in device memory or at a host IOVA. -/
def Queue.slotAddr (x : Queue) (k : Nat) : Nat :=
  (if x.desc.device then 0 else 12 * 2 ^ 60) + x.desc.ring + 64 * ((x.rdidx + k) % 2 ^ x.desc.sizeLog2)

/-- The bytes of `n` slots from RDIDX. -/
def State.ringBytes (s : State) (x : Queue) (n : Nat) : Option (List Byte) :=
  (List.range n).foldr (fun k acc => match acc, s.queueBytes x.desc (x.slotAddr k) 64 with
    | some bs, some b => some (b ++ bs)
    | _, _ => none) (some [])

/-- Length of a packet, from its header. -/
def pktLen (bs : List Byte) : Nat := field bs 2 1

/-- Form of an address of INDIRECT and TIMESTAMP (R374). -/
def pktAddrForm (a : Nat) : Bool := decide (bitsOf a 60 4 = 0 ∧ a < 2 ^ 48) || decide (bitsOf a 60 4 = 12 ∧ bitsOf a 57 3 = 0)

/-- Buffers of MEASURE and RECEIPT, and whether the unused entries are zero (R416). -/
def pktBufs (bs : List Byte) (n : Nat) : List (Nat × Nat) × Bool :=
  let all := (field bs 0x30 8, field bs 0x38 8) :: (List.range 4).map (fun k => (field bs (0x40 + 16 * k) 8, field bs (0x48 + 16 * k) 8))
  (all.take n, (all.drop n).all (fun p => decide (p = (0, 0))) && decide (field bs 0x80 (bs.length - 0x80) = 0))

/-- The instruction of a packet whose check holds; a stop code where its kind or its layout is wrong (R373, R374, R416): of both, the kind's (DESIGN CHOICE,
log 85). `ind` says that it stands in an indirect buffer. -/
def State.packetOf (s : State) (q : Nat) (x : Queue) (bs : List Byte) (ind : Bool) : Except Nat Instr :=
  let hdr := field bs 0 8
  let kind := bitsOf hdr 0 8
  let h : PktHdr := ⟨false, pktLen bs, hdr.testBit 24, hdr.testBit 25, hdr.testBit 26, field bs 8 8, field bs 16 8⟩
  let a := field bs 0x18 8
  let b := field bs 0x20 8
  let zeros := fun (o n : Nat) => decide (field bs o n = 0)
  let hdrOk := decide (bitsOf hdr 27 37 = 0) && (if h.waitBead then beadForm h.wbead else decide (h.wbead = 0)) &&
    (if h.putBead then beadForm h.pbead else decide (h.pbead = 0))
  let one := fun (ok : Bool) (i : Instr) => if hdrOk && ok then .ok i else .error 0x12
  let n := a
  let bufs := pktBufs bs n
  let body := decide (1 ≤ n ∧ n ≤ 5 ∧ h.len = if n = 1 then 1 else 2) && bufs.2
  match kind with
  | 0x01 => one (decide (h.len = 4) && zeros 0x18 40 && zeros 0xA0 96) (.pktLaunch q h (recordOf (bs.drop 64)))
  | 0x02 => one (decide (h.len = 2) && zeros 0x28 24) (.pktCopy q h a b (layoutOf (bs.drop 64)))
  | 0x03 => one (decide (h.len = 1) && zeros 0x20 32 && beadForm a) (.waitbead q h a)
  | 0x04 => one (decide (h.len = 1) && zeros 0x28 24 && beadForm a) (.putbead q h a b)
  | 0x05 => one (decide (h.len = 1) && zeros 0x20 32 && beadForm a) (.takebead q h a)
  | 0x06 =>
    if !s.feature 7 then .error 0x11
    else if a = 1 then one (decide (h.len = 1) && zeros 0x28 24) (.snapshotRelease q h b)
    else one (decide (h.len = 1 ∧ a = 0) && zeros 0x20 32) (.snapshot q h)
  | 0x07 =>
    if !s.feature 8 then .error 0x11
    else one (body && x.desc.measured && zeros 0x28 8) (.measure q h b bufs.1)
  | 0x08 =>
    if !s.feature 8 then .error 0x11
    else one (body && x.desc.measured && decide (field bs 0x28 8 % 64 = 0 ∧ field bs 0x28 8 < 2 ^ 48)) (.receipt q h b (field bs 0x28 8) bufs.1)
  | 0x09 => one (decide (h.len = 1) && zeros 0x18 40) (.pktFence q h)
  | 0x0A =>
    if ind then .error 0x11
    else one (decide (h.len = 1 ∧ a % 64 = 0 ∧ 1 ≤ b ∧ b ≤ 65536) && zeros 0x28 24 && pktAddrForm a) (.indirect q h a b)
  | 0x0B => one (decide (h.len = 1 ∧ a % 8 = 0) && zeros 0x20 32 && pktAddrForm a) (.timestamp q h a)
  | _ => .error 0x11

/-- The check of R373. -/
def pktSum (bs : List Byte) : Nat := (bs.map (fun b => b.toNat)).foldl (· + ·) 0 % 256

/-! ### Issue, completion, stops of the current packet -/

/-- A packet stops its queue before it issues: it stays at RDIDX (R372, R376). -/
def State.stopPkt (s : State) (q code : Nat) : State :=
  (s.updQueue q (fun x => { x with pre := .fresh, op := .fresh, now := none, since := none })).stopQueue q code

/-- A packet issues: RDIDX, or the place in the indirect buffer, passes it, and it is open until it completes (R372). The last packet of an indirect
buffer completes its INDIRECT (R374). -/
def State.issuePkt (s : State) (q : Nat) (h : PktHdr) : Nat × State :=
  let (id, s) := s.newId
  match s.queue? q with
  | none => (id, s)
  | some x =>
    let p : OpenPkt := ⟨id, if h.putBead then some h.pbead else none, h.intr, none, .fresh, 0, []⟩
    let x := { x with pre := .fresh, op := .fresh, now := none, since := none, pkts := x.pkts ++ [p] }
    match x.ind with
    | none => (id, s.setQueue q { x with rdidx := (x.rdidx + h.len) % 2 ^ 32 })
    | some b =>
      if b.next + h.len < b.units then (id, s.setQueue q { x with ind := some { b with next := b.next + h.len } })
      else (id, (s.setQueue q { x with ind := none }).packetDone q b.pkt 0)

/-- A packet issues and completes with its result. -/
def State.donePkt (s : State) (q : Nat) (h : PktHdr) (res : Nat) : State :=
  let (id, s) := s.issuePkt q h
  s.packetDone q id res

/-- The thread of a mapped queue that is not stopped begins a packet once the header's bead is up (R373, R376). -/
def State.runPkt (s : State) (q : Nat) (h : PktHdr) (k : Queue → State) : Out3 :=
  .next (match s.queue? q with
    | none => s
    | some x =>
      if !x.mapped ∨ x.stop ≠ 0 then s
      else if h.waitBead then
        match x.pre with
        | .past _ => k x
        | .fresh =>
          if s.beadCut h.wbead then s.updQueue q (fun x => { x with pre := .past 0 })
          else match s.beadAt x.desc h.wbead with
          | none => s.stopPkt q 0x14
          | some (pkg, pa) =>
            let (id, s') := s.sendBead q x.desc h.wbead pkg pa .bwait
            s'.updQueue q (fun x => { x with pre := .bead id, since := some s.tick })
        | _ => s
      else k x)

/-- The bead operation of a packet, then its issue (R373, R374). -/
def State.beadPkt (s : State) (q : Nat) (h : PktHdr) (a : Nat) (op : SOp) (x : Queue) : State :=
  match x.op with
  | .past v => s.donePkt q h v
  | .fresh =>
    if s.beadCut a then s.updQueue q (fun x => { x with op := .past 0 })
    else match s.beadAt x.desc a with
    | none => s.stopPkt q 0x14
    | some (pkg, pa) =>
      let (id, s') := s.sendBead q x.desc a pkg pa op
      s'.updQueue q (fun x => { x with op := .bead id, since := some s.tick })
  | _ => s

/-! ### Measurement (R414, R416) -/

/-- CTXID. -/
def State.ctxId (s : State) (q : Nat) (x : Queue) : List Byte := natToBytes 8 (q + x.desc.pasid * 2 ^ 12 + Tab.get 0 s.created q * 2 ^ 32)

/-- M0. -/
def measure0 (ctxid : List Byte) : List Byte := shake256 ([0x4E#8, 0x4C#8, 0x54#8, 0x4C#8, 0x2D#8, 0x4D#8, 0x43#8] ++ ctxid) 64

/-- Extends a chain by one item. -/
def extend (m : List Byte × Nat) (kind : Nat) (item : List Byte) : List Byte × Nat :=
  (shake256 (m.1 ++ natToBytes 8 (kind + item.length * 2 ^ 8) ++ shake256 item 64) 64, m.2 + 1)

/-- A buffer's bytes at C, on MULTI pages of the device path; none where a read fails (R416). -/
def State.measureBuf (s : State) (d : QueueDesc) (C : Nat) (b : Nat × Nat) : Option (List Byte) :=
  if 2 ^ 48 ≤ b.1 ∨ b.2 = 0 ∨ 2 ^ 40 ≤ b.2 ∨ 2 ^ 48 < b.1 + b.2 then none
  else (List.range b.2).foldr (fun k acc => match acc, s.pageAt .unit (ctxOfDesc d) s.pkg (b.1 + k) with
    | some bs, some p =>
      if p.vmode = 0 && decide (p.pkey = d.ptop) then some (s.dev.byteAt (some C) (p.phys (b.1 + k)) :: bs) else none
    | _, _ => none) (some [])

def State.measureBufs (s : State) (d : QueueDesc) (C : Nat) (bs : List (Nat × Nat)) : Option (List (List Byte)) :=
  bs.foldr (fun b acc => match acc, s.measureBuf d C b with
    | some l, some x => some (x :: l)
    | _, _ => none) (some [])

/-- The translations that reading the buffers uses (R321). -/
def State.keepBufs (s : State) (d : QueueDesc) (bs : List (Nat × Nat)) : State :=
  bs.foldl (fun s b => s.keepRange .unit (ctxOfDesc d) s.pkg b.1 b.2) s

/-- C, and the items at C; none where the packet stops with LAYOUT, as it does where a read meets an uncorrectable error. -/
def State.measureAll (s : State) (x : Queue) (err : Bool) (stamp : Nat) (bufs : List (Nat × Nat)) : Option (Nat × List (List Byte)) :=
  let C := if stamp = 0 then s.pkgFrontier else stamp
  if err then none
  else if stamp ≠ 0 ∧ (stamp < s.lowWater ∨ s.pkgFrontier < stamp) then none
  else (s.measureBufs x.desc C bufs).map (fun l => (C, l))

/-! ### The packets (R374) -/

/-- The die that accepts a packet's grid: the lowest ready die that holds a cluster of the partition (R294). -/
def State.acceptDie (s : State) (r : LaunchRec) : Nat :=
  match s.part? (recTop r) (recChild r) with
  | some d => ((partClusters d).find? (fun c => s.readyDies.getLsbD (c / 24))).elim 0 (fun c => c / 24)
  | none => 0

/-- The record with PRIO capped at the queue's ceiling (R375). -/
def capPrio (r : LaunchRec) (top : Nat) : LaunchRec :=
  if recPrio r ≤ top then r else { r with flags := r.flags - (recPrio r - top) * 2 ^ 8 }

/-- PKT_LAUNCH, R293, R294, R374, R375, R415: a measured queue's chain records the whole container and the argument block that its grid runs on, so a
container with a byte that does not translate stops it with CODE, and an argument block that does not translate has the same free values in both
(log 2). -/
def execPktLaunch (q : Nat) (h : PktHdr) (r : LaunchRec) (s : State) : Out3 :=
  s.runPkt q h (fun x =>
    let r := capPrio r x.desc.ceiling
    let ctx := ctxOfDesc x.desc
    let P := if x.desc.measured then s.pkgFrontier else s.last
    if launchBad (s.feature 4) r then s.stopPkt q 0x01
    else if r.flags.testBit 2 && !x.desc.fw then s.stopPkt q 0x02
    else match s.checkPlace r (partAdmits x.desc.ptop x.desc.pchild r) ctx (s.acceptDie r) P with
      | .error e => s.stopPkt q e
      | .ok o =>
        let accept := fun (s' : State) (id : Nat) (argw : List Word64) =>
          ((s'.keepCode ctx r.code P).accept r argw o q (some id) (s.acceptDie r) (if x.desc.measured then some P else none)).2
        match x.chain with
        | none =>
          let (id, s') := s.issuePkt q h
          accept s' id []
        | some m =>
          match (s.ctxBytes ctx (some P) (r.code - 0x1000 + 8) 8).bind (fun z => s.ctxBytes ctx (some P) (r.code - 0x1000) (bytesToNat z)) with
          | none => s.stopPkt q 0x05
          | some cont =>
            let (id, s') := s.issuePkt q h
            let known := s.ctxBytes ctx (some P) r.args o.args
            let (f, s') := s'.takeFree o.args
            let args := known.getD (f.map (BitVec.ofNat 8))
            let argw := if known.isSome then [] else (List.range 12).map (fun k => BitVec.ofNat 64 (field args (8 * k) 8))
            ((accept s' id argw).keepRange .unit ctx s.pkg r.args o.args).updQueue q (fun x =>
              { x with chain := some (extend (extend m 0x02 cont) 0x03 args) }))

/-- Copies in flight on the engine of a cluster. -/
def State.copiesOn (s : State) (c : Nat) : Nat :=
  ((s.live.filter (fun p => decide (clusterOf p.1 = c))).flatMap (fun p => p.2.copies)).length +
  (s.pktCopies.filter (fun k => decide (k.cluster = c))).length

/-- The cluster of a partition with the fewest copies in flight, the lowest on a tie. -/
def State.copyCluster (s : State) (d : QueueDesc) : Nat :=
  match s.part? d.ptop d.pchild with
  | none => 0
  | some p =>
    ((partClusters p).foldl (fun (best : Option Nat) c => match best with
      | none => some c
      | some b => if s.copiesOn c < s.copiesOn b then some c else some b) none).getD 0

/-- PKT_COPY, R374: it issues when it has started, on the engine of the chosen cluster. -/
def execPktCopy (q : Nat) (h : PktHdr) (dst src : Nat) (r : LayoutRec) (s : State) : Out3 :=
  s.runPkt q h (fun x =>
    let c := s.copyCluster x.desc
    let (id, s) := s.issuePkt q h
    let (n, s) := s.newId
    let k : Copy := ⟨n, 0, 0, false, some (q, id), dst, src, 0, none, .issued, r, 0, 0, c, 0, 0, 0, false, []⟩
    let s := { s with pktCopies := s.pktCopies ++ [k] }
    (s.startCopy (s.envOfPkt q c) k s.pkgFrontier false).2)

/-- WAITBEAD, R373, R374. -/
def execWaitbead (q : Nat) (h : PktHdr) (bead : Nat) (s : State) : Out3 := s.runPkt q h (s.beadPkt q h bead .bwait)

/-- PUTBEAD, R373, R374. -/
def execPutbead (q : Nat) (h : PktHdr) (bead val : Nat) (s : State) : Out3 :=
  s.runPkt q h (s.beadPkt q h bead (.bput (BitVec.ofNat 64 val)))

/-- TAKEBEAD, R373, R374. -/
def execTakebead (q : Nat) (h : PktHdr) (bead : Nat) (s : State) : Out3 := s.runPkt q h (s.beadPkt q h bead .btake)

/-- SNAPSHOT, R349: the package frontier is pinned, while fewer than 64 pins are. -/
def execSnapshot (q : Nat) (h : PktHdr) (s : State) : Out3 :=
  s.runPkt q h (fun _ =>
    if 64 ≤ s.liveHostPins.length then s.donePkt q h 0
    else ({ s with hostPins := s.hostPins ++ [HostPin.mk s.pkgFrontier false] }).donePkt q h s.pkgFrontier)

/-- The first pin of a stamp goes. -/
def dropPin (P : Nat) : List HostPin → List HostPin
  | [] => []
  | p :: t => if p.stamp = P then t else p :: dropPin P t

/-- Result of a release: the status SNAPEXPIRED where the pin has expired (R348), else 0 (DEDUCED, log 72). -/
def pinStatus (P : Nat) (ps : List HostPin) : Nat :=
  match ps.find? (fun p => decide (p.stamp = P)) with
  | some p => if p.expired then Code.snapexpired.num else 0
  | none => 0

/-- SNAPSHOT_RELEASE, R348, R349. -/
def execSnapshotRelease (q : Nat) (h : PktHdr) (stamp : Nat) (s : State) : Out3 :=
  s.runPkt q h (fun _ => ({ s with hostPins := dropPin stamp s.hostPins }).donePkt q h (pinStatus stamp s.hostPins))

/-- MEASURE, R416. -/
def execMeasure (q : Nat) (h : PktHdr) (stamp : Nat) (bufs : List (Nat × Nat)) (s : State) : Out3 :=
  s.runPkt q h (fun x =>
    match x.chain, s.measureAll x h.err stamp bufs with
    | some m, some (_, items) =>
      let s := s.keepBufs x.desc bufs
      let m := items.foldl (fun m i => extend m 0x05 i) m
      (s.updQueue q (fun x => { x with chain := some m })).donePkt q h m.2
    | _, _ => s.stopPkt q 0x12)

/-- Where a packet's committed store of 8 bytes or of a receipt goes: a page that it may write and that is no BEAD page (R374). -/
def State.packetPage (s : State) (d : QueueDesc) (a : Nat) : Option Nat :=
  match (if a < 2 ^ 48 then s.pageAt .unit (ctxOfDesc d) s.pkg a else none) with
  | some p => if p.wr && decide (p.vmode ≠ 2) && decide (p.pkey = d.ptop) then some (p.phys a) else none
  | none => none

/-- The signed bytes of a receipt (R417). -/
def State.receiptHead (s : State) (q : Nat) (x : Queue) (m : List Byte × Nat) (C : Nat) (bufs : List (Nat × Nat)) : List Byte :=
  natToBytes 4 0x4E524350 ++ natToBytes 2 1 ++ natToBytes 2 1280 ++ s.ctxId q x ++ natToBytes 8 m.2 ++ natToBytes 8 C ++
  shake256 s.fw.pub 32 ++ s.fw.digest ++ m.1 ++ natToBytes 8 bufs.length ++
  (List.range 5).flatMap (fun k => natToBytes 8 (bufs.getD k (0, 0)).1 ++ natToBytes 8 (bufs.getD k (0, 0)).2) ++ natToBytes 8 0

/-- RECEIPT, R416, R417. -/
def execReceipt (q : Nat) (h : PktHdr) (stamp dest : Nat) (bufs : List (Nat × Nat)) (s : State) : Out3 :=
  s.runPkt q h (fun x =>
    match x.chain, s.measureAll x h.err stamp bufs, s.packetPage x.desc dest, s.packetPage x.desc (dest + 1567) with
    | some m, some (C, items), some _, some _ =>
      let s := s.keepBufs x.desc (bufs ++ [(dest, 1568)])
      let m := items.foldl (fun m i => extend m 0x04 i) m
      let head := s.receiptHead q x m C bufs
      let sig := Config.falconSign s.fw.priv head s.free
      let bs := head ++ (List.range 1280).map (fun k => sig.getD k 0#8)
      let (t, s) := ({ s with free := s.free + 1 }).takeStamp 0
      let dev := (bs.zipIdx dest).foldl (fun m p => match s.packetPage x.desc p.2 with
        | some pa => DevMem.put m (.committed t) pa [p.1]
        | none => m) s.dev
      (({ s with dev := dev }.markStamp (ctxOfDesc x.desc)).updQueue q (fun x => { x with chain := some m })).donePkt q h m.2
    | _, _, _, _ => s.stopPkt q 0x12)

/-- PKT_FENCE, R374: it issues when every earlier packet of the queue is complete; the INDIRECT that holds it is not one of them. -/
def execPktFence (q : Nat) (h : PktHdr) (s : State) : Out3 :=
  s.runPkt q h (fun x =>
    let own := x.ind.map (fun b => b.pkt)
    if x.pkts.all (fun p => decide (some p.id = own)) then s.donePkt q h s.pkgFrontier
    else if x.since.isSome then s
    else s.updQueue q (fun x => { x with since := some s.tick }))

/-- INDIRECT, R374, R378: with the buffer's first 256-byte unit read, the thread goes on with the buffer's packets; a buffer that cannot be read stops the
queue, and nothing of the packet executes. -/
def execIndirect (q : Nat) (h : PktHdr) (addr units : Nat) (s : State) : Out3 :=
  s.runPkt q h (fun x =>
    if x.ind.isSome then s.stopPkt q 0x11
    else match s.queueBytes x.desc (256 * (addr / 256)) 256 with
      | none => s.stopPkt q 0x12
      | some bs =>
        let (id, s) := (s.keepQueue x.desc (256 * (addr / 256))).issuePkt q h
        s.updQueue q (fun x => { x with ind := some ⟨addr, units, 0, [(addr / 256, bs)], id⟩ }))

/-- TIMESTAMP, R374: a committed store of %tick, on the device under a stamp of its own. -/
def execTimestamp (q : Nat) (h : PktHdr) (addr : Nat) (s : State) : Out3 :=
  s.runPkt q h (fun x =>
    let ctx := ctxOfDesc x.desc
    if bitsOf addr 60 4 = 12 then
      let i := addr % 2 ^ 57
      if s.hostPage ctx i < 3 then s.stopPkt q 0x12
      else (s.setHost ctx i (natToBytes 8 s.tick)).donePkt q h s.tick
    else match s.packetPage x.desc addr with
      | none => s.stopPkt q 0x12
      | some pa => (((s.keepQueue x.desc addr).storeCommitted s.pkg 0 pa (natToBytes 8 s.tick)).2.markStamp ctx).donePkt q h s.tick)

/-! ### The thread (R372, R378) -/

/-- What the thread does with the bytes of a packet. -/
def State.beginPkt (s : State) (q : Nat) (x : Queue) (bs : List Byte) (ind : Bool) : State ⊕ (Instr × State) :=
  if pktSum bs ≠ 0 then .inl (s.stopPkt q 0x10)
  else match s.packetOf q x bs ind with
    | .error e => .inl (s.stopPkt q e)
    | .ok i => .inr (i, s.setQueue q { x with now := some i })

/-- The next packet of an indirect buffer: one unit is read, or, when all that it spans have been, it begins. A unit behind the last address of its path cannot be
read. A Length of 0 or above 64 is LAYOUT before
the check (DEDUCED, log 47). -/
def State.fetchInd (s : State) (q : Nat) (x : Queue) (b : IndBuf) : State ⊕ (Instr × State) :=
  let at_ := b.addr + 64 * b.next
  let read := fun (u : Nat) => match (if pktAddrForm (256 * u) then s.queueBytes x.desc (256 * u) 256 else none) with
    | some bs => .inl ((s.keepQueue x.desc (256 * u)).setQueue q { x with ind := some { b with got := b.got ++ [(u, bs)] } })
    | none => .inl (s.stopPkt q 0x12)
  match b.got.find? (fun u => decide (u.1 = at_ / 256)) with
  | none => read (at_ / 256)
  | some (_, bs) =>
    let len := pktLen (bs.drop (at_ % 256))
    if len = 0 ∨ 64 < len ∨ b.units < b.next + len then .inl (s.stopPkt q 0x12)
    else
      let us := (List.range ((at_ % 256 + 64 * len + 255) / 256)).map (fun k => at_ / 256 + k)
      match us.find? (fun u => !b.got.any (fun g => decide (g.1 = u))) with
      | some u => read u
      | none =>
        let all := us.flatMap (fun u => (b.got.find? (fun g => decide (g.1 = u))).elim [] (fun g => g.2))
        s.beginPkt q x ((all.drop (at_ % 256)).take (64 * len)) true

/-- The turn of a queue's thread: the packet it has read, or the next one of its buffer or ring, where a Length of 0 or above 64 is LAYOUT before the check
(DEDUCED, log 47). -/
def State.fetchThread (s : State) (q : Nat) : State ⊕ (Instr × State) :=
  match s.queue? q with
  | none => .inl s
  | some x =>
    if !x.mapped ∨ x.stop ≠ 0 then .inl s
    else if x.overrun then .inl (s.stopQueue q 0x13)
    else match x.now with
      | some i => .inr (i, s)
      | none =>
        match x.ind with
        | some b => s.fetchInd q x b
        | none =>
          let avail := (x.wridx + 2 ^ 32 - x.rdidx) % 2 ^ 32
          if avail = 0 then .inl s
          else match s.ringBytes x 1 with
            | none => .inl (s.stopPkt q 0x12)
            | some hd =>
              if pktLen hd = 0 ∨ 64 < pktLen hd then .inl (s.stopPkt q 0x12)
              else if avail < pktLen hd then .inl s
              else match s.ringBytes x (pktLen hd) with
                | none => .inl (s.stopPkt q 0x12)
                | some bs => ((List.range (pktLen hd)).foldl (fun s k => s.keepQueue x.desc (x.slotAddr k)) s).beginPkt q x bs false

/-! ### Creation, mapping, interrupts -/

/-- QUEUE_UNMAP, R370, R288: after 100 µs of blocking the thread serves another queue; a bead wait that is not performed is withdrawn, wherever its request is, and
is made again at the tail when the queue is mapped again. -/
def execQueueUnmap (q : Nat) (s : State) : Out3 :=
  .next (match s.queue? q with
    | none => s
    | some x =>
      match x.since with
      | none => s
      | some t =>
        if !x.mapped ∨ s.tick - t < 100000 then s
        else
          let s := (s.withdraw q).updQueue q (fun x => { x with mapped := false })
          ({ s with waitMap := s.waitMap ++ [q] }).mapWaiting)

/-- The lowest queue number that is free. -/
def State.freeQueue (s : State) : Nat := ((List.range (s.queues.length + 1)).find? (fun n => (s.queue? n).isNone)).getD s.queues.length

/-- Form of a descriptor (R366, R371; the numbers of the functions DEDUCED, log 47): each of the two host ports has a physical function and 64 virtual ones, and function 65 * port + v is virtual function v
of its port, or the physical one where v = 0. A ring base, or a ring's end, beyond the fields of its path is no error: the thread reads at that address mod 2^48, of
the host mod 2^57 (DESIGN CHOICE, log 84). -/
def QueueDesc.ok (d : QueueDesc) : Bool :=
  decide (d.ring % 4096 = 0 ∧ 4 ≤ d.sizeLog2 ∧ d.sizeLog2 ≤ 18 ∧ d.ceiling ≤ 7 ∧ d.vector < 2048 ∧ d.pasid < 2 ^ 20 ∧ d.func < 130)

/-- Whether a function is enabled: a virtual one only with SR-IOV accepted (R369, bit 10). -/
def State.funcOn (s : State) (func : Nat) : Bool := decide (func % 65 = 0) || s.feature 10

/-- QUEUE_CREATE, R369 to R371, R414: the queue takes the lowest free number; its context is made where it is the first of its function and PASID, with
the root that firmware sets. -/
def execQueueCreate (d : QueueDesc) (s : State) : Out3 :=
  .next (let q := s.freeQueue
    if !s.featOn || !s.isReady 0x0C || decide (4096 ≤ q) || !QueueDesc.ok d || !s.funcOn d.func || (s.part? d.ptop d.pchild).isNone then s
    else
      let s := { s with created := Tab.set 0 s.created q (Tab.get 0 s.created q + 1) }
      let s := if (s.ctx? (ctxOfDesc d)).isNone then { s with ctxs := Assoc.put s.ctxs (ctxOfDesc d) (Ctx.fresh d.root) } else s
      let x : Queue := ⟨d, 0, 0, 0, false, none, .fresh, .fresh, none, [], [], none, none⟩
      let m := extend (measure0 (s.ctxId q x), 0) 0x01 (natToBytes 8 s.fw.version ++ s.fw.digest)
      s.setQueue q { x with chain := if d.measured then some m else none })

/-- MSI_COALESCE_EXPIRY, R380: one message for each vector that an event named since the first. -/
def execMsiCoalesceExpiry (func : Nat) (s : State) : Out3 :=
  .next (match Assoc.at s.msiSince func with
    | none => s
    | some t =>
      if s.tick - t < 1000 * Tab.get 0 s.coalesce func then s
      else { s with msiSent := s.msiSent ++ s.msiPend.filter (fun p => decide (p.1 = func)),
                    msiPend := s.msiPend.filter (fun p => decide (p.1 ≠ func)), msiSince := Assoc.drop s.msiSince func })

end Sys2Proof.Machine
end

