-- ==== Sys2Proof/Machine/Debug.lean ====
section
/-!
DEFINITION. The debugger (R92, R93, R400 to R402): attaching, steps, resumes, reads and breakpoints; checkpoints (R408), rollback (R411) and the
read index of the replay log (R410).
-/
namespace Sys2Proof.Machine

open Sys2Proof

/-! ### Attaching, stops and steps -/

/-- Applies `f` to every workgroup of a context. -/
def State.mapCtx (s : State) (c : Nat) (f : Wg → Wg) : State := s.mapWgs (fun w => if s.ctxOfWg w = c then f w else w)

/-- A request of the debugger to the cores of a context ends the SLEEPs of their parties (R181, R192; DEDUCED, log 70). -/
def State.debugWake (s : State) (c : Nat) : State := s.mapCtx c (fun w => w.wakeAll wakeDebug)

/-- DEBUG_ATTACH, R92. -/
def execDebugAttach (ctx : Nat) (s : State) : Out3 :=
  .next ((s.updCtx ctx (fun c => { c with attached := true })).debugWake ctx)

/-- The debugger lets a workgroup go. -/
def Wg.letGo (w : Wg) (now : Nat) : Wg := { w.mapFrames (fun fr => fr.letGo now) with rdbg := false, rstep := false, rends := none }

/-- Whether a split stands stopped: the debugger holds it, and the instruction of its last step is complete (R93). -/
def Wg.stopped (w : Wg) (p : Split) : Bool :=
  p.dbg && (match p.st with | .sleep _ => false | _ => true) &&
  (match p.ends with | some id => !w.passes.any (fun k => decide (k.id = id)) && !w.reqs.any (fun r => decide (r.id = id)) | none => true)

/-- Whether the reckoner stands stopped: the debugger holds it, it does not sleep, and what its last step left is over (R93); COPY and MAPBIND leave
nothing that a step waits for. -/
def State.reckStopped (s : State) (w : Wg) : Bool :=
  w.rdbg && (match w.rst with | .sleep _ => false | _ => true) &&
  (match w.rends with
   | some id => !w.acts.any (fun a => decide (a.id = id)) && !w.slotOps.any (fun o => decide (o.id = id)) && !w.copies.any (fun c => decide (c.id = id)) &&
     !s.commits.any (fun c => decide (c.id = id))
   | none => true)

/-- DEBUG_DETACH, R400, R411: every entry is disabled, what the debugger held runs on, and what a rollback set aside is freed. -/
def execDebugDetach (ctx : Nat) (s : State) : Out3 :=
  .next (match s.ctx? ctx with
    | none => s
    | some _ =>
      let s := s.mapCtx ctx (fun w => { w.letGo s.tick with
        brk := w.brk.map (fun (p : Nat × Word64) => (p.1, p.2 &&& ~~~ 1#64)), wctl := w.wctl.map (fun (p : Nat × Word32) => (p.1, p.2 &&& ~~~ 1#32)) })
      let s := s.updCtx ctx (fun c => { c with attached := false, frameStop := false, replay := none })
      { s with dev := { s.dev with vers := s.dev.vers.filter (fun v => match v.owner with | .aside c _ => decide (c ≠ ctx) | _ => true) } })

/-- DEBUG_STEP, R93, R181: a stopped split, or the stopped reckoner, issues one instruction and stops again; a party that sleeps wakes first, which
completes the step that was its SLEEP (log 70). -/
def execDebugStep (p : Party) (s : State) : Out3 :=
  .next (match p with
    | .frame core f id => s.updFrame core f (fun w fr =>
        if !s.attached w then s
        else
          let fr := fr.wakeSplit id wakeDebug
          match fr.split? id with
          | some sp => s.setCore core (w.setFrame f (if w.stopped sp then (fr.setSplit { sp with dbg := false, step := true, ends := none }).unhold s.tick else fr))
          | none => s)
    | .reck core =>
      match s.onCore core with
      | some w =>
        if !s.attached w then s
        else s.setCore core (let w := w.wakeReck wakeDebug; if s.reckStopped w then { w with rdbg := false, rstep := true, rends := none } else w)
      | none => s)

/-- DEBUG_RESUME, R92. -/
def execDebugResume (ctx : Nat) (s : State) : Out3 := .next (s.mapCtx ctx (fun w => (w.wakeAll wakeDebug).letGo s.tick))

/-- The word that a split stands at is a frame word, and a lane's guard holds. -/
def Wg.standsActive (w : Wg) (fr : Frame) (sp : Split) : Bool :=
  match w.code.shapeAt sp.pc with
  | some p => !p.u && decide (guardMask fr sp p.ctl ≠ 0)
  | none => false

/-- BREAKPOINT_HIT, R92, R400: a split whose active set is not empty, or the reckoner at a U word, stops before the instruction. -/
def execBreakpointHit (p : Party) (s : State) : Out3 :=
  .next (match p with
    | .frame core f id => s.updFrame core f (fun w fr =>
        match fr.split? id with
        | some sp =>
          match w.breakAt sp.pc with
          | some e =>
            if s.attached w && w.goes && !sp.dbg && !sp.skipB.contains sp.pc.toNat && !fr.isParked id && decide (sp.st = .run) && w.standsActive fr sp then
              s.debugStop core f { sp with skipB := sp.pc.toNat :: sp.skipB } Code.brk.num 0xFFFF (e.getLsbD 1)
            else s
          | none => s
        | none => s)
    | .reck core =>
      match s.onCore core with
      | some w =>
        if (w.breakAt w.rpc).isSome && s.attached w && w.goes && !w.rdbg && !w.rskip && decide (w.rst = ReckSt.run) &&
            (w.code.word w.rpc).getLsbD 119 then
          (s.setCore core { w with rdbg := true, rskip := true }).report (s.ctxOfWg w) (.stop core reckParty 0 Code.brk.num 0xFFFF)
        else s
      | none => s)

/-! ### Reads (R402) -/

/-- A slot as a number: binding, format, policy and band below the bytes. -/
def Slot.readout (k : Slot) : Nat :=
  let b := match k.binding with | .unbound => 0 | .filling => 1 | .bound => 2
  let f := match k.fmt with | .bf16 => 0 | .f16 => 1 | .e4m3 => 2 | .e5m2 => 3 | .f4b => 4
  b + 4 * f + 32 * (if k.full then 1 else 0) + 2 ^ 16 * k.band.toNat + 2 ^ 32 * Tab.readLE k.bytes 0 (slotBytes k.fmt)

/-- What a read shows of a workgroup. -/
def Wg.debugRead (w : Wg) (r : DebugRef) : DbgReport :=
  let fr := fun (f : Nat) (g : Frame → Nat) => match w.frame? f with
    | some fr => DbgReport.value (g fr) false true
    | none => .value 0 false false
  match r with
  | .sreg _ n => .value (w.sreg n).toNat (w.pend.any (fun (p : Pend) => decide (p.reg = n))) true
  | .vreg _ f l n => fr f (fun fr => (fr.vreg l n).toNat)
  | .pred _ f l n => fr f (fun fr => if fr.pred l n then 1 else 0)
  | .resid _ f l n => fr f (fun fr => (fr.residOf l n).toNat)
  | .side _ f l n => fr f (fun fr => (fr.sideOf l n).toNat)
  | .tag _ f k n => fr f (fun fr => (fr.tagOf k n).code)
  | .slice _ off => .value (Tab.get 0#8 w.slice off).toNat false true
  | .latch _ _ _ => .value 0 false false
  | .slot _ q n => .value (Tab.get Slot.start w.slots (8 * q + n)).readout false true
  | .breakpoint _ n => .value (Tab.get 0#64 w.brk n).toNat false true
  | .watchBase _ n => .value (Tab.get 0#64 w.wbase n).toNat false true
  | .watchCtl _ n => .value (Tab.get 0#32 w.wctl n).toNat false true
  | .serviceFlags _ _ => .refused

/-- The core that a read names. -/
def debugRefCore : DebugRef → Nat
  | .sreg c _ | .vreg c _ _ _ | .pred c _ _ _ | .resid c _ _ _ | .side c _ _ _ | .tag c _ _ _ | .slice c _ | .latch c _ _ | .slot c _ _
  | .breakpoint c _ | .watchBase c _ | .watchCtl c _ => c
  | .serviceFlags _ _ => 0

/-- The service flag word of a home cluster for a partition (R280). -/
def State.flagWord (s : State) (cluster part : Nat) : BitVec 5 := Tab.get 0#5 s.svcFlags (16 * cluster + part)

/-- DEBUG_READ, R280, R400, R402: it changes nothing but the answer; a core that holds no workgroup of the context refuses. -/
def execDebugRead (ctx : Nat) (r : DebugRef) (s : State) : Out3 :=
  .next (match r with
    | .serviceFlags cl part =>
      s.report ctx (if cl < 1536 ∧ part < 16 then .value (s.flagWord cl part).toNat false true else .refused)
    | _ =>
    match s.onCore (debugRefCore r), s.ctx? ctx with
    | some w, some c =>
      if c.attached && decide (s.ctxOfWg w = ctx) then s.report ctx (w.debugRead r) else s.report ctx .refused
    | _, _ => s.report ctx .refused)

/-! ### Checkpoints (R408) -/

def State.inCtx (s : State) (c : Nat) (w : Wg) : Bool := decide (s.ctxOfWg w = c)

/-- The cores of a context whose workgroups run. -/
def State.runningCores (s : State) (c : Nat) : List Nat := (s.live.filter (fun p => s.inCtx c p.2 && !p.2.halt)).map (·.1)

/-- Halts every gang of a context. -/
def State.haltCtx (s : State) (c : Nat) : State := (s.runningCores c).foldl (fun s k => s.haltCore k) s

/-- Nothing that a saved image would wait for is still on its way (R388): what is left is read or issued again at the restore, lane by lane; a lane of a load that
keeps its access (R316) has its data. -/
def Wg.drained (w : Wg) : Bool :=
  w.reqs.all (fun r => match r.kind with
    | .load _ => (lanesOf (r.wait &&& r.keep)).all (fun l => r.got.any (fun p => decide (p.1 = l)))
    | .atom _ 5 => true
    | .service _ _ _ => (lanesOf r.wait).all (fun l => w.replays.any (fun k => decide (k.req = r.id ∧ k.lane = l)))
    | _ => false) && !w.copies.any (fun c => decide (c.st = .publishing))

/-- Whether the final commit of a workgroup is in progress: its record is still to be written (R219, R298). -/
def State.ending (s : State) (w : Wg) : Bool :=
  s.commits.any (fun c => match c.who with | .final g i => w.is g i | _ => false)

/-- Whether the workgroups of a context are drained, and none of them is on its way to its end. -/
def State.ctxDrained (s : State) (c : Nat) : Bool := (s.wgs.filter (s.inCtx c)).all (fun w => w.drained && !s.ending w)

/-- Whether a commit of a workgroup is in progress. -/
def State.committing (s : State) (w : Wg) : Bool :=
  s.commits.any (fun c => match c.who with
    | .party x _ => w.is x.grid x.wg
    | .act g i _ | .copy g i _ | .publish g i _ _ _ _ _ | .final g i => w.is g i
    | .packet _ _ => false)

/-- A version of an open phase or group of workgroups. -/
def ofWgs (ws : List Wg) (v : Version) : Bool :=
  match v.owner with
  | .phase t => ws.any (fun w => decide (w.phase.tag = t))
  | .shadow c g => ws.any (fun w => w.groups.contains (c, g))
  | _ => false

/-- The versions of the open phases and groups of workgroups, by package. -/
def State.openVers (s : State) (ws : List Wg) : List (Nat × Version) :=
  let mine := ofWgs ws
  (s.dev.vers.filter mine).map (fun v => (s.pkg, v)) ++
  s.remotes.flatMap (fun p => match p.2 with | some r => (r.mem.vers.filter mine).map (fun v => (p.1, v)) | none => [])

/-- The versions of the open phases and groups of workgroups are frozen (R408). -/
def State.freezeOpen (s : State) (ws : List Wg) : State :=
  let ice := fun (v : Version) => if ofWgs ws v then { v with frozen := true } else v
  { s with dev := { s.dev with vers := s.dev.vers.map ice },
           remotes := s.remotes.map (fun p => (p.1, p.2.map (fun r => { r with mem := { r.mem with vers := r.mem.vers.map ice } }))) }

/-- A workgroup at a checkpoint: %retired becomes 0, and records name it by the core it stands on. -/
def Wg.atCkpt (w : Wg) : Wg := { w with retired := 0, home := w.core }

/-- Where the next image of a context stands in the area that its debugger has supplied: behind those that stand there, aligned to 4 KiB (DESIGN CHOICE, log 77). -/
def nextImage (area : Nat) (imgs : List (Nat × Nat)) : Nat :=
  ((imgs.filter (fun p => decide (area ≤ p.1))).map (fun p => (p.1 + p.2 + 640 + 4095) / 4096 * 4096)).foldl max area

/-- Steps 2 to 4: the images and versions are held, and every gang that the checkpoint has halted goes on where it stood; one that a slice's end or a
change of its partition had halted before waits on for what that comes to (R385). -/
def State.takeCkpt (s : State) (c : Nat) (x : Ctx) (ck : Nat) : State :=
  let on := (s.live.filter (fun p => s.inCtx c p.2)).map (fun p => p.2)
  let mine := on.filter (fun w => s.ckptHalted c w)
  let parked := s.parked.filter (s.inCtx c)
  let held := s.held.filter (fun p => s.inCtx c p.2)
  let num := x.num + 1
  let s := s.freezeOpen (on ++ parked ++ held.map (fun p => p.2))
  let (imgs, s) := (on ++ parked).foldl (fun (a : List (Nat × Nat) × State) w =>
    let pa := nextImage x.area (x.ckpts.flatMap (·.images) ++ a.1)
    (a.1 ++ [(pa, w.imageSize)], a.2.putImage w 1 pa)) ([], s)
  let k : Ckpt := ⟨num, ck, false, on, parked, held, s.grids.filter (fun g => decide (s.ctxOf g = c)), s.openVers (on ++ parked ++ held.map (fun p => p.2)),
    imgs⟩
  let s := s.updCtx c (fun x => { x with num := num, pending := none, settled := false, halted := [], since := s.tick, ckpts := x.ckpts ++ [k] })
  let s := s.logAdd c (.ckpt num ck)
  let s := mine.foldl (fun s w => s.restoreOn w w.core) s
  let s := s.mapCtx c Wg.atCkpt
  s.traceRecord c (s.recordHead c 3 0xFF 0 0 ck 0 ++ natToBytes 36 0)

/-- CKPT_INTERVAL, R408: the interval ends, or CKPT has asked: the gangs halt and Ck is fixed; and again once the package frontier has reached it and
every image is whole: the checkpoint is taken. Ck is fixed once more when what had left the halted cores has been performed and the final commits in progress
have ended with their records, so that no stamp of theirs is above it. -/
def execCkptInterval (ctx : Nat) (s : State) : Out3 :=
  .next (match s.ctx? ctx with
    | none => s
    | some x =>
      match x.pending with
      | none =>
        if decide (x.interval = 0) || x.replay.isSome || !(x.asked || decide (1000 * x.interval ≤ s.tick - x.since)) then s
        else
          let mine := (s.live.filter (fun p => s.inCtx ctx p.2 && !p.2.halt)).map (fun p => (p.2.grid, p.2.idx))
          let s := s.haltCtx ctx
          s.updCtx ctx (fun x => { x with pending := some s.last, settled := s.ctxDrained ctx, asked := false, halted := mine })
      | some ck =>
        if !s.ctxDrained ctx then s
        else if !x.settled then s.updCtx ctx (fun x => { x with pending := some s.last, settled := true })
        else if decide (s.pkgFrontier < ck) || !s.logRoom ctx || (s.wgs.filter (s.inCtx ctx)).any s.committing then s
        else s.takeCkpt ctx x ck)

/-! ### Rollback (R411) -/

/-- Whether a granule stands on one of these pages. -/
def onPages (ps : List (Nat × Nat)) (gran : Nat) : Bool := ps.any (fun p => decide (p.1 ≤ 64 * gran ∧ 64 * gran < p.1 + 2 ^ p.2))

/-- Committed versions on the pages above a stamp. -/
def Version.after (ps : List (Nat × Nat)) (ck : Nat) (v : Version) : Bool :=
  match v.owner with
  | .committed t => decide (ck < t) && onPages ps v.gran
  | _ => false

/-- A grid that a queue launched after the checkpoint waits again for its start; the stamp of a measured launch is pinned again (R415). -/
def Grid.again (g : Grid) : Grid :=
  { g with st := .pending, placed := 0, total := 0, gangs := [], ranges := [], gbars := (List.range 4).map (fun _ => GBar.start), ended := [],
           since := [], reserved := [], reported := false, waitres := false, dropBead := none, dropRec := none, measured := g.opened }

def LogEntry.isCkpt : LogEntry → Bool
  | .ckpt _ _ => true
  | _ => false
def LogEntry.isCkptOf (num : Nat) : LogEntry → Bool
  | .ckpt n _ => decide (n = num)
  | _ => false

/-- What a replay from a checkpoint expects: the entries of its interval. -/
def logFrom (num : Nat) (l : List LogEntry) : List LogEntry :=
  ((l.dropWhile (fun e => !e.isCkptOf num)).drop 1).takeWhile (fun e => !e.isCkpt)

/-- The log up to the end of a checkpoint's interval: what a rollback to it leaves (R411). -/
def logUpTo (num : Nat) (l : List LogEntry) : List LogEntry :=
  let pre := l.takeWhile (fun e => !e.isCkptOf num)
  pre ++ (l.drop pre.length).take 1 ++ logFrom num l

/-- The workgroups and grids of a context become those of a checkpoint. -/
def State.rollTo (s : State) (c : Nat) (k : Ckpt) : State :=
  let gone := s.wgs.filter (s.inCtx c)
  let s := gone.foldl (fun s w => (s.discardWg w).dropWg w.grid w.idx) s
  let later := (s.grids.filter (fun g => decide (s.ctxOf g = c) && g.packet.isSome && !k.grids.any (fun h => decide (h.id = g.id)))).map Grid.again
  let s := { s with grids := s.grids.filter (fun g => decide (s.ctxOf g ≠ c)) ++ k.grids ++ later }
  let s := k.frozen.foldl (fun s p => s.setMemOf p.1 { s.memOf p.1 with vers := (s.memOf p.1).vers ++ [p.2] }) s
  let s := { s with parked := s.parked ++ k.parked.map Wg.atCkpt,
                    saved := k.held.foldl (fun t p => Assoc.put t p.1 (Wg.atCkpt p.2)) s.saved }
  k.wgs.foldl (fun s w => s.restoreOn (Wg.atCkpt w) w.core) s

/-! What the discarded run has left behind -/

/-- Whether a request comes from one of these workgroups. -/
def Source.ofAny (ws : List Wg) : Source → Bool
  | .lane g i _ _ => ws.any (fun w => w.is g i)
  | .packet _ _ | .peer _ => false

/-- What had left the halted cores of a context is performed: its class 0xB requests, the stores and atomics over the mesh, the host writes (R274,
R388). What comes back from there, and what has not been performed at another package, is the discarded run's and goes (DESIGN CHOICE, log 86). -/
def State.finishLeft (s : State) (ws : List Wg) : State :=
  let (rs, s) := s.takeService (fun r => r.src.ofAny ws)
  let s := rs.foldl (fun s r => s.serve r) s
  let ms := s.mesh.filter (fun r => r.src.ofAny ws)
  let s := ms.foldl (fun s r => s.meshArrive r) { s with mesh := s.mesh.filter (fun r => !r.src.ofAny ws) }
  let s := (s.hostq.filter (fun r => r.src.ofAny ws)).foldl (fun s r => match r.data with | some bs => s.setHost r.ctx r.iova bs | none => s) s
  { s with hostq := s.hostq.filter (fun r => !r.src.ofAny ws), peerq := s.peerq.filter (fun r => !r.src.ofAny ws),
           acks := s.acks.filter (fun p => !p.2.src.ofAny ws), replies := s.replies.filter (fun p => !p.2.src.ofAny ws) }

/-- A COPY packet of a context loses its uncommitted versions, and moves its bytes again (R411; DESIGN CHOICE, log 86). -/
def State.restartPktCopies (s : State) (c : Nat) : State :=
  let mine := fun (k : Copy) => decide (k.st = .moving ∧ k.group ≠ 0) &&
    (match k.pkt.bind (fun p => s.queue? p.1) with | some x => decide (ctxOfDesc x.desc = c) | none => false)
  let s' := (s.pktCopies.filter mine).foldl (fun s k => s.dropGroup k.cluster k.group) s
  { s' with pktCopies := s.pktCopies.map (fun k => if mine k then { k with next := 0, bytes := 0, seen := [] } else k) }

/-- ROLLBACK, R411, R412: refused with EXPIRED or SHARED, or the context goes back to the checkpoint and re-executes under the log until the
workgroup on `core` has retired `count` instructions. -/
def execRollback (ctx ck core count : Nat) (s : State) : Out3 :=
  .next (match s.ctx? ctx with
    | none => s
    | some x =>
      match x.ckpts.find? (fun k => decide (k.num = ck)) with
      | none => s.report ctx .refused
      | some k =>
        let ps := tablePages s.dev x.root
        let taken := s.live.any (fun p => !s.inCtx ctx p.2 && k.wgs.any (fun w => decide (w.core = p.1)))
        if k.expired then s.report ctx .refusedExpired
        else if s.dev.vers.any (fun v => v.after ps k.ck && (match v.owner with | .committed t => decide (Tab.get 0 s.taker t ≠ ctx + 1) | _ => false)) then
          s.report ctx .refusedShared
        else if !x.attached || taken then s.report ctx .refused
        else
          let s := (s.haltCtx ctx).updCtx ctx (fun x => { x with recording := false, replay := none })
          let s := (s.finishLeft (s.wgs.filter (s.inCtx ctx))).restartPktCopies ctx
          let s := { s with dev := { s.dev with vers := s.dev.vers.map (fun (v : Version) => match v.owner with
            | .committed t => if v.after ps k.ck then { v with owner := .aside ctx t } else v
            | _ => v) } }
          let s := s.rollTo ctx k
          let cut := logUpTo k.num x.log
          let x0 := x.recording
          let s := (match x.rring with | some r => s.setHost (r.func * 2 ^ 20) r.base (natToBytes 8 (logUnits cut)) | none => s)
          s.updCtx ctx (fun x => { x with
            log := cut, read := min x.read (logUnits cut), order := (cut.filter LogEntry.isStamp).length,
            num := k.num, since := s.tick, pending := none, settled := false, halted := [], asked := false, recording := x0, ckpts := x.ckpts.filter (fun c => decide (c.num ≤ k.num)),
            replay := some ⟨logFrom k.num x.log, some (core, count)⟩ }))

/-! ### The replay log -/

/-- Bead requests that waited for room in a log may be performed now. -/
def State.serveAll (s : State) : State :=
  ((s.waits.map (fun w => (w.pkg, w.pa))).eraseDups).foldl (fun s p => s.serveWaiters p.1 p.2 s.waits.length) s

/-- REPLAY_LOG_READ_INDEX, R410: the ring has room again for what waits. -/
def execReplayLogReadIndex (ctx idx : Nat) (s : State) : Out3 :=
  .next (match s.ctx? ctx with
    | none => s
    | some x =>
      if idx < x.read ∨ logUnits x.log < idx then s
      else
        let s := s.updCtx ctx (fun x => { x with read := idx })
        (match x.rring with
         | some r => s.setHost (r.func * 2 ^ 20) (r.base + 8) (natToBytes 8 idx)
         | none => s).serveAll)

end Sys2Proof.Machine
end

