-- ==== Sys2Proof/Machine/BringUp.lean ====
section
/-!
DEFINITION. Power-up and bring-up (R366 to R369, R418, R422), and the registers and mailbox entries that an outside party writes and that have no row
of their own (R4).
-/
namespace Sys2Proof.Machine

open Sys2Proof

/-- POWER_UP, R422: everything starts afresh. What stands outside the package goes on: the host's memory and its IOMMU, the messages sent, and
the model's own agenda and free values. -/
def execPowerUp (s : State) : Out3 :=
  .next { State.reset with agenda := s.agenda, free := s.free, hostMem := s.hostMem, hostPg := s.hostPg, msiSent := s.msiSent }

/-! ### Firmware and readiness (R367, R368, R418) -/

/-- Sets a readiness word that reports nothing yet. -/
def State.reportReady (s : State) (off : Nat) (v : Word32) : State := if Tab.get 0#32 s.ready off = 0 then s.setReady off v else s

/-- The identity key's seed. -/
def idSeed (helper : List Byte) : List Byte :=
  shake256 ([0x4E#8, 0x4C#8, 0x54#8, 0x4C#8, 0x2D#8, 0x49#8, 0x44#8] ++ Config.pufResponse helper) 48

/-- FIRMWARE_DOWNLOAD, R367, R327, R418, R424: one download after each power-up; the boot ROM checks the signature, and firmware then takes its
configuration and derives the identity key. -/
def execFirmwareDownload (fw : Firmware) (s : State) : Out3 :=
  .next (if s.fw.accepted ∨ Tab.get 0#32 s.ready 0 ≠ 0 then s
    else if !fw.signatureOk then s.setReady 0 (failedWord 1)
    else
      let key := Config.falconKeygen (idSeed fw.helper)
      let f : FwSt := ⟨true, fw.version, shake256 fw.image 64, if fw.poolDenom = 16 ∨ fw.poolDenom = 4 then fw.poolDenom else 8,
        if fw.pufOk then (List.range 1793).map (fun k => key.1.getD k 0#8) else [], if fw.pufOk then key.2 else [], fw.pufOk⟩
      let known := fw.fabric.filter (fun e => decide (e.1 ≠ fw.pkg % 256))
      let s := { s with fw := f, pkg := fw.pkg % 256, fabric := known }
      if fw.pufOk then s else s.setReady 0 (failedWord 2))

/-- Offset of a function's readiness word; none where there is no such function. -/
def readyOff : Func → Option Nat
  | .firmware => some 0
  | .hostPort n => if n < 2 then some (4 + 4 * n) else none
  | .queueProc => some 0x0C
  | .stack n => if n < 32 then some (0x100 + 4 * n) else none
  | .die n => if n < 64 then some (0x200 + 4 * n) else none
  | .port n => if n < 18 then some (0x300 + 4 * n) else none

/-- FUNCTION_READY, R368: each function reports once, after the firmware has been accepted. -/
def execFunctionReady (fn : Func) (ok : Bool) (code : Nat) (s : State) : Out3 :=
  .next (match readyOff fn with
    | none => s
    | some off => if s.fw.accepted then s.reportReady off (if ok then 0x80000000#32 else failedWord code) else s)

/-! ### Features (R369) -/

/-- The offered features, word by word: bits 0, 1 and 4 to 11; bit 8 only with an identity key (R418). -/
def offered (keyed : Bool) (j : Nat) : Word32 := if j = 0 then (if keyed then 0xFF3#32 else 0xEF3#32) else 0#32

/-- HOMETAB as firmware writes it: only what differs from HOMETAB[c] = c (R272). -/
def homeTable (dies : BitVec 64) : Tab Nat :=
  (List.range 1536).foldr (fun c t =>
    if dies.getLsbD (c / 24) then t
    else match (ringFrom 64 (c / 24)).find? (fun d => dies.getLsbD d) with
      | some d => (c, 24 * d + c % 24) :: t
      | none => t) []

/-- The vector takes effect: words not written are zero, and firmware fixes the home table and the dies of the package frontier (R272, R331,
R369). -/
def State.featuresOn (s : State) : State := { s with featOn := true, homeTab := homeTable s.readyDies, dieIn := s.readyDies }

/-- The first write of one word; the write of bit 0, which cannot be declined, is ignored (R27). -/
def State.writeFeature (s : State) (j : Nat) (v : Word32) : State :=
  if s.featOn ∨ s.featSet.getLsbD j then s
  else
    let v := if j = 0 then v ||| 1#32 else v
    let s := { s with feat := Tab.set 0#32 s.feat j (v &&& offered s.fw.keyed j), featSet := s.featSet ||| BitVec.ofNat 8 (2 ^ j) }
    if j = 7 then s.featuresOn else s

/-- FEATURE_WRITE, R369: 32 or 64 bits, aligned, to 0x0420 to 0x043F; only after the firmware has been accepted does the page answer (R367). -/
def execFeatureWrite (off : Nat) (wide : Bool) (val : Word64) (s : State) : Out3 :=
  .next (if !s.fw.accepted ∨ off < 0x420 ∨ 0x440 ≤ off ∨ off % (if wide then 8 else 4) ≠ 0 then s
    else
      let j := (off - 0x420) / 4
      let s := s.writeFeature j (val.setWidth 32)
      if wide then s.writeFeature (j + 1) ((val >>> 32).setWidth 32) else s)

/-! ### Registers without a row (R4) -/

/-- A debug entry of the workgroup on a core, written by its context's debugger (R400). -/
def State.debugEntry (s : State) (core : Nat) (f : Wg → Wg) : State :=
  match s.onCore core with
  | some w => if s.attached w then s.setCore core (f w) else s
  | none => s

/-- A ring's base and size (R403). -/
def ringOf (base log2 func : Nat) : Option Ring := if base % 4096 = 0 ∧ 12 ≤ log2 ∧ log2 ≤ 30 then some ⟨base, log2, func⟩ else none

/-- Whether an entry of this level maps a page (R319). -/
def mapsPage (e lvl : Nat) : Bool := e.testBit 0 && e.testBit 3 && pteOk e lvl

/-- Firmware writes an entry of a page table, in one committed step; the beads of a page that it maps as BEAD are down with value 0 from then on (R285,
R318, R322). It maps no page of this package before every stack is ready (R368). -/
def State.pageEntry (s : State) (pkg pa lvl e : Nat) : State :=
  if pa % 8 ≠ 0 ∨ 3 < lvl ∨ 2 ^ 42 ≤ pa ∨ (pkg = s.pkg ∧ mapsPage e lvl = true ∧ s.stacksReady = false) then s
  else
    let s := (s.storeCommitted pkg 0 pa (natToBytes 8 e)).2
    if mapsPage e lvl && decide (bitsOf e 6 2 = 2) then
      let base := bitsOf e 16 32 * 2 ^ 16
      let m := s.memOf pkg
      s.setMemOf pkg { m with beads := m.beads.filter (fun p => decide (p.1 < base ∨ base + 2 ^ levelShift lvl ≤ p.1)) }
    else s

/-- Whether an outside party's register answers: firmware's and the queue processor's do once the firmware has been accepted (R367); the host's memory, its
IOMMU and the other packages are no part of this one. -/
def State.answers (s : State) : RegRef → Bool
  | .hostMem _ _ | .hostPage _ _ => true
  | .pageEntry pkg _ _ => decide (pkg ≠ s.pkg) || s.fw.accepted
  | _ => s.fw.accepted

/-- REGISTER_WRITE, R4: fields by their access codes. Service flags are W1C (R280); breakpoints and watchpoints (R400), frame-stop (R92), rings
(R403, R410), sampling (R406), the checkpoint interval and area (R408), recording (R410), coalescing (R380), host memory and its IOMMU (R315), the peer contexts
(R425), page tables (R318) and events that firmware posts (R419, R420). The readiness page and the other registers of a notify page are RO (R368, R371). -/
def execRegisterWrite (r : RegRef) (val : Word64) (s : State) : Out3 :=
  .next (if !s.answers r then s else match r with
    | .serviceFlags cluster part =>
      if cluster < 1536 ∧ part < 16 then
        { s with svcFlags := Tab.set 0#5 s.svcFlags (16 * cluster + part) (Tab.get 0#5 s.svcFlags (16 * cluster + part) &&& ~~~ val.setWidth 5) }
      else s
    | .breakpoint core n =>
      if n < 16 then s.debugEntry core (fun w => { w with brk := Tab.set 0#64 w.brk n (val &&& 0xFFFFFFFFFFFFFFF3#64) }) else s
    | .watchBase core n => if n < 8 then s.debugEntry core (fun w => { w with wbase := Tab.set 0#64 w.wbase n val }) else s
    | .watchCtl core n =>
      if n < 8 ∧ bitsOf val.toNat 3 5 ≤ 27 then s.debugEntry core (fun w => { w with wctl := Tab.set 0#32 w.wctl n (val.setWidth 32 &&& 0xFF#32) }) else s
    | .frameStop ctx => s.updCtx ctx (fun c => { c with frameStop := val.getLsbD 0 })
    | .traceRing ctx base log2 func => (match ringOf base log2 func with | some g => s.updCtx ctx (fun c => { c with ring := some g }) | none => s)
    | .replayRing ctx base log2 func => (match ringOf base log2 func with | some g => s.updCtx ctx (fun c => { c with rring := some g }) | none => s)
    | .traceReadIndex ctx =>
      (match (s.ctx? ctx).bind (fun c => c.ring) with
       | some g => s.setHost (g.func * 2 ^ 20) (g.base + 8) (natToBytes 8 val.toNat)
       | none => s)
    | .sampling ctx => if val.toNat ≤ 65536 then s.updCtx ctx (fun c => { c with sampling := val.toNat }) else s
    | .ckptInterval ctx =>
      if val.toNat = 0 ∨ (100 ≤ val.toNat ∧ val.toNat ≤ 10000000) then s.updCtx ctx (fun c => { c with interval := val.toNat, since := s.tick }) else s
    | .ckptArea ctx => s.updCtx ctx (fun c => { c with area := val.toNat })
    | .recording ctx => s.updCtx ctx (fun c => { c with recording := val.getLsbD 0 })
    | .coalesce func => if val.toNat ≤ 1000 then { s with coalesce := Tab.set 0 s.coalesce func val.toNat } else s
    | .readiness _ => s
    | .notifyPage _ _ => s
    | .hostMem ctx iova => s.setHost ctx iova (natToBytes 8 val.toNat)
    | .hostPage ctx page => { s with hostPg := Tab.set 0 s.hostPg (hostKey ctx 0 / 4096 + page) (val.toNat % 4) }
    | .peerMap ctx pkg root => s.updCtx ctx (fun c => { c with peers := (pkg, root) :: c.peers.filter (fun p => decide (p.1 ≠ pkg)) })
    | .firmwareEvent core => s.postSignal core (val.setWidth 5)
    | .pageEntry pkg pa lvl => s.pageEntry pkg pa lvl val.toNat)

end Sys2Proof.Machine
end

