-- ==== Sys2Proof/Machine/Convert.lean ====
section
/-!
DEFINITION. Class 0x4, narrow and conversion (R158 to R165), with error feedback (R110) and block conversion (R111).
-/
namespace Sys2Proof.Machine

open Sys2Proof

/-! ### CVT, CVT2, CVT8 -/

/-- An integer result as a value, for the residue of R110. -/
def intFV (uns : Bool) (w : Word32) : FV :=
  if uns then .fin false w.toNat 0 else .fin (decide (w.toInt < 0)) w.toInt.natAbs 0

/-- One element of a conversion: the bits written, the flags, and the new residue with `.ef`. -/
structure Conv where
  bits : Nat
  flags : Flags
  resid : Nat

/-- Converts one value, or the value plus its residue (R110): `f` gives the bits, their value and flags for a value and a mode. -/
def convertOne (rnd : Rnd) (f : Rnd → FV → Nat × FV × Flags) (src resid : Nat) : Conv :=
  if rnd = .ef then
    let t := efTerm src resid
    let y := f .rne (Fmt.fp32.read t.1)
    let e := efResidue (Fmt.fp32.read t.1) y.2.1
    ⟨y.1, t.2 ||| y.2.2 ||| e.2, e.1⟩
  else
    let y := f rnd (Fmt.fp32.read src)
    ⟨y.1, y.2.2, resid⟩

/-- Value of a float format. -/
def toFmt (f : Fmt) (sat : Bool) (rnd : Rnd) (x : FV) : Nat × FV × Flags :=
  let y := f.convert rnd sat x
  (y.1, f.read y.1, y.2)

/-- Value of R105. -/
def toInt (uns : Bool) (rnd : Rnd) (x : FV) : Nat × FV × Flags :=
  let y := toInt32 uns rnd x
  (y.1.toNat, intFV uns y.1, y.2)

/-- Converts `m` values of a source in the active lanes; `pack` says how many elements a register holds, of `w` bits each. -/
def FCtx.convertAll (x : FCtx) (i : Instr) (a : Src) (m pack w : Nat) (tag : Tag) (k : BitVec 5) (rnd : Rnd)
    (f : Rnd → FV → Nat × FV × Flags) : Except Code State := do
  let p ← x.f32 a m
  let y := fun (j l : Nat) => convertOne rnd f (p.val j l) (x.fr.residOf l (k.toNat + j)).toNat
  pure (x.finish i { Out.none with
    regs := (List.range (m / pack)).map (fun r =>
      x.dreg tag (fun l => BitVec.ofNat 32 (packElems w ((List.range pack).map (fun j => (y (pack * r + j) l).bits))))),
    resid := if rnd = .ef then
        (lanesOf x.act).flatMap (fun l => (List.range m).map (fun j => (eKey l (k.toNat + j), BitVec.ofNat 32 (y j l).resid)))
      else [],
    flags := x.flagOut (fun l => flagUnion ((List.range m).map (fun j => (y j l).flags ||| p.fl j l))) })

/-- CVT, R158. -/
def execCvt (c : Ctl) (rnd : Rnd) (sat : Bool) (dir : CvtDir) (pl : Planes) (dst : BitVec 7) (a : Src) (k : BitVec 5) (s : State) : Out3 :=
  let i := Instr.cvt c rnd sat dir pl dst a k
  s.runF i (fun x =>
    match dir with
    | .f32ToI32 => x.convertAll i a pl.count 1 32 .int k rnd (toInt false)
    | .f32ToN32 => x.convertAll i a pl.count 1 32 .int k rnd (toInt true)
    | .i32ToF32 => .ok (x.finish i { Out.none with
        regs := [x.dreg .f32 (fun l => BitVec.ofNat 32 (ofInt32 rnd (x.raw a 0 l).toInt).1)],
        flags := x.flagOut (fun l => (ofInt32 rnd (x.raw a 0 l).toInt).2) })
    | .n32ToF32 => .ok (x.finish i { Out.none with
        regs := [x.dreg .f32 (fun l => BitVec.ofNat 32 (ofInt32 rnd ((x.raw a 0 l).toNat : Int)).1)],
        flags := x.flagOut (fun l => (ofInt32 rnd ((x.raw a 0 l).toNat : Int)).2) }))

/-- CVT2, R159. -/
def execCvt2 (c : Ctl) (rnd : Rnd) (sat alt : Bool) (pl : Planes) (dst : BitVec 7) (a : Src) (k : BitVec 5) (s : State) : Out3 :=
  s.runF (.cvt2 c rnd sat alt pl dst a k) (fun x =>
    x.convertAll (.cvt2 c rnd sat alt pl dst a k) a (packCount 2 pl) 2 16 (if alt then .bf16x2 else .f16x2) k rnd
      (toFmt (if alt then .bf16 else .fp16) sat))

/-- CVT8, R159. -/
def execCvt8 (c : Ctl) (rnd : Rnd) (sat alt : Bool) (pl : Planes) (dst : BitVec 7) (a : Src) (k : BitVec 5) (s : State) : Out3 :=
  s.runF (.cvt8 c rnd sat alt pl dst a k) (fun x =>
    x.convertAll (.cvt8 c rnd sat alt pl dst a k) a (packCount 4 pl) 4 8 (if alt then .e5m2x4 else .e4m3x4) k rnd
      (toFmt (if alt then .e5m2 else .e4m3) sat))

/-! ### CVT4 -/

/-- The band of CVT4 and UNP4: a BF16 value in bits [15:0] of a uniform source (R160). -/
def FCtx.band (x : FCtx) (b : Src) (l : Nat) : FV := Fmt.bf16.read ((x.raw b 0 l).toNat % 2 ^ 16)

/-- One lane of CVT4: the block, the new residues and the flags (R110, R111; DEDUCED, log 25). -/
def cvt4Lane (ef : Bool) (srcs resids : List Nat) (band : FV) : Block × List Nat × Flags :=
  let ts := if ef then (srcs.zip resids).map (fun p => efTerm p.1 p.2) else srcs.map (fun v => (v, flagNone))
  let vs := ts.map (fun t => Fmt.fp32.read t.1)
  let blk := blockConvert vs band
  let es := (vs.zip blk.elems).map (fun p => efResidue p.1 (f4bValue p.2 blk.side band).1)
  (blk, es.map (·.1), blk.flags ||| (if ef then flagUnion (ts.map (·.2)) ||| flagUnion (es.map (·.2)) else flagNone))

/-- CVT4, R160. -/
def execCvt4 (c : Ctl) (ef : Bool) (dst : BitVec 7) (a b : Src) (k : BitVec 5) (s : State) : Out3 :=
  s.runF (.cvt4 c ef dst a b k) (fun x => do
    let p ← x.f32 a 8
    let y := fun (l : Nat) => cvt4Lane ef ((List.range 8).map (fun j => p.val j l))
      ((List.range 8).map (fun j => (x.fr.residOf l (k.toNat + j)).toNat)) (x.band b l)
    pure (x.finish (.cvt4 c ef dst a b k) { Out.none with
      regs := [{ x.dreg .f4b (fun l => BitVec.ofNat 32 (packElems 4 (y l).1.elems)) with
                 side := (lanesOf x.act).map (fun l => (l, BitVec.ofNat 8 (y l).1.side)) }],
      resid := if ef then (lanesOf x.act).flatMap (fun l => (y l).2.1.zipIdx.map (fun e => (eKey l (k.toNat + e.2), BitVec.ofNat 32 e.1)))
        else [],
      flags := x.flagOut (fun l => (y l).2.2) }))

/-! ### Widening -/

/-- An element in FP32 (R161): exact, with invalid for a signalling NaN. -/
def widen (f : Fmt) (e : Nat) : Nat × Flags := Fmt.fp32.convert .rne false (f.read e)

/-- UNP8 and UNP2: the format comes from the source's tag in each rod. -/
def FCtx.unpack (x : FCtx) (i : Instr) (a : Src) (n : Nat) (ok : Tag → Bool) : Except Code State :=
  if !(rodsOf x.act).all (fun k => ok (x.tagOf a 0 k)) then .error .fmttag
  else
    let y := fun (j l : Nat) => widen (Tag.fmt (x.tagOf a 0 (l / 4))) (tagElem (x.tagOf a 0 (l / 4)) (x.raw a 0 l) j)
    .ok (x.finish i { Out.none with
      regs := (List.range n).map (fun j => x.dreg .f32 (fun l => BitVec.ofNat 32 (y j l).1)),
      flags := x.flagOut (fun l => flagUnion ((List.range n).map (fun j => (y j l).2))) })

/-- UNP8, R161. -/
def execUnp8 (c : Ctl) (dst : BitVec 7) (a : Src) (s : State) : Out3 :=
  s.runF (.unp8 c dst a) (fun x => x.unpack (.unp8 c dst a) a 4 (fun t => decide (t = .e4m3x4) || decide (t = .e5m2x4)))

/-- UNP2, R161. -/
def execUnp2 (c : Ctl) (dst : BitVec 7) (a : Src) (s : State) : Out3 :=
  s.runF (.unp2 c dst a) (fun x => x.unpack (.unp2 c dst a) a 2 (fun t => decide (t = .f16x2) || decide (t = .bf16x2)))

/-- UNP4, R162, R99. -/
def execUnp4 (c : Ctl) (dst : BitVec 7) (a b : Src) (s : State) : Out3 :=
  s.runF (.unp4 c dst a b) (fun x =>
    if !(rodsOf x.act).all (fun k => decide (x.tagOf a 0 k = .f4b)) then .error .fmttag
    else
      let y := fun (j l : Nat) =>
        let v := f4bValue (tagElem .f4b (x.raw a 0 l) j) (x.sideOf a 0 l).toNat (x.band b l)
        let r := Fmt.fp32.convert .rne false v.1
        (r.1, r.2 ||| flagIf v.2)
      .ok (x.finish (.unp4 c dst a b) { Out.none with
        regs := (List.range 8).map (fun j => x.dreg .f32 (fun l => BitVec.ofNat 32 (y j l).1)),
        flags := x.flagOut (fun l => flagUnion ((List.range 8).map (fun j => (y j l).2))) }))

/-! ### Side bytes, tags, residues -/

/-- SCLRD, R163. -/
def execSclrd (c : Ctl) (dst : BitVec 7) (a : Src) (s : State) : Out3 :=
  s.runF (.sclrd c dst a) (fun x =>
    .ok (x.finish (.sclrd c dst a) { Out.none with regs := [x.dreg .int (fun l => (x.sideOf a 0 l).setWidth 32)] }))

/-- SCLWR, R163: the side byte of vD alone. -/
def execSclwr (c : Ctl) (dst : BitVec 7) (a b : Src) (s : State) : Out3 :=
  s.runF (.sclwr c dst a b) (fun x =>
    .ok (x.finish (.sclwr c dst a b) { Out.none with
      regs := [⟨[], [], (lanesOf x.act).map (fun l => (l, (x.raw b 0 l).setWidth 8)), fun k => x.fr.tagOf k dst.toNat⟩] }))

/-- TAGRD, R164. -/
def execTagrd (c : Ctl) (dst : BitVec 7) (a : Src) (s : State) : Out3 :=
  s.runF (.tagrd c dst a) (fun x =>
    .ok (x.finish (.tagrd c dst a) { Out.none with regs := [x.dreg .int (fun l => BitVec.ofNat 32 (x.tagOf a 0 (l / 4)).code)] }))

/-- RETAG, R164: it converts nothing and leaves the side byte. -/
def execRetag (c : Ctl) (tag : Tag) (dst : BitVec 7) (a : Src) (s : State) : Out3 :=
  s.runF (.retag c tag dst a) (fun x => .ok (x.finish (.retag c tag dst a) { Out.none with regs := [x.dreg tag (x.raw a 0)] }))

/-- EFMOV, R165. -/
def execEfmov (c : Ctl) (dir : Bool) (dst : BitVec 7) (a : Option Src) (k : BitVec 5) (s : State) : Out3 :=
  s.runF (.efmov c dir dst a k) (fun x =>
    match a with
    | none => .ok (x.finish (.efmov c dir dst a k) { Out.none with regs := [x.dreg .f32 (fun l => x.fr.residOf l k.toNat)] })
    | some src => do
      let _ ← x.f32 src 1
      pure (x.finish (.efmov c dir dst a k) { Out.none with
        resid := (lanesOf x.act).map (fun l => (eKey l k.toNat, x.raw src 0 l)) }))

end Sys2Proof.Machine
end

