-- ==== Sys2Proof/Machine/Fp.lean ====
section
/-!
DEFINITION. Class 0x2, FP32 arithmetic and functions (R141 to R151), and class 0x3, packed 16-bit arithmetic (R152 to R157).
-/
namespace Sys2Proof.Machine

open Sys2Proof

/-! ### FP32 consumers -/

/-- An FP32 operation on bit patterns, plane by plane: the result and its flags. -/
abbrev FOp := Nat → Nat → Nat → Nat × Flags

/-- An FP32 instruction of `n` planes (R142, R143): plane `j` of the result goes to vD+j, and every source's map flags are raised. -/
def State.fp (s : State) (i : Instr) (n : Nat) (a b d : Src) (f : FOp) : Out3 :=
  s.runF i (fun x => do
    let p ← x.f32 a n
    let q ← x.f32 b n
    let r ← x.f32 d n
    let y := fun (j l : Nat) => f (p.val j l) (q.val j l) (r.val j l)
    pure (x.finish i { Out.none with
      regs := (List.range n).map (fun j => x.dreg .f32 (fun l => BitVec.ofNat 32 (y j l).1)),
      flags := x.flagOut (fun l => flagUnion ((List.range n).map (fun j => (y j l).2 ||| p.fl j l ||| q.fl j l ||| r.fl j l))) }))

/-- An operation on values. -/
def onValues (f : FV → FV → FV → Nat × Flags) : FOp := fun p q r => f (Fmt.fp32.read p) (Fmt.fp32.read q) (Fmt.fp32.read r)

/-- FADD, R145. -/
def execFadd (c : Ctl) (rnd : Rnd) (pl : Planes) (dst : BitVec 7) (a b : Src) (s : State) : Out3 :=
  s.fp (.fadd c rnd pl dst a b) pl.count a b noSrc (onValues (fun p q _ => Fmt.fp32.add rnd p q))

/-- FSUB, R145. -/
def execFsub (c : Ctl) (rnd : Rnd) (pl : Planes) (dst : BitVec 7) (a b : Src) (s : State) : Out3 :=
  s.fp (.fsub c rnd pl dst a b) pl.count a b noSrc (onValues (fun p q _ => Fmt.fp32.sub rnd p q))

/-- FMUL, R145. -/
def execFmul (c : Ctl) (rnd : Rnd) (pl : Planes) (dst : BitVec 7) (a b : Src) (s : State) : Out3 :=
  s.fp (.fmul c rnd pl dst a b) pl.count a b noSrc (onValues (fun p q _ => Fmt.fp32.mul rnd p q))

/-- FFMA, R145: one rounding. -/
def execFfma (c : Ctl) (rnd : Rnd) (pl : Planes) (dst : BitVec 7) (a b d : Src) (s : State) : Out3 :=
  s.fp (.ffma c rnd pl dst a b d) pl.count a b d (onValues (fun p q r => Fmt.fp32.fma rnd p q r))

/-- FMIN, R146. -/
def execFmin (c : Ctl) (nan : Bool) (pl : Planes) (dst : BitVec 7) (a b : Src) (s : State) : Out3 :=
  s.fp (.fmin c nan pl dst a b) pl.count a b noSrc (fun p q _ => Fmt.fp32.minMax false nan p q)

/-- FMAX, R146. -/
def execFmax (c : Ctl) (nan : Bool) (pl : Planes) (dst : BitVec 7) (a b : Src) (s : State) : Out3 :=
  s.fp (.fmax c nan pl dst a b) pl.count a b noSrc (fun p q _ => Fmt.fp32.minMax true nan p q)

/-- FDIV, R147, R112. -/
def execFdiv (c : Ctl) (rnd : Rnd) (dst : BitVec 7) (a b : Src) (s : State) : Out3 :=
  s.fp (.fdiv c rnd dst a b) 1 a b noSrc (onValues (fun p q _ => fdiv rnd p q))

/-- FSQRT, R147, R112. -/
def execFsqrt (c : Ctl) (rnd : Rnd) (dst : BitVec 7) (a : Src) (s : State) : Out3 :=
  s.fp (.fsqrt c rnd dst a) 1 a noSrc noSrc (onValues (fun p _ _ => fsqrt rnd p))

/-- FRCP, R147, R112. -/
def execFrcp (c : Ctl) (rnd : Rnd) (dst : BitVec 7) (a : Src) (s : State) : Out3 :=
  s.fp (.frcp c rnd dst a) 1 a noSrc noSrc (onValues (fun p _ _ => frcp rnd p))

/-- FRSQ, R147, R112. -/
def execFrsq (c : Ctl) (rnd : Rnd) (dst : BitVec 7) (a : Src) (s : State) : Out3 :=
  s.fp (.frsq c rnd dst a) 1 a noSrc noSrc (onValues (fun p _ _ => frsq rnd p))

/-- FEXP2, R147, R112. -/
def execFexp2 (c : Ctl) (rnd : Rnd) (dst : BitVec 7) (a : Src) (s : State) : Out3 :=
  s.fp (.fexp2 c rnd dst a) 1 a noSrc noSrc (onValues (fun p _ _ => fexp2 rnd p))

/-- FLOG2, R147, R112. -/
def execFlog2 (c : Ctl) (rnd : Rnd) (dst : BitVec 7) (a : Src) (s : State) : Out3 :=
  s.fp (.flog2 c rnd dst a) 1 a noSrc noSrc (onValues (fun p _ _ => flog2 rnd p))

/-- FSINPI, R147, R112. -/
def execFsinpi (c : Ctl) (rnd : Rnd) (dst : BitVec 7) (a : Src) (s : State) : Out3 :=
  s.fp (.fsinpi c rnd dst a) 1 a noSrc noSrc (onValues (fun p _ _ => fsinpi rnd p))

/-- FCOSPI, R147, R112. -/
def execFcospi (c : Ctl) (rnd : Rnd) (dst : BitVec 7) (a : Src) (s : State) : Out3 :=
  s.fp (.fcospi c rnd dst a) 1 a noSrc noSrc (onValues (fun p _ _ => fcospi rnd p))

/-- FTANH, R147, R112. -/
def execFtanh (c : Ctl) (rnd : Rnd) (dst : BitVec 7) (a : Src) (s : State) : Out3 :=
  s.fp (.ftanh c rnd dst a) 1 a noSrc noSrc (onValues (fun p _ _ => ftanh rnd p))

/-- FRND, R148. -/
def execFrnd (c : Ctl) (rnd : Rnd) (dst : BitVec 7) (a : Src) (s : State) : Out3 :=
  s.fp (.frnd c rnd dst a) 1 a noSrc noSrc (fun p _ _ => frnd rnd p)

/-- FFRC, R149. -/
def execFfrc (c : Ctl) (dst : BitVec 7) (a : Src) (s : State) : Out3 :=
  s.fp (.ffrc c dst a) 1 a noSrc noSrc (fun p _ _ => ffrc p)

/-- FCLS, R150: a predicate, and no flag. -/
def execFcls (c : Ctl) (pd : BitVec 3) (a : Src) (mask : BitVec 10) (s : State) : Out3 :=
  s.runF (.fcls c pd a mask) (fun x => do
    let p ← x.f32 a 1
    pure (x.finish (.fcls c pd a mask) { Out.none with preds := x.predOut (fun l => mask.getLsbD (fclass (p.fv 0 l))) }))

/-- FSCL, R151: B is a signed integer. -/
def execFscl (c : Ctl) (rnd : Rnd) (dst : BitVec 7) (a b : Src) (s : State) : Out3 :=
  s.runF (.fscl c rnd dst a b) (fun x => do
    let p ← x.f32 a 1
    let y := fun (l : Nat) => fscl rnd (p.val 0 l) (x.raw b 0 l).toInt
    pure (x.finish (.fscl c rnd dst a b) { Out.none with
      regs := [x.dreg .f32 (fun l => BitVec.ofNat 32 (y l).1)], flags := x.flagOut (fun l => (y l).2) }))

/-! ### Packed 16-bit -/

/-- Two 16-bit elements as a register. -/
def pack2 (e : Nat → Nat) : Word32 := BitVec.ofNat 32 (packElems 16 [e 0, e 1])

/-- A packed instruction: `f` gives each element, in a tag (R152, R153). -/
def State.h2op (s : State) (i : Instr) (bf : Bool) (tag : Tag) (a b d : Src) (f : Opnd → Opnd → Opnd → Nat → Nat → Nat × Flags) : Out3 :=
  s.runF i (fun x => do
    let p ← x.h2 a bf
    let q ← x.h2 b bf
    let r ← x.h2 d bf
    pure (x.finish i { Out.none with
      regs := [x.dreg tag (fun l => pack2 (fun k => (f p q r k l).1))],
      flags := x.flagOut (fun l => flagUnion ((List.range 2).map (fun k => (f p q r k l).2 ||| p.fl k l ||| q.fl k l ||| r.fl k l))) }))

/-- HADD2, R153. -/
def execHadd2 (c : Ctl) (rnd : Rnd) (bf : Bool) (dst : BitVec 7) (a b : Src) (s : State) : Out3 :=
  s.h2op (.hadd2 c rnd bf dst a b) bf (h2Tag bf) a b noSrc (fun p q _ k l => (h2Fmt bf).add rnd (p.fv k l) (q.fv k l))

/-- HSUB2, R153. -/
def execHsub2 (c : Ctl) (rnd : Rnd) (bf : Bool) (dst : BitVec 7) (a b : Src) (s : State) : Out3 :=
  s.h2op (.hsub2 c rnd bf dst a b) bf (h2Tag bf) a b noSrc (fun p q _ k l => (h2Fmt bf).sub rnd (p.fv k l) (q.fv k l))

/-- HMUL2, R153. -/
def execHmul2 (c : Ctl) (rnd : Rnd) (bf : Bool) (dst : BitVec 7) (a b : Src) (s : State) : Out3 :=
  s.h2op (.hmul2 c rnd bf dst a b) bf (h2Tag bf) a b noSrc (fun p q _ k l => (h2Fmt bf).mul rnd (p.fv k l) (q.fv k l))

/-- HFMA2, R153. -/
def execHfma2 (c : Ctl) (rnd : Rnd) (bf : Bool) (dst : BitVec 7) (a b d : Src) (s : State) : Out3 :=
  s.h2op (.hfma2 c rnd bf dst a b d) bf (h2Tag bf) a b d (fun p q r k l => (h2Fmt bf).fma rnd (p.fv k l) (q.fv k l) (r.fv k l))

/-- The operand chosen by HMIN2 or HMAX2, in F: a mapped plane is rounded RNE into it (R154). -/
def h2Pick (isMax nan : Bool) (f : Fmt) (p q : Opnd) (k l : Nat) : Nat × Flags :=
  let put := fun (o : Opnd) => if o.fmt = f then (o.val k l, flagNone) else f.convert .rne false (o.fv k l)
  let r := match minMaxPick isMax nan (p.fv k l) (q.fv k l) with
    | none => (f.nan, flagNone)
    | some false => put p
    | some true => put q
  (r.1, r.2 ||| minMaxFlags (p.fv k l) (q.fv k l))

/-- HMIN2, R154. -/
def execHmin2 (c : Ctl) (nan bf : Bool) (dst : BitVec 7) (a b : Src) (s : State) : Out3 :=
  s.h2op (.hmin2 c nan bf dst a b) bf (h2Tag bf) a b noSrc (fun p q _ k l => h2Pick false nan (h2Fmt bf) p q k l)

/-- HMAX2, R154. -/
def execHmax2 (c : Ctl) (nan bf : Bool) (dst : BitVec 7) (a b : Src) (s : State) : Out3 :=
  s.h2op (.hmax2 c nan bf dst a b) bf (h2Tag bf) a b noSrc (fun p q _ k l => h2Pick true nan (h2Fmt bf) p q k l)

/-- HDOT2, R155: one rounding to FP32. -/
def execHdot2 (c : Ctl) (rnd : Rnd) (bf : Bool) (dst : BitVec 7) (a b d : Src) (s : State) : Out3 :=
  s.runF (.hdot2 c rnd bf dst a b d) (fun x => do
    let p ← x.h2 a bf
    let q ← x.h2 b bf
    let r ← x.f32 d 1
    let y := fun (l : Nat) => Fmt.fp32.sumProducts rnd [(p.fv 0 l, q.fv 0 l), (p.fv 1 l, q.fv 1 l)] [r.fv 0 l]
    pure (x.finish (.hdot2 c rnd bf dst a b d) { Out.none with
      regs := [x.dreg .f32 (fun l => BitVec.ofNat 32 (y l).1)],
      flags := x.flagOut (fun l => (y l).2 ||| p.fl 0 l ||| p.fl 1 l ||| q.fl 0 l ||| q.fl 1 l) }))

/-- HCMP2, R156: a mask of two halves, tagged INT. -/
def execHcmp2 (c : Ctl) (cond : Cond) (un bf : Bool) (dst : BitVec 7) (a b : Src) (s : State) : Out3 :=
  s.h2op (.hcmp2 c cond un bf dst a b) bf .int a b noSrc (fun p q _ k l =>
    (if (fcmp cond un (p.fv k l) (q.fv k l)).1 then 0xFFFF else 0, (fcmp cond un (p.fv k l) (q.fv k l)).2))

/-- HXCVT2, R157: FMT16 names the source format. -/
def execHxcvt2 (c : Ctl) (rnd : Rnd) (bf : Bool) (dst : BitVec 7) (a : Src) (s : State) : Out3 :=
  s.h2op (.hxcvt2 c rnd bf dst a) bf (h2Tag (!bf)) a noSrc noSrc (fun p _ _ k l => (h2Fmt (!bf)).convert rnd false (p.fv k l))

end Sys2Proof.Machine
end

