-- ==== Sys2Proof/Machine/Grids.lean ====
section
/-!
DEFINITION. The events of the launch unit: placing gangs (R294, R295), aging (R297), the ends of workgroups and grids (R219, R298), and the
pre-emption, save and restore of gangs (R385 to R391), with the schedules and the partitions that cause it (R381 to R384, R396 to R398).
-/
namespace Sys2Proof.Machine

open Sys2Proof

/-! ### Placing -/

/-- Whether the gangs that a grid needs can be placed, given the busy cores. -/
def State.fitsNow (s : State) (g : Grid) (busy : List Nat) : Bool := decide (g.need ≤ (s.spots g true busy).length)

def Grid.samePart (g h : Grid) : Bool := decide (g.ptop = h.ptop ∧ recChild g.lrec = recChild h.lrec)

/-- Parked gangs, oldest first, with their grids. -/
def State.parkedGangs (s : State) : List (Grid × Gang) :=
  (s.parked.filterMap (fun w => (s.grid? w.grid).bind (fun g => (g.gang? w.gang).map (fun k => (g, k))))).eraseDups

/-- Whether a gang that the end of its entry's slice parked waits for that entry's next slice (R385). -/
def State.waitsSlice (s : State) (g : Grid) (k : Gang) : Bool :=
  k.sliced && !(s.children g.ptop).isEmpty && (match Assoc.at s.scheds g.ptop with | some e => decide (e.entry ≠ recChild g.lrec) | none => false)

/-- Whether a parked gang goes before new gangs of a grid (R386). -/
def State.parkedFirst (s : State) (g : Grid) : Bool :=
  s.parkedGangs.any (fun p => p.1.samePart g && !p.1.waitres && !s.waitsSlice p.1 p.2 && decide (g.prio ≤ p.2.prio p.1))

/-- Where gangs of a grid may be placed now: while parked gangs go first (R386), on the clusters that are reserved for gangs that have aged, and on no
others (R297). -/
def State.openSpots (s : State) (g : Grid) (busy : List Nat) : List (Nat × List Nat) :=
  let all := s.spots g true busy
  if s.parkedFirst g then all.filter (fun p => g.reserved.contains p.1) else all

/-- Whether a grid of the same launch unit, with its place in the order of acceptance, comes before this one (R295). A running grid that still grows has the place
that its PRIO and its acceptance give it (DESIGN CHOICE, log 36). -/
def State.goesBefore (s : State) (g : Grid) (p : Grid × Nat) : Bool :=
  decide (p.1.die = g.die ∧ p.1.id ≠ g.id) && p.1.hungry && !s.ckptPending (s.ctxOf p.1) &&
  (decide (g.prio < p.1.prio) || (decide (p.1.prio = g.prio) && decide (p.2 < (s.grids.map (fun x => x.id)).idxOf g.id)))

/-- Whether a grid that comes before this one can be placed (R295). -/
def State.placedFirst (s : State) (g : Grid) (busy : List Nat) : Bool :=
  s.grids.zipIdx.any (fun p => s.goesBefore g p && decide (p.1.need ≤ (s.openSpots p.1 busy).length))

/-- The cores that the grids before this one would take now, one grid after the other (R295). -/
def State.claimed (s : State) (g : Grid) (busy : List Nat) : List Nat :=
  ((List.range 8).reverse.flatMap (fun n => s.grids.zipIdx.filter (fun p => s.goesBefore g p && decide (p.1.prio = n)))).foldl (fun cores p =>
    let sp := s.openSpots p.1 (busy ++ cores)
    if p.1.need ≤ sp.length then cores ++ (sp.take (p.1.lrec.gmax - p.1.placed)).flatMap (fun x => x.2) else cores) []

/-- Starts a grid with these gangs (R295, R301). -/
def State.startGrid (s : State) (g : Grid) (spots : List (Nat × List Nat)) : State :=
  let cores := spots.flatMap (fun p => p.2)
  let s := s.updGrid g.id (fun x => { x with
    st := .running, total := spots.length, since := [], reported := false, reserved := [],
    ranges := tileShares (g.lrec.x * g.lrec.y * g.lrec.z) cores })
  let count := if g.coop then g.lrec.gang * spots.length else g.lrec.gang * g.lrec.gmax
  let s := spots.foldl (fun s p => s.placeGang g.id count p.1 p.2) s
  if g.coop then s.updGrid g.id (fun x => { x with measured := none }) else s

/-- Where the gangs of a grid whose turn it is may go, or, while another grid comes first, those that a cluster is reserved for (R297). A grid that these let start
places as many gangs as fit beside what the grids before it would take (R295). -/
def State.turnSpots (s : State) (g : Grid) (busy : List Nat) : List (Nat × List Nat) :=
  if s.placedFirst g busy then
    let mine := (s.openSpots g busy).filter (fun p => g.reserved.contains p.1)
    if g.st = .pending ∧ g.need ≤ mine.length then
      mine ++ (s.openSpots g (busy ++ s.claimed g busy)).filter (fun p => !g.reserved.contains p.1)
    else mine
  else s.openSpots g busy

/-- Gangs needed to reach GMIN that fail to be placed now (R297). -/
def Grid.failing (g : Grid) (spots : Nat) : Nat :=
  if g.st ≠ .pending then 0 else g.need - spots

/-- The gangs that fail begin to age, those that failed before age on (R297). -/
def Grid.ages (g : Grid) (n tick : Nat) : Grid := { g with since := g.since ++ List.replicate (n - g.since.length) tick }

/-- GANG_PLACE, R294, R295, R297: a pending grid starts with every gang that fits up to GMAX, and a running one gains its next gang; the gangs that GMIN needs
and that fail to be placed age. While a checkpoint of its context is pending every gang of that is halted, and none is placed (R408). -/
def execGangPlace (grid : Nat) (s : State) : Out3 :=
  .next (match s.grid? grid with
    | none => s
    | some g =>
      let busy := s.busyCores
      let spots := s.turnSpots g busy
      if !s.featOn || !g.hungry || s.ckptPending (s.ctxOf g) then s
      else if spots.length < g.need then s.updGrid grid (fun g => g.ages (g.failing (s.openSpots g busy).length) s.tick)
      else if g.st = .pending then s.startGrid g (spots.take g.lrec.gmax)
      else match spots with
        | p :: _ => s.placeGang g.id (g.lrec.gang * g.lrec.gmax) p.1 p.2
        | [] => s)

/-! ### Halting gangs -/

/-- Halts a gang, or the whole grid when it is COOP (R385). What a checkpoint has halted is the checkpoint's no longer: it does not restore it. -/
def State.haltGang (s : State) (g : Grid) (k : Nat) : State :=
  let mine := fun (w : Wg) => decide (w.grid = g.id) && (g.coop || decide (w.gang = k))
  let s := (s.live.filter (fun p => mine p.2 && !p.2.halt)).foldl (fun s p => s.haltCore p.1) s
  s.updCtx (s.ctxOf g) (fun c => { c with halted := c.halted.filter (fun p => !(s.live.any (fun q => mine q.2 && q.2.is p.1 p.2))) })

/-- The gangs that stand on a cluster. -/
def State.gangsOn (s : State) (cluster : Nat) : List (Grid × Gang) :=
  s.grids.flatMap (fun g => (g.gangs.filter (fun (k : Gang) => !k.parked && decide (k.cluster = cluster))).map (fun k => (g, k)))

def State.haltAll (s : State) (gs : List (Grid × Gang)) : State := gs.foldl (fun s p => s.haltGang p.1 p.2.idx) s

/-! ### Aging (R297) -/

/-- Cores of a cluster that placement cannot take now. -/
def State.occupied (s : State) (cluster : Nat) (busy : List Nat) : Nat :=
  ((coresOf cluster).filter (fun c => busy.contains c || !s.coreIn c)).length

/-- The cluster of a partition with the fewest occupied cores among those not reserved, the lowest number on a tie. -/
def State.agingCluster (s : State) (d : PartDesc) (busy : List Nat) : Option Nat :=
  ((partClusters d).filter (fun c => !s.grids.any (fun (g : Grid) => g.reserved.contains c))).foldl (fun (best : Option Nat) c =>
    match best with
    | none => some c
    | some b => if s.occupied c busy < s.occupied b busy then some c else some b) none

/-- GANG_AGING, R297: for each gang that has aged 200 µs a cluster is reserved; its gangs are pre-empted if the grid's PRIO is above them all
(corners: DEDUCED, log 36). -/
def execGangAging (grid : Nat) (s : State) : Out3 :=
  .next (match s.grid? grid with
    | none => s
    | some g =>
      match g.since[g.reserved.length]?, s.part? g.ptop (recChild g.lrec) with
      | some t, some d =>
        if g.st ≠ .pending ∨ s.tick - t < 200000 then s
        else match s.agingCluster d s.busyCores with
          | none => s
          | some c =>
            let on := s.gangsOn c
            let s := s.updGrid grid (fun g => { g with reserved := g.reserved ++ [c] })
            if on.all (fun p => decide (p.2.prio p.1 < g.prio)) then s.haltAll on else s
      | _, _ => s)

/-- GANGPLACE_REPORT, R297: after 50 ms the queue reports GANGPLACE, once. -/
def execGangplaceReport (grid : Nat) (s : State) : Out3 :=
  .next (match s.grid? grid with
    | none => s
    | some g =>
      match g.since.head? with
      | some t =>
        if g.st ≠ .pending ∨ g.reported ∨ s.tick - t < 50000000 then s
        else
          let was := s.qGangplace g.queue
          let s := s.updGrid grid (fun g => { g with reported := true })
          if was then s else s.signalQueue g.queue
      | none => s)

/-! ### Ends -/

/-- Whether a workgroup whose last lane has left has nothing before its final commit: actions, copies, commits, requests (R174, R268,
R334). -/
def State.mayEnd (s : State) (w : Wg) : Bool :=
  w.goes && w.allDead && w.acts.isEmpty && w.copies.isEmpty && !w.reqs.any Req.beforeCommit &&
  !s.commits.any (fun (c : Commit) => match c.who with
    | .party x _ => decide (x.grid = w.grid ∧ x.wg = w.idx)
    | .act g i _ | .copy g i _ | .publish g i _ _ _ _ _ | .final g i => decide (g = w.grid ∧ i = w.idx)
    | .packet _ _ => false)

/-- WORKGROUP_END, R174, R219, R268: the groups still open are discarded and the final commit is made; the record and the bead follow its
completion. A slot fill that failed, or an uncorrectable load, ends it by that fault (R221, R324), and a replay that expects an input of it diverges (R412). -/
def execWorkgroupEnd (grid wg : Nat) (s : State) : Out3 :=
  .next (match s.wg? grid wg with
    | none => s
    | some w =>
      if !(s.mayEnd w && s.mayStamp (s.ctxOfWg w) w none) then s
      else match w.storage with
        | some r => s.finalFault w r
        | none =>
          if s.stillExpects (s.ctxOfWg w) (LogEntry.isInputAt w.home) then s.inputMissed (s.ctxOfWg w) w.home (LogEntry.isInputAt w.home)
          else if w.mapstore then s.mapstoreStop w
          else
            let s := w.groups.foldl (fun s p => s.dropGroup p.1 p.2) s
            let s := s.setWg { w with groups := [], rst := .stopped, dq := [], run := .ending }
            let k := s.commitFor grid wg true
            (k.s.addCommit k.stamp (dieOf w.core) .package (.final grid wg) k.peers).2)

/-- GRID_END, R298: every workgroup placed for a grid has ended. -/
def execGridEnd (grid : Nat) (s : State) : Out3 :=
  .next (match s.grid? grid with
    | none => s
    | some g => if g.st ≠ .pending ∧ g.ended.length = g.lrec.gang * g.placed then s.endGrid g else s)

/-! ### What pre-empts (R385, R386, R396, R397) -/

/-- A set of gangs that pre-emption takes together: one gang, or every gang of a COOP grid. -/
abbrev Victim := Grid × List Gang

def subsets {α : Type} : List α → List (List α)
  | [] => [[]]
  | a :: t => let r := subsets t; r ++ r.map (fun l => a :: l)

/-- The gangs on the clusters of a grid's partition that R386 may take for it. -/
def State.victims (s : State) (h : Grid) : List Victim :=
  match s.part? h.ptop (recChild h.lrec) with
  | none => []
  | some d =>
    s.grids.flatMap (fun (g : Grid) =>
      let ks := g.gangs.filter (fun (k : Gang) => !k.parked && decide (k.prio g < h.prio))
      let here := ks.filter (fun (k : Gang) => d.clusters.testBit k.cluster &&
        !s.live.any (fun p => decide (p.2.grid = g.id ∧ p.2.gang = k.idx) && p.2.halt))
      if g.coop then (if here.isEmpty then [] else [(g, ks)]) else here.map (fun k => (g, [k])))

def victimGangs (v : List Victim) : List Gang := v.flatMap (fun p => p.2)
def victimSize (v : List Victim) : Nat := (victimGangs v).length
def victimPrio (v : List Victim) : Nat := (v.flatMap (fun p => p.2.map (fun (k : Gang) => k.prio p.1))).foldl max 0
def victimOldest (v : List Victim) : Nat := ((victimGangs v).map (fun k => k.seq)).foldl min (((victimGangs v).map (fun k => k.seq)).foldl max 0)
def victimCluster (v : List Victim) : Nat := ((victimGangs v).map (fun k => k.cluster)).foldl min 1536

/-- Whether R386 prefers one set to another. -/
def victimLt (a b : List Victim) : Bool :=
  if victimSize a ≠ victimSize b then decide (victimSize a < victimSize b)
  else if victimPrio a ≠ victimPrio b then decide (victimPrio a < victimPrio b)
  else if victimOldest a ≠ victimOldest b then decide (victimOldest b < victimOldest a)
  else decide (victimCluster a < victimCluster b)

/-- Cores that halted gangs are about to leave. -/
def State.haltedCores (s : State) : List Nat := (s.live.filter (fun p => p.2.halt)).map (fun p => p.1)

/-- The set that is pre-empted for a grid that cannot place what it needs; none where nothing is, or enough is on its way out. -/
def State.victimSet (s : State) (h : Grid) : Option (List Victim) :=
  let busy := s.busyCores.filter (fun c => !s.haltedCores.contains c)
  if !h.hungry || s.fitsNow h busy then none
  else
    let ok := (subsets (s.victims h)).filter (fun v =>
      let freed := (victimGangs v).flatMap (fun k => k.cores)
      decide (h.need ≤ (s.spots h false (busy.filter (fun c => !freed.contains c))).length))
    ok.foldl (fun (best : Option (List Victim)) v =>
      match best with
      | none => some v
      | some b => if victimLt v b then some v else some b) none

/-- The lowest borrowed cluster that its owner reclaims: gangs of the owner wait and do not all find free cores of its own (R396). -/
def State.reclaimed (s : State) : Option Nat :=
  (List.range 1536).find? (fun c =>
    match s.ownerOf c with
    | none => false
    | some t =>
      (s.gangsOn c).any (fun p => decide (p.1.ptop ≠ t)) &&
      s.grids.any (fun h => decide (h.ptop = t) && (match s.part? t (recChild h.lrec) with | some d => d.clusters.testBit c | none => false) &&
        decide ((s.spots h false (s.busyCores.filter (fun c => !s.haltedCores.contains c))).length < s.wants h)))

/-- PREEMPT_REQUEST, R385 to R387, R396, R397: a gang is halted because a grid of higher PRIO needs its cores, with the whole set that R386
chooses, or because its borrowed cluster is reclaimed. No other cause pre-empts by this event. -/
def execPreemptRequest (grid gang : Nat) (s : State) : Out3 :=
  .next (match s.grids.findSome? (fun h => (s.victimSet h).bind (fun v =>
      if v.any (fun p => decide (p.1.id = grid) && p.2.any (fun (k : Gang) => decide (k.idx = gang))) then some v else none)) with
    | some v => s.haltAll (v.flatMap (fun p => p.2.map (fun k => (p.1, k))))
    | none =>
      match s.reclaimed with
      | none => s
      | some c =>
        let on := (s.gangsOn c).filter (fun p => decide (s.ownerOf c ≠ some p.1.ptop))
        if on.any (fun p => decide (p.1.id = grid ∧ p.2.idx = gang)) then
          let s := s.haltAll on
          on.foldl (fun s p => if p.1.coop then s else s.updGrid p.1.id (fun g => g.updGang p.2.idx (fun k => { k with raised := true }))) s
        else s)

/-! ### Save and restore (R390, R391) -/

/-- CONTEXT_SAVE, R390: a halted workgroup's image is written to its save area, and its core is free; one that a checkpoint has halted stays. -/
def execContextSave (grid wg : Nat) (s : State) : Out3 :=
  .next (match s.live.find? (fun p => p.2.is grid wg) with
    | some (c, w) => if w.halt && !s.inCkpt w then s.parkCore c else s
    | none => s)

/-- Restores the parked workgroups of a gang on cores of a cluster, by their positions. -/
def State.restoreGang (s : State) (g : Grid) (k cluster : Nat) (cores : List Nat) : State :=
  let ws := s.parked.filter (fun w => decide (w.grid = g.id ∧ w.gang = k))
  let s := { s with parked := s.parked.filter (fun w => !(decide (w.grid = g.id ∧ w.gang = k))) }
  let s := s.gangOn g.id k cluster cores
  ws.foldl (fun s w => match cores[w.pos]? with
    | some c => s.restoreOn w c
    | none => s) s

/-- CONTEXT_RESTORE, R385, R386, R391: a parked gang, the first of its partition in the order of parking, is restored on cores of one cluster of
its partition; a COOP grid is restored whole. -/
def execContextRestore (grid gang : Nat) (s : State) : Out3 :=
  .next (match s.grid? grid with
    | none => s
    | some g =>
      let mine := g.gangs.filter (fun (k : Gang) => s.waitsPlace g k && !s.waitsSlice g k)
      let todo := if g.coop then mine else mine.filter (fun (k : Gang) => decide (k.idx = gang))
      let first := (s.parkedGangs.filter (fun p => p.1.samePart g && !s.waitsSlice p.1 p.2 && (!p.1.waitres || decide (p.1.id = grid)))).head?
      let spots := s.spots g false s.busyCores
      let ready := !todo.isEmpty && todo.length ≤ spots.length &&
        (match first with | some p => decide (p.1.id = grid) && (g.coop || decide (p.2.idx = gang)) | none => false) &&
        !s.ckptPending (s.ctxOf g) &&
        (!g.coop || g.gangs.all (fun (k : Gang) => k.parked))
      if ready then
        (todo.zip spots).foldl (fun s p => s.restoreGang g p.1.idx p.2.1 p.2.2) (s.updGrid grid (fun g => { g with waitres := false }))
      else s)

/-! ### Schedules (R384) -/

/-- Whether an entry of a schedule has pending or parked gangs. -/
def State.entryWork (s : State) (top e : Nat) : Bool :=
  s.grids.any (fun g => decide (g.ptop = top ∧ recChild g.lrec = e) && (g.hungry || g.gangs.any (fun k => s.waitsPlace g k)))

/-- The slice of an entry in µs: a child's SLICE; entry 0 has what its children leave of the cycle, and at least 100. -/
def State.sliceOf (s : State) (top e : Nat) : Nat :=
  if e = 0 then
    max 100 ((match s.part? top 0 with | some d => d.slice | none => 0) - ((s.children top).map (fun d => d.slice)).foldl (· + ·) 0)
  else match s.part? top e with | some d => d.slice | none => 0

/-- The entry after this one in the cycle that has work. -/
def State.nextEntry (s : State) (top e : Nat) : Option Nat :=
  (ringFrom 9 (e + 1)).find? (fun k => (s.part? top k).isSome && s.entryWork top k)

/-- Marks gangs that the end of a slice parks, or takes the mark from the gangs of the entry whose slice begins (R385). -/
def State.markSliced (s : State) (p : Grid → Gang → Bool) (v : Bool) : State :=
  { s with grids := s.grids.map (fun (g : Grid) => { g with gangs := g.gangs.map (fun (k : Gang) => if p g k then { k with sliced := v } else k) }) }

/-- SLICE_END, R384, R385: the next entry's slice begins, and gangs of other entries on its clusters are pre-empted. -/
def execSliceEnd (top : Nat) (s : State) : Out3 :=
  .next (if (s.children top).isEmpty then s
    else
      let e := Assoc.at s.scheds top
      let past := match e with
        | some k => decide (s.sliceOf top k.entry * 1000 ≤ s.tick - k.since)
        | none => true
      match past, s.nextEntry top (match e with | some k => k.entry | none => 8) with
      | true, some n =>
        let s := ({ s with scheds := Assoc.put s.scheds top ⟨n, s.tick⟩ } : State).markSliced (fun g _ => decide (g.ptop = top ∧ recChild g.lrec = n)) false
        match s.part? top n with
        | none => s
        | some d =>
          let out := fun (g : Grid) (k : Gang) => decide (g.ptop = top ∧ recChild g.lrec ≠ n) && !k.parked && d.clusters.testBit k.cluster
          (s.haltAll (s.grids.flatMap (fun (g : Grid) => (g.gangs.filter (out g)).map (fun k => (g, k))))).markSliced
            (fun g k => !k.parked && (out g k || (g.coop && g.gangs.any (out g)))) true
      | _, _ => s)

/-! ### Partitions (R381 to R383, R398) -/

def sumOf (l : List Nat) : Nat := l.foldl (· + ·) 0

/-- The descriptors of a list of partitions keep the budgets of R382 and R383; entry 0 of a parent with children needs a slice too, of 100 µs or more (R384). -/
def partsOk (ds : List PartDesc) : Bool :=
  let tops := ds.filter (fun d => decide (d.child = 0))
  ds.all (fun d => decide (d.clusters < 2 ^ 1536 ∧ d.top < 16 ∧ d.child ≤ 8 ∧ d.membw ≤ 255 ∧ d.linkbw ≤ 255 ∧ 100 ≤ d.slice ∧ d.slice ≤ 1000000 ∧
    d.reserved = 0)) &&
  tops.all (fun a => tops.all (fun b => decide (a.top = b.top) || decide (Nat.land a.clusters b.clusters = 0))) &&
  decide (sumOf (tops.map (fun d => d.membw)) ≤ 256 ∧ sumOf (tops.map (fun d => d.linkbw)) ≤ 256) &&
  ds.all (fun d => decide (d.child = 0) || tops.any (fun p => decide (p.top = d.top ∧ Nat.land d.clusters p.clusters = d.clusters ∧ d.membw ≤ p.membw ∧
    d.linkbw ≤ p.linkbw))) &&
  tops.all (fun p =>
    let kids := (ds.filter (fun d => decide (d.top = p.top ∧ d.child ≠ 0))).map (fun d => d.slice)
    kids.isEmpty || decide (sumOf kids + 100 ≤ p.slice))

def State.partList (s : State) : List PartDesc := s.parts.filterMap (fun p => p.2)
def samePartId (a b : PartDesc) : Bool := decide (a.top = b.top ∧ a.child = b.child)

/-- PARTITION_CREATE, R382, R383, R422: firmware serves the mailbox, once the feature vector has taken effect; a descriptor that breaks a condition is refused, and nothing changes. -/
def execPartitionCreate (d : PartDesc) (s : State) : Out3 :=
  .next (if !s.fw.accepted || !s.featOn || s.partList.any (samePartId d) || (decide (d.child ≠ 0) && !s.feature 11) || !partsOk (d :: s.partList) then s
    else { s with parts := Assoc.put s.parts (partKey d.top d.child) d })

/-- COOP grids of a partition whose fewest gangs no longer fit wait with WAITRES (R398). -/
def State.waitResidency (s : State) (g : Grid) : State :=
  match s.part? g.ptop (recChild g.lrec) with
  | none => s
  | some d =>
    if g.coop && decide (g.st ≠ .pending ∧ s.partCores d < g.lrec.gmin * g.lrec.gang) then
      let was := s.qWaitres g.queue
      let s := (s.haltGang g 0).updGrid g.id (fun g => { g with waitres := true })
      if was then s else s.signalQueue g.queue
    else s

/-- PARTITION_CHANGE, R382, R398: gangs on removed clusters are pre-empted. -/
def execPartitionChange (d : PartDesc) (s : State) : Out3 :=
  .next (match s.part? d.top d.child with
    | none => s
    | some old =>
      if (decide (d.child ≠ 0) && !s.feature 11) || !partsOk (d :: s.partList.filter (fun x => !samePartId d x)) then s
      else
        let s := { s with parts := Assoc.put s.parts (partKey d.top d.child) d }
        let gone := (partClusters old).filter (fun c => !d.clusters.testBit c)
        let on := s.grids.flatMap (fun (g : Grid) =>
          if d.child = 0 ∨ (g.ptop = d.top ∧ recChild g.lrec = d.child) then
            (g.gangs.filter (fun (k : Gang) => !k.parked && gone.contains k.cluster)).map (fun k => (g, k))
          else [])
        let s := s.haltAll on
        (s.grids.filter (fun g => decide (g.ptop = d.top))).foldl (fun s g => s.waitResidency g) s)

/-- PARTITION_REMOVE, R382: refused while a child, a grid or a queue names the partition. -/
def execPartitionRemove (top child : Nat) (s : State) : Out3 :=
  .next (if s.grids.any (fun g => decide (g.ptop = top ∧ recChild g.lrec = child)) ||
      s.queues.any (fun p => match p.2 with | some q => decide (q.desc.ptop = top ∧ q.desc.pchild = child) | none => false) ||
      (decide (child = 0) && !(s.children top).isEmpty) then s
    else { s with parts := Assoc.drop s.parts (partKey top child), scheds := if child = 0 then Assoc.drop s.scheds top else s.scheds })

/-- CORE_OUT_OF_SERVICE, R294, R421: firmware marks a core, and placement stops using it. -/
def execCoreOutOfService (core : Nat) (s : State) : Out3 :=
  .next (if core < 6144 ∧ !s.oos.contains core then { s with oos := s.oos ++ [core] } else s)

end Sys2Proof.Machine
end

