-- ==== Sys2Proof/Machine/Integer.lean ====
section
/-!
DEFINITION. Class 0x1, integer and address arithmetic (R117 to R134), in the frame form and in the U form.
-/
namespace Sys2Proof.Machine

open Sys2Proof

/-! ### The two forms of an integer instruction (R117, R118) -/

/-- A 64-bit result of a frame instruction: an aligned pair, tagged INT. -/
def FCtx.dpair (x : FCtx) (v : Nat → Word64) : List DReg :=
  [x.dreg .int (fun l => (v l).setWidth 32), x.dreg .int (fun l => (v l).extractLsb' 32 32)]

/-- An instruction with a 32-bit result: in the lanes, or in the reckoner, where the result is extended by R51. -/
def State.int32 (s : State) (i : Instr) (u uns : Bool) (dst : BitVec 7) (a b d : Src) (f : Word32 → Word32 → Word32 → Word32) : Out3 :=
  if u then s.runR i .nop (fun x => .ok (x.fall x.s x.w (x.to dst (aluExt uns (f (x.val32 a) (x.val32 b) (x.val32 d))))))
  else s.runF i (fun x =>
    .ok (x.finish i { Out.none with regs := [x.dreg .int (fun l => f (x.raw a 0 l) (x.raw b 0 l) (x.raw d 0 l))] }))

/-- An instruction with a 64-bit result from 64-bit operands. -/
def State.int64 (s : State) (i : Instr) (u uns : Bool) (dst : BitVec 7) (a b : Src) (f : Word64 → Word64 → Word64) : Out3 :=
  if u then s.runR i .nop (fun x => .ok (x.fall x.s x.w (x.to dst (f (x.val uns a) (x.val uns b)))))
  else s.runF i (fun x => .ok (x.finish i { Out.none with regs := x.dpair (fun l => f (x.raw64 uns a l) (x.raw64 uns b l)) }))

/-- A shift: the count is the whole of B, one register in the lanes, and 64 bits in a .64 U form (R129). -/
def State.shift (s : State) (i : Instr) (u : Bool) (ty : ITy) (dst : BitVec 7) (a b : Src) (f32 : Word32 → Nat → Word32)
    (f64 : Word64 → Nat → Word64) : Out3 :=
  if ty.w64 then
    if u then s.runR i .nop (fun x => .ok (x.fall x.s x.w (x.to dst (f64 (x.val ty.uns a) (x.val ty.uns b).toNat))))
    else s.runF i (fun x =>
      .ok (x.finish i { Out.none with regs := x.dpair (fun l => f64 (x.raw64 ty.uns a l) (x.raw b 0 l).toNat) }))
  else s.int32 i u ty.uns dst a b noSrc (fun p q _ => f32 p q.toNat)

/-- An addition or subtraction with a carry out in PD, and a carry in from a predicate (R122). -/
def State.addSub (s : State) (i : Instr) (u : Bool) (ty : ITy) (cin : Bool) (cinp : BitVec 3) (dst : BitVec 7) (pd : BitVec 3)
    (a b : Src) (f32 : Word32 → Word32 → Bool → Word32 × Bool) (f64 : Word64 → Word64 → Bool → Word64 × Bool) : Out3 :=
  if u then s.runR i .nop (fun x =>
    let c := cin && x.w.qpred cinp.toNat
    let r : Word64 × Bool :=
      if ty.w64 then f64 (x.val ty.uns a) (x.val ty.uns b) c
      else (aluExt ty.uns (f32 (x.val32 a) (x.val32 b) c).1, (f32 (x.val32 a) (x.val32 b) c).2)
    .ok (x.fall x.s x.w { x.to dst r.1 with preds := uPred pd r.2 }))
  else s.runF i (fun x =>
    let c := fun (l : Nat) => cin && x.fr.pred l cinp.toNat
    if ty.w64 then
      let r := fun (l : Nat) => f64 (x.raw64 ty.uns a l) (x.raw64 ty.uns b l) (c l)
      .ok (x.finish i { Out.none with regs := x.dpair (fun l => (r l).1), preds := x.predOut (fun l => (r l).2) })
    else
      let r := fun (l : Nat) => f32 (x.raw a 0 l) (x.raw b 0 l) (c l)
      .ok (x.finish i { Out.none with regs := [x.dreg .int (fun l => (r l).1)], preds := x.predOut (fun l => (r l).2) }))

/-! ### Moves -/

/-- Register `j` of an unmapped MOV: bits by lane, tag by rod, side byte by lane (R120). -/
def FCtx.copyReg (x : FCtx) (a : Src) (j : Nat) (v : Nat → Word32) : DReg :=
  ⟨(lanesOf x.act).map (fun l => (l, v l)), (rodsOf x.act).map (fun k => (k, x.tagOf a j k)),
   (lanesOf x.act).map (fun l => (l, x.sideOf a j l)), x.tagOf a j⟩

/-- MOV, R120. -/
def execMov (c : Ctl) (u : Bool) (ty : ITy) (dst : BitVec 7) (a : Src) (s : State) : Out3 :=
  let i := Instr.mov c u ty dst a
  if u then s.runR i .nop (fun x =>
    .ok (x.fall x.s x.w (x.to dst (if ty.w64 then x.val ty.uns a else aluExt ty.uns (x.val32 a)))))
  else s.runF i (fun x =>
    if ty.w64 then
      .ok (x.finish i { Out.none with regs := [x.copyReg a 0 (fun l => (x.raw64 ty.uns a l).setWidth 32),
                                               x.copyReg a 1 (fun l => (x.raw64 ty.uns a l).extractLsb' 32 32)] })
    else if a.mapped then
      match x.f32 a 1 with
      | .error e => .error e
      | .ok o =>
        .ok (x.finish i { Out.none with
          regs := [{ x.dreg .f32 (fun l => BitVec.ofNat 32 (o.val 0 l)) with side := (lanesOf x.act).map (fun l => (l, x.sideOf a 0 l)) }],
          flags := (lanesOf x.act).map (fun l => (l, o.fl 0 l)) })
    else .ok (x.finish i { Out.none with regs := [x.copyReg a 0 (x.raw a 0)] }))

/-- MOVI, R121. -/
def execMovi (c : Ctl) (u : Bool) (ty : ITy) (dst : BitVec 7) (v : Word32) (s : State) : Out3 :=
  s.int32 (.movi c u ty dst v) u ty.uns dst (.imm v) noSrc noSrc (fun p _ _ => p)

/-! ### Arithmetic -/

/-- IADD, R122. -/
def execIadd (c : Ctl) (u : Bool) (ty : ITy) (cin : Bool) (cinp : BitVec 3) (dst : BitVec 7) (pd : BitVec 3) (a b : Src) (s : State) : Out3 :=
  s.addSub (.iadd c u ty cin cinp dst pd a b) u ty cin cinp dst pd a b aluAdd aluAdd

/-- ISUB, R122. -/
def execIsub (c : Ctl) (u : Bool) (ty : ITy) (cin : Bool) (cinp : BitVec 3) (dst : BitVec 7) (pd : BitVec 3) (a b : Src) (s : State) : Out3 :=
  s.addSub (.isub c u ty cin cinp dst pd a b) u ty cin cinp dst pd a b aluSub aluSub

/-- IADD3, R123. -/
def execIadd3 (c : Ctl) (u : Bool) (ty : ITy) (dst : BitVec 7) (pd : BitVec 3) (a b d : Src) (s : State) : Out3 :=
  let i := Instr.iadd3 c u ty dst pd a b d
  if u then s.runR i .nop (fun x =>
    let r := aluAdd3 (x.val32 a) (x.val32 b) (x.val32 d)
    .ok (x.fall x.s x.w { x.to dst (aluExt ty.uns r.1) with preds := uPred pd r.2 }))
  else s.runF i (fun x =>
    let r := fun (l : Nat) => aluAdd3 (x.raw a 0 l) (x.raw b 0 l) (x.raw d 0 l)
    .ok (x.finish i { Out.none with regs := [x.dreg .int (fun l => (r l).1)], preds := x.predOut (fun l => (r l).2) }))

/-- IMADW, R125: a 64-bit result and a 64-bit C. -/
def execImadw (c : Ctl) (u : Bool) (ty : ITy) (dst : BitVec 7) (a b d : Src) (s : State) : Out3 :=
  let i := Instr.imadw c u ty dst a b d
  if u then s.runR i .nop (fun x => .ok (x.fall x.s x.w (x.to dst (aluMadw ty.uns (x.val32 a) (x.val32 b) (x.val ty.uns d)))))
  else s.runF i (fun x =>
    .ok (x.finish i { Out.none with regs := x.dpair (fun l => aluMadw ty.uns (x.raw a 0 l) (x.raw b 0 l) (x.raw64 ty.uns d l)) }))

/-- LEA, R134: B is one register in the lanes, read signed in a .64 form, and all of sB in a U form. -/
def execLea (c : Ctl) (u w64 : Bool) (sh : BitVec 3) (dst : BitVec 7) (a b : Src) (s : State) : Out3 :=
  let i := Instr.lea c u w64 sh dst a b
  if w64 then
    if u then s.runR i .nop (fun x =>
      .ok (x.fall x.s x.w (x.to dst (aluLea (x.val false a) ((x.val false b).toNat : Int) sh.toNat))))
    else s.runF i (fun x =>
      .ok (x.finish i { Out.none with regs := x.dpair (fun l => aluLea (x.raw64 false a l) (x.raw b 0 l).toInt sh.toNat) }))
  else s.int32 i u false dst a b noSrc (fun p q _ => aluLea p (q.toNat : Int) sh.toNat)

/-- IMUL, R124. -/
def execImul (c : Ctl) (u : Bool) (ty : ITy) (dst : BitVec 7) (a b : Src) (s : State) : Out3 :=
  s.int32 (.imul c u ty dst a b) u ty.uns dst a b noSrc (fun p q _ => aluMul ty.uns p q)

/-- IMULH, R124. -/
def execImulh (c : Ctl) (u : Bool) (ty : ITy) (dst : BitVec 7) (a b : Src) (s : State) : Out3 :=
  s.int32 (.imulh c u ty dst a b) u ty.uns dst a b noSrc (fun p q _ => aluMulh ty.uns p q)

/-- IMAD, R124. -/
def execImad (c : Ctl) (u : Bool) (ty : ITy) (dst : BitVec 7) (a b d : Src) (s : State) : Out3 :=
  s.int32 (.imad c u ty dst a b d) u ty.uns dst a b d (fun p q r => aluMad ty.uns p q r)

/-- IDIV, R126, with the results of R116 for a zero divisor and for overflow. -/
def execIdiv (c : Ctl) (u : Bool) (ty : ITy) (dst : BitVec 7) (a b : Src) (s : State) : Out3 :=
  s.int32 (.idiv c u ty dst a b) u ty.uns dst a b noSrc (fun p q _ => aluDiv ty.uns p q)

/-- IREM, R126, R116. -/
def execIrem (c : Ctl) (u : Bool) (ty : ITy) (dst : BitVec 7) (a b : Src) (s : State) : Out3 :=
  s.int32 (.irem c u ty dst a b) u ty.uns dst a b noSrc (fun p q _ => aluRem ty.uns p q)

/-- IABS, R127. -/
def execIabs (c : Ctl) (u : Bool) (ty : ITy) (dst : BitVec 7) (a : Src) (s : State) : Out3 :=
  s.int32 (.iabs c u ty dst a) u ty.uns dst a noSrc noSrc (fun p _ _ => aluAbs p)

/-- FSHL, R130. -/
def execFshl (c : Ctl) (u : Bool) (ty : ITy) (dst : BitVec 7) (a b d : Src) (s : State) : Out3 :=
  s.int32 (.fshl c u ty dst a b d) u ty.uns dst a b d (fun p q r => aluFshl p q r)

/-- FSHR, R130. -/
def execFshr (c : Ctl) (u : Bool) (ty : ITy) (dst : BitVec 7) (a b d : Src) (s : State) : Out3 :=
  s.int32 (.fshr c u ty dst a b d) u ty.uns dst a b d (fun p q r => aluFshr p q r)

/-- POPC, R131. -/
def execPopc (c : Ctl) (u : Bool) (ty : ITy) (dst : BitVec 7) (a : Src) (s : State) : Out3 :=
  s.int32 (.popc c u ty dst a) u ty.uns dst a noSrc noSrc (fun p _ _ => aluPopc p)

/-- CLZ, R131. -/
def execClz (c : Ctl) (u : Bool) (ty : ITy) (dst : BitVec 7) (a : Src) (s : State) : Out3 :=
  s.int32 (.clz c u ty dst a) u ty.uns dst a noSrc noSrc (fun p _ _ => aluClz p)

/-- CTZ, R131. -/
def execCtz (c : Ctl) (u : Bool) (ty : ITy) (dst : BitVec 7) (a : Src) (s : State) : Out3 :=
  s.int32 (.ctz c u ty dst a) u ty.uns dst a noSrc noSrc (fun p _ _ => aluCtz p)

/-- BREV, R131. -/
def execBrev (c : Ctl) (u : Bool) (ty : ITy) (dst : BitVec 7) (a : Src) (s : State) : Out3 :=
  s.int32 (.brev c u ty dst a) u ty.uns dst a noSrc noSrc (fun p _ _ => aluBrev p)

/-- BFX, R132. -/
def execBfx (c : Ctl) (u : Bool) (ty : ITy) (dst : BitVec 7) (a b d : Src) (s : State) : Out3 :=
  s.int32 (.bfx c u ty dst a b d) u ty.uns dst a b d (fun p q r => aluBfx ty.uns p q r)

/-- BFI, R132. -/
def execBfi (c : Ctl) (u : Bool) (ty : ITy) (dst : BitVec 7) (a b d : Src) (s : State) : Out3 :=
  s.int32 (.bfi c u ty dst a b d) u ty.uns dst a b d (fun p q r => aluBfi p q r)

/-- BPICK, R133. -/
def execBpick (c : Ctl) (u : Bool) (ty : ITy) (dst : BitVec 7) (a b d : Src) (s : State) : Out3 :=
  s.int32 (.bpick c u ty dst a b d) u ty.uns dst a b d (fun p q r => aluBpick p q r)

/-! ### Forms of 32 and 64 bits -/

/-- IMIN, R127. -/
def execImin (c : Ctl) (u : Bool) (ty : ITy) (dst : BitVec 7) (a b : Src) (s : State) : Out3 :=
  if ty.w64 then s.int64 (.imin c u ty dst a b) u ty.uns dst a b (fun p q => aluMin ty.uns p q)
  else s.int32 (.imin c u ty dst a b) u ty.uns dst a b noSrc (fun p q _ => aluMin ty.uns p q)

/-- IMAX, R127. -/
def execImax (c : Ctl) (u : Bool) (ty : ITy) (dst : BitVec 7) (a b : Src) (s : State) : Out3 :=
  if ty.w64 then s.int64 (.imax c u ty dst a b) u ty.uns dst a b (fun p q => aluMax ty.uns p q)
  else s.int32 (.imax c u ty dst a b) u ty.uns dst a b noSrc (fun p q _ => aluMax ty.uns p q)

/-- AND, R128. -/
def execAnd (c : Ctl) (u : Bool) (ty : ITy) (dst : BitVec 7) (a b : Src) (s : State) : Out3 :=
  if ty.w64 then s.int64 (.and c u ty dst a b) u ty.uns dst a b (fun p q => p &&& q)
  else s.int32 (.and c u ty dst a b) u ty.uns dst a b noSrc (fun p q _ => p &&& q)

/-- OR, R128. -/
def execOr (c : Ctl) (u : Bool) (ty : ITy) (dst : BitVec 7) (a b : Src) (s : State) : Out3 :=
  if ty.w64 then s.int64 (.or c u ty dst a b) u ty.uns dst a b (fun p q => p ||| q)
  else s.int32 (.or c u ty dst a b) u ty.uns dst a b noSrc (fun p q _ => p ||| q)

/-- XOR, R128. -/
def execXor (c : Ctl) (u : Bool) (ty : ITy) (dst : BitVec 7) (a b : Src) (s : State) : Out3 :=
  if ty.w64 then s.int64 (.xor c u ty dst a b) u ty.uns dst a b (fun p q => p ^^^ q)
  else s.int32 (.xor c u ty dst a b) u ty.uns dst a b noSrc (fun p q _ => p ^^^ q)

/-- NOT, R128. -/
def execNot (c : Ctl) (u : Bool) (ty : ITy) (dst : BitVec 7) (a : Src) (s : State) : Out3 :=
  if ty.w64 then s.int64 (.not c u ty dst a) u ty.uns dst a noSrc (fun p _ => ~~~p)
  else s.int32 (.not c u ty dst a) u ty.uns dst a noSrc noSrc (fun p _ _ => ~~~p)

/-- SHL, R129. -/
def execShl (c : Ctl) (u : Bool) (ty : ITy) (dst : BitVec 7) (a b : Src) (s : State) : Out3 :=
  s.shift (.shl c u ty dst a b) u ty dst a b aluShl aluShl

/-- SHR, R129. -/
def execShr (c : Ctl) (u : Bool) (ty : ITy) (dst : BitVec 7) (a b : Src) (s : State) : Out3 :=
  s.shift (.shr c u ty dst a b) u ty dst a b aluShr aluShr

/-- SAR, R129. -/
def execSar (c : Ctl) (u : Bool) (ty : ITy) (dst : BitVec 7) (a b : Src) (s : State) : Out3 :=
  s.shift (.sar c u ty dst a b) u ty dst a b aluSar aluSar

end Sys2Proof.Machine
end

