-- ==== Sys2Proof/Machine/Dispatch.lean ====
section
/-!
DEFINITION. The dispatch of every instruction to its meaning.
-/
namespace Sys2Proof.Machine

def exec (i : Instr) (s : State) : Host.Outcome State Fault Refusal :=
  match i with
  | .und c u => Sys2Proof.Machine.execUnd c u s
  | .nop c => Sys2Proof.Machine.execNop c s
  | .nopU c => Sys2Proof.Machine.execNopU c s
  | .bra c off => Sys2Proof.Machine.execBra c off s
  | .braU c off => Sys2Proof.Machine.execBraU c off s
  | .brx c a => Sys2Proof.Machine.execBrx c a s
  | .call c dst off => Sys2Proof.Machine.execCall c dst off s
  | .callx c dst a => Sys2Proof.Machine.execCallx c dst a s
  | .ret c a => Sys2Proof.Machine.execRet c a s
  | .exit c a => Sys2Proof.Machine.execExit c a s
  | .exitU c a => Sys2Proof.Machine.execExitU c a s
  | .trap c a => Sys2Proof.Machine.execTrap c a s
  | .trapU c a => Sys2Proof.Machine.execTrapU c a s
  | .brk c code => Sys2Proof.Machine.execBrk c code s
  | .rejoin c => Sys2Proof.Machine.execRejoin c s
  | .yld c => Sys2Proof.Machine.execYld c s
  | .sleep c a => Sys2Proof.Machine.execSleep c a s
  | .sleepU c a => Sys2Proof.Machine.execSleepU c a s
  | .mov c u ty dst a => Sys2Proof.Machine.execMov c u ty dst a s
  | .movi c u ty dst v => Sys2Proof.Machine.execMovi c u ty dst v s
  | .iadd c u ty cin cinp dst pd a b => Sys2Proof.Machine.execIadd c u ty cin cinp dst pd a b s
  | .isub c u ty cin cinp dst pd a b => Sys2Proof.Machine.execIsub c u ty cin cinp dst pd a b s
  | .imul c u ty dst a b => Sys2Proof.Machine.execImul c u ty dst a b s
  | .imulh c u ty dst a b => Sys2Proof.Machine.execImulh c u ty dst a b s
  | .imad c u ty dst a b d => Sys2Proof.Machine.execImad c u ty dst a b d s
  | .imadw c u ty dst a b d => Sys2Proof.Machine.execImadw c u ty dst a b d s
  | .idiv c u ty dst a b => Sys2Proof.Machine.execIdiv c u ty dst a b s
  | .irem c u ty dst a b => Sys2Proof.Machine.execIrem c u ty dst a b s
  | .imin c u ty dst a b => Sys2Proof.Machine.execImin c u ty dst a b s
  | .imax c u ty dst a b => Sys2Proof.Machine.execImax c u ty dst a b s
  | .iabs c u ty dst a => Sys2Proof.Machine.execIabs c u ty dst a s
  | .and c u ty dst a b => Sys2Proof.Machine.execAnd c u ty dst a b s
  | .or c u ty dst a b => Sys2Proof.Machine.execOr c u ty dst a b s
  | .xor c u ty dst a b => Sys2Proof.Machine.execXor c u ty dst a b s
  | .not c u ty dst a => Sys2Proof.Machine.execNot c u ty dst a s
  | .shl c u ty dst a b => Sys2Proof.Machine.execShl c u ty dst a b s
  | .shr c u ty dst a b => Sys2Proof.Machine.execShr c u ty dst a b s
  | .sar c u ty dst a b => Sys2Proof.Machine.execSar c u ty dst a b s
  | .fshl c u ty dst a b d => Sys2Proof.Machine.execFshl c u ty dst a b d s
  | .fshr c u ty dst a b d => Sys2Proof.Machine.execFshr c u ty dst a b d s
  | .popc c u ty dst a => Sys2Proof.Machine.execPopc c u ty dst a s
  | .clz c u ty dst a => Sys2Proof.Machine.execClz c u ty dst a s
  | .ctz c u ty dst a => Sys2Proof.Machine.execCtz c u ty dst a s
  | .brev c u ty dst a => Sys2Proof.Machine.execBrev c u ty dst a s
  | .bfx c u ty dst a b d => Sys2Proof.Machine.execBfx c u ty dst a b d s
  | .bfi c u ty dst a b d => Sys2Proof.Machine.execBfi c u ty dst a b d s
  | .bpick c u ty dst a b d => Sys2Proof.Machine.execBpick c u ty dst a b d s
  | .lea c u w64 sh dst a b => Sys2Proof.Machine.execLea c u w64 sh dst a b s
  | .iadd3 c u ty dst pd a b d => Sys2Proof.Machine.execIadd3 c u ty dst pd a b d s
  | .fadd c rnd pl dst a b => Sys2Proof.Machine.execFadd c rnd pl dst a b s
  | .fsub c rnd pl dst a b => Sys2Proof.Machine.execFsub c rnd pl dst a b s
  | .fmul c rnd pl dst a b => Sys2Proof.Machine.execFmul c rnd pl dst a b s
  | .ffma c rnd pl dst a b d => Sys2Proof.Machine.execFfma c rnd pl dst a b d s
  | .fmin c nan pl dst a b => Sys2Proof.Machine.execFmin c nan pl dst a b s
  | .fmax c nan pl dst a b => Sys2Proof.Machine.execFmax c nan pl dst a b s
  | .fdiv c rnd dst a b => Sys2Proof.Machine.execFdiv c rnd dst a b s
  | .fsqrt c rnd dst a => Sys2Proof.Machine.execFsqrt c rnd dst a s
  | .frcp c rnd dst a => Sys2Proof.Machine.execFrcp c rnd dst a s
  | .frsq c rnd dst a => Sys2Proof.Machine.execFrsq c rnd dst a s
  | .fexp2 c rnd dst a => Sys2Proof.Machine.execFexp2 c rnd dst a s
  | .flog2 c rnd dst a => Sys2Proof.Machine.execFlog2 c rnd dst a s
  | .fsinpi c rnd dst a => Sys2Proof.Machine.execFsinpi c rnd dst a s
  | .fcospi c rnd dst a => Sys2Proof.Machine.execFcospi c rnd dst a s
  | .ftanh c rnd dst a => Sys2Proof.Machine.execFtanh c rnd dst a s
  | .frnd c rnd dst a => Sys2Proof.Machine.execFrnd c rnd dst a s
  | .ffrc c dst a => Sys2Proof.Machine.execFfrc c dst a s
  | .fcls c pd a mask => Sys2Proof.Machine.execFcls c pd a mask s
  | .fscl c rnd dst a b => Sys2Proof.Machine.execFscl c rnd dst a b s
  | .hadd2 c rnd bf dst a b => Sys2Proof.Machine.execHadd2 c rnd bf dst a b s
  | .hsub2 c rnd bf dst a b => Sys2Proof.Machine.execHsub2 c rnd bf dst a b s
  | .hmul2 c rnd bf dst a b => Sys2Proof.Machine.execHmul2 c rnd bf dst a b s
  | .hfma2 c rnd bf dst a b d => Sys2Proof.Machine.execHfma2 c rnd bf dst a b d s
  | .hmin2 c nan bf dst a b => Sys2Proof.Machine.execHmin2 c nan bf dst a b s
  | .hmax2 c nan bf dst a b => Sys2Proof.Machine.execHmax2 c nan bf dst a b s
  | .hdot2 c rnd bf dst a b d => Sys2Proof.Machine.execHdot2 c rnd bf dst a b d s
  | .hcmp2 c cond un bf dst a b => Sys2Proof.Machine.execHcmp2 c cond un bf dst a b s
  | .hxcvt2 c rnd bf dst a => Sys2Proof.Machine.execHxcvt2 c rnd bf dst a s
  | .cvt c rnd sat dir pl dst a k => Sys2Proof.Machine.execCvt c rnd sat dir pl dst a k s
  | .cvt2 c rnd sat alt pl dst a k => Sys2Proof.Machine.execCvt2 c rnd sat alt pl dst a k s
  | .cvt8 c rnd sat alt pl dst a k => Sys2Proof.Machine.execCvt8 c rnd sat alt pl dst a k s
  | .cvt4 c ef dst a b k => Sys2Proof.Machine.execCvt4 c ef dst a b k s
  | .unp8 c dst a => Sys2Proof.Machine.execUnp8 c dst a s
  | .unp4 c dst a b => Sys2Proof.Machine.execUnp4 c dst a b s
  | .unp2 c dst a => Sys2Proof.Machine.execUnp2 c dst a s
  | .sclrd c dst a => Sys2Proof.Machine.execSclrd c dst a s
  | .sclwr c dst a b => Sys2Proof.Machine.execSclwr c dst a b s
  | .tagrd c dst a => Sys2Proof.Machine.execTagrd c dst a s
  | .retag c tag dst a => Sys2Proof.Machine.execRetag c tag dst a s
  | .efmov c dir dst a k => Sys2Proof.Machine.execEfmov c dir dst a k s
  | .icmp c u ty cond pd a b => Sys2Proof.Machine.execIcmp c u ty cond pd a b s
  | .fcmp c un cond pd a b => Sys2Proof.Machine.execFcmp c un cond pd a b s
  | .sel c u selp seln pl dst a b => Sys2Proof.Machine.execSel c u selp seln pl dst a b s
  | .pset c u pop pd x nx y ny => Sys2Proof.Machine.execPset c u pop pd x nx y ny s
  | .pmov c dir dst a => Sys2Proof.Machine.execPmov c dir dst a s
  | .shfl c mode dst a b => Sys2Proof.Machine.execShfl c mode dst a b s
  | .bcast c dst a b => Sys2Proof.Machine.execBcast c dst a b s
  | .vote c mode dst pd x nx => Sys2Proof.Machine.execVote c mode dst pd x nx s
  | .red c lop lty dst a => Sys2Proof.Machine.execRed c lop lty dst a s
  | .scan c lop lty excl dst a => Sys2Proof.Machine.execScan c lop lty excl dst a s
  | .matchv c dst a => Sys2Proof.Machine.execMatchv c dst a s
  | .rng c dst a b d => Sys2Proof.Machine.execRng c dst a b d s
  | .mapbind c fmt q dst a m => Sys2Proof.Machine.execMapbind c fmt q dst a m s
  | .mapclr c q m => Sys2Proof.Machine.execMapclr c q m s
  | .mapmode c q full m => Sys2Proof.Machine.execMapmode c q full m s
  | .mapscl c q a m => Sys2Proof.Machine.execMapscl c q a m s
  | .maprd c qk dst m rw wd => Sys2Proof.Machine.execMaprd c qk dst m rw wd s
  | .ldl c w sx pol tag dst a disp => Sys2Proof.Machine.execLdl c w sx pol tag dst a disp s
  | .stl c w pol a b disp => Sys2Proof.Machine.execStl c w pol a b disp s
  | .atoml c op ty dst a b d disp => Sys2Proof.Machine.execAtoml c op ty dst a b d disp s
  | .ldm c w sx pol tag dst a disp => Sys2Proof.Machine.execLdm c w sx pol tag dst a disp s
  | .stm c w pol a b disp => Sys2Proof.Machine.execStm c w pol a b disp s
  | .atomm c op ty dst a b d disp => Sys2Proof.Machine.execAtomm c op ty dst a b d disp s
  | .ldg c w sx pol tag dst a b disp => Sys2Proof.Machine.execLdg c w sx pol tag dst a b disp s
  | .stg c w pol a b d disp => Sys2Proof.Machine.execStg c w pol a b d disp s
  | .ldro c w sx pol tag dst a b disp => Sys2Proof.Machine.execLdro c w sx pol tag dst a b disp s
  | .pref c pol a b disp => Sys2Proof.Machine.execPref c pol a b disp s
  | .ldh c w sx pol tag dst a disp => Sys2Proof.Machine.execLdh c w sx pol tag dst a disp s
  | .sth c w pol a b disp => Sys2Proof.Machine.execSth c w pol a b disp s
  | .ldx c w sx pol tag dst a disp => Sys2Proof.Machine.execLdx c w sx pol tag dst a disp s
  | .stx c w pol a b disp => Sys2Proof.Machine.execStx c w pol a b disp s
  | .atom c op ty dst a b disp => Sys2Proof.Machine.execAtom c op ty dst a b disp s
  | .atomc c ty dst a b d disp => Sys2Proof.Machine.execAtomc c ty dst a b d disp s
  | .atomn c op ty a b disp => Sys2Proof.Machine.execAtomn c op ty a b disp s
  | .abset8 c a b disp => Sys2Proof.Machine.execAbset8 c a b disp s
  | .abtst8 c dst a b disp => Sys2Proof.Machine.execAbtst8 c dst a b disp s
  | .bput c a b disp => Sys2Proof.Machine.execBput c a b disp s
  | .btake c dst a disp => Sys2Proof.Machine.execBtake c dst a disp s
  | .bpeek c dst pd a disp => Sys2Proof.Machine.execBpeek c dst pd a disp s
  | .binit c up a b disp => Sys2Proof.Machine.execBinit c up a b disp s
  | .copy c dst a b d => Sys2Proof.Machine.execCopy c dst a b d s
  | .publish c dst a => Sys2Proof.Machine.execPublish c dst a s
  | .cancel c dst a => Sys2Proof.Machine.execCancel c dst a s
  | .bar c bop lty rel acq vec dst a br sd sn => Sys2Proof.Machine.execBar c bop lty rel acq vec dst a br sd sn s
  | .barU c bop lty rel acq a br sd sn => Sys2Proof.Machine.execBarU c bop lty rel acq a br sd sn s
  | .bara c bop lty rel a br sn => Sys2Proof.Machine.execBara c bop lty rel a br sn s
  | .baraU c bop lty rel a br sn => Sys2Proof.Machine.execBaraU c bop lty rel a br sn s
  | .barw c acq vec dst br sd sn => Sys2Proof.Machine.execBarw c acq vec dst br sd sn s
  | .barwU c acq br sd sn => Sys2Proof.Machine.execBarwU c acq br sd sn s
  | .barset c mask count n => Sys2Proof.Machine.execBarset c mask count n s
  | .fence c sc ord => Sys2Proof.Machine.execFence c sc ord s
  | .fenceU c sc ord => Sys2Proof.Machine.execFenceU c sc ord s
  | .phase c => Sys2Proof.Machine.execPhase c s
  | .txbegin c => Sys2Proof.Machine.execTxbegin c s
  | .txend c dst => Sys2Proof.Machine.execTxend c dst s
  | .txabort c => Sys2Proof.Machine.execTxabort c s
  | .srd c dst num => Sys2Proof.Machine.execSrd c dst num s
  | .srdU c dst num => Sys2Proof.Machine.execSrdU c dst num s
  | .swr c a num => Sys2Proof.Machine.execSwr c a num s
  | .tfetch c dst => Sys2Proof.Machine.execTfetch c dst s
  | .launch c dst a => Sys2Proof.Machine.execLaunch c dst a s
  | .tracemark c a code => Sys2Proof.Machine.execTracemark c a code s
  | .ckpt c => Sys2Proof.Machine.execCkpt c s
  | .snap c dst => Sys2Proof.Machine.execSnap c dst s
  | .unsnap c a => Sys2Proof.Machine.execUnsnap c a s
  | .tlbinv c a scope => Sys2Proof.Machine.execTlbinv c a scope s
  | .csave c a => Sys2Proof.Machine.execCsave c a s
  | .crest c a => Sys2Proof.Machine.execCrest c a s
  | .signal c a ev => Sys2Proof.Machine.execSignal c a ev s
  | .dqEntryTake => Sys2Proof.Machine.execDqEntryTake s
  | .stallDeferralEnd core f => Sys2Proof.Machine.execStallDeferralEnd core f s
  | .rejoinMerge core f => Sys2Proof.Machine.execRejoinMerge core f s
  | .gatherTimeout core f => Sys2Proof.Machine.execGatherTimeout core f s
  | .loadDataReturn core req err corrected => Sys2Proof.Machine.execLoadDataReturn core req err corrected s
  | .meshAccessArrive id => Sys2Proof.Machine.execMeshAccessArrive id s
  | .meshAck id => Sys2Proof.Machine.execMeshAck id s
  | .serviceRequest home => Sys2Proof.Machine.execServiceRequest home s
  | .atomReply id => Sys2Proof.Machine.execAtomReply id s
  | .waiterReissue id => Sys2Proof.Machine.execWaiterReissue id s
  | .mapPassComplete core id => Sys2Proof.Machine.execMapPassComplete core id s
  | .slotChangeEffect core quad id => Sys2Proof.Machine.execSlotChangeEffect core quad id s
  | .slotFillDone core quad id err corrected => Sys2Proof.Machine.execSlotFillDone core quad id err corrected s
  | .copyStart id => Sys2Proof.Machine.execCopyStart id s
  | .copyUnit id met => Sys2Proof.Machine.execCopyUnit id met s
  | .copyDone id => Sys2Proof.Machine.execCopyDone id s
  | .barrierRelease b => Sys2Proof.Machine.execBarrierRelease b s
  | .commitComplete id => Sys2Proof.Machine.execCommitComplete id s
  | .phaseEntryArrival die stamp => Sys2Proof.Machine.execPhaseEntryArrival die stamp s
  | .peerCommit c => Sys2Proof.Machine.execPeerCommit c s
  | .peerFrontierAck id => Sys2Proof.Machine.execPeerFrontierAck id s
  | .collector gran => Sys2Proof.Machine.execCollector gran s
  | .poolRelief => Sys2Proof.Machine.execPoolRelief s
  | .vpoolTimeout => Sys2Proof.Machine.execVpoolTimeout s
  | .clockWake core => Sys2Proof.Machine.execClockWake core s
  | .sleepTimeout p => Sys2Proof.Machine.execSleepTimeout p s
  | .gangPlace grid => Sys2Proof.Machine.execGangPlace grid s
  | .gangAging grid => Sys2Proof.Machine.execGangAging grid s
  | .gangplaceReport grid => Sys2Proof.Machine.execGangplaceReport grid s
  | .workgroupEnd grid wg => Sys2Proof.Machine.execWorkgroupEnd grid wg s
  | .gridEnd grid => Sys2Proof.Machine.execGridEnd grid s
  | .tileGrant core => Sys2Proof.Machine.execTileGrant core s
  | .sliceEnd top => Sys2Proof.Machine.execSliceEnd top s
  | .preemptRequest grid gang => Sys2Proof.Machine.execPreemptRequest grid gang s
  | .contextSave grid wg => Sys2Proof.Machine.execContextSave grid wg s
  | .contextRestore grid gang => Sys2Proof.Machine.execContextRestore grid gang s
  | .xlateResolved grid wg ok => Sys2Proof.Machine.execXlateResolved grid wg ok s
  | .pageWalk k => Sys2Proof.Machine.execPageWalk k s
  | .dieFailed die code => Sys2Proof.Machine.execDieFailed die code s
  | .portDown port code => Sys2Proof.Machine.execPortDown port code s
  | .firmwareDownload fw => Sys2Proof.Machine.execFirmwareDownload fw s
  | .functionReady fn ok code => Sys2Proof.Machine.execFunctionReady fn ok code s
  | .featureWrite off wide val => Sys2Proof.Machine.execFeatureWrite off wide val s
  | .wridx q val => Sys2Proof.Machine.execWridx q val s
  | .resume q val => Sys2Proof.Machine.execResume q val s
  | .gridResume q grid => Sys2Proof.Machine.execGridResume q grid s
  | .gridAbort q grid => Sys2Proof.Machine.execGridAbort q grid s
  | .registerWrite r val => Sys2Proof.Machine.execRegisterWrite r val s
  | .pktLaunch q h r => Sys2Proof.Machine.execPktLaunch q h r s
  | .pktCopy q h dst src r => Sys2Proof.Machine.execPktCopy q h dst src r s
  | .waitbead q h bead => Sys2Proof.Machine.execWaitbead q h bead s
  | .putbead q h bead val => Sys2Proof.Machine.execPutbead q h bead val s
  | .takebead q h bead => Sys2Proof.Machine.execTakebead q h bead s
  | .snapshot q h => Sys2Proof.Machine.execSnapshot q h s
  | .snapshotRelease q h stamp => Sys2Proof.Machine.execSnapshotRelease q h stamp s
  | .measure q h stamp bufs => Sys2Proof.Machine.execMeasure q h stamp bufs s
  | .receipt q h stamp dest bufs => Sys2Proof.Machine.execReceipt q h stamp dest bufs s
  | .pktFence q h => Sys2Proof.Machine.execPktFence q h s
  | .indirect q h addr units => Sys2Proof.Machine.execIndirect q h addr units s
  | .timestamp q h addr => Sys2Proof.Machine.execTimestamp q h addr s
  | .queueUnmap q => Sys2Proof.Machine.execQueueUnmap q s
  | .queueCreate d => Sys2Proof.Machine.execQueueCreate d s
  | .partitionCreate d => Sys2Proof.Machine.execPartitionCreate d s
  | .partitionChange d => Sys2Proof.Machine.execPartitionChange d s
  | .partitionRemove top child => Sys2Proof.Machine.execPartitionRemove top child s
  | .msiCoalesceExpiry func => Sys2Proof.Machine.execMsiCoalesceExpiry func s
  | .debugStep p => Sys2Proof.Machine.execDebugStep p s
  | .debugResume ctx => Sys2Proof.Machine.execDebugResume ctx s
  | .debugRead ctx r => Sys2Proof.Machine.execDebugRead ctx r s
  | .breakpointHit p => Sys2Proof.Machine.execBreakpointHit p s
  | .ckptInterval ctx => Sys2Proof.Machine.execCkptInterval ctx s
  | .rollback ctx ck core count => Sys2Proof.Machine.execRollback ctx ck core count s
  | .powerUp => Sys2Proof.Machine.execPowerUp s
  | .debugAttach ctx => Sys2Proof.Machine.execDebugAttach ctx s
  | .debugDetach ctx => Sys2Proof.Machine.execDebugDetach ctx s
  | .coreOutOfService core => Sys2Proof.Machine.execCoreOutOfService core s
  | .vyhalLinkFailure ids => Sys2Proof.Machine.execVyhalLinkFailure ids s
  | .scrubbing e => Sys2Proof.Machine.execScrubbing e s
  | .peerAccessArrive a => Sys2Proof.Machine.execPeerAccessArrive a s
  | .hostWriteAccept id => Sys2Proof.Machine.execHostWriteAccept id s
  | .replayLogReadIndex ctx idx => Sys2Proof.Machine.execReplayLogReadIndex ctx idx s

end Sys2Proof.Machine
end

