-- ==== Sys2Proof/Machine/Fetch.lean ====
section
/-!
DEFINITION. Which instruction a turn runs: the word that a split or the reckoner stands at (R24, R25, R48, R194, R200), or the event that
another agent makes.
-/
namespace Sys2Proof.Machine

open Sys2Proof

/-- What a turn comes to: an instruction and the state it runs in, or a state that is already the next one. -/
inductive Fetched where
  | run (i : Instr) (s : State)
  | done (s : State)

/-- A word that is no instruction raises ILLEGAL in the party that executes it (R47), as UND does. -/
def noInstr (u : Bool) : Instr := .und ⟨false, 0#3, false, false, false, 7#3, false⟩ u

/-- A quad that goes over to another of its frames: the chains in progress of the rest restart (R42, R78). -/
def State.switchFrame (s : State) (core f : Nat) : State :=
  match s.onCore core with
  | none => s
  | some w => s.setCore core { w with frames := w.frames.zipIdx.map (fun p =>
      if p.2 ≠ f ∧ p.2 % 4 = f % 4 then p.1.restartChain else p.1) }

/-- Whether the party's instruction issues in this turn. -/
def State.issues (s : State) (i : Instr) : Bool := match s.issueF i with | .go _ => true | _ => false

/-- The instruction at a split's program counter. A word with U = 1 is an entry to take (R13, R197). Before it, the core's next U action goes
on (R337), and a core whose every party waits is gated (R218). -/
def State.fetchFrame (s : State) (core f id : Nat) : Fetched :=
  let (s, gated) := (s.settleCore core).gate core
  if gated then .done { s with cur := none }
  else
  let s := { s with cur := some (.frame core f id) }
  match s.onCore core with
  | none => .done s
  | some w =>
    match (w.frame? f).bind (fun fr => fr.split? id) with
    | none => .done s
    | some sp =>
      let x := w.code.word sp.pc
      if x.getLsbD 119 then .run .dqEntryTake s
      else match decode x with
        | .ok i => .run i (if s.issues i then s.switchFrame core f else s)
        | .error _ => .run (noInstr false) s

/-- What the reckoner finds at its program counter (R194). -/
def State.fetchReck (s : State) (core : Nat) : Fetched :=
  let (s, gated) := (s.settleCore core).gate core
  if gated then .done { s with cur := none }
  else
  let s := { s with cur := some (.reck core) }
  match s.onCore core with
  | none => .done s
  | some w =>
    let x := w.code.word w.rpc
    if x.getLsbD 119 then
      match decode x with
      | .ok i => .run i s
      | .error _ => .run (noInstr true) s
    else if w.goes && !w.rdbg && decide (w.rst = ReckSt.run) then
      .done (s.setCore core (if w.allDead then { w with rst := .stopped } else w.skipWord x))
    else .done s

/-- Rows of the table that no turn of an event runs: words, the taking of an entry, and the packets of a queue. -/
def eventInstr (i : Instr) : Bool :=
  match i with
  | .dqEntryTake | .pktLaunch .. | .pktCopy .. | .waitbead .. | .putbead .. | .takebead .. | .snapshot .. | .snapshotRelease ..
  | .measure .. | .receipt .. | .pktFence .. | .indirect .. | .timestamp .. => false
  | _ => i.shape.isNone

def State.fetchEvent (s : State) (i : Instr) : Fetched :=
  let s := { s with cur := none }
  if eventInstr i then .run i s else .done s

/-- The next turn, and the time that passes with it: from the agenda, or a free value (log 1). -/
def State.nextTurn (s : State) : Turn × State :=
  match s.agenda with
  | t :: ts => (t.1, { s with agenda := ts, tick := s.tick + t.2 })
  | [] => (Config.freeTurn s.free, { s with free := s.free + 1, tick := s.tick + Config.dt s.free })

/-- A packet of MEASURE or RECEIPT with what its reads meet (R416). -/
def packetMeets (i : Instr) (err : Bool) : Instr :=
  match i with
  | .measure q h stamp bufs => .measure q { h with err := err } stamp bufs
  | .receipt q h stamp dest bufs => .receipt q { h with err := err } stamp dest bufs
  | i => i

/-- What a turn runs. -/
def State.fetch (s : State) (t : Turn) : Fetched :=
  match t with
  | .frame core f id => s.fetchFrame core f id
  | .reck core => s.fetchReck core
  | .thread q err =>
    match ({ s with cur := none }).fetchThread q with
    | .inl s => .done s
    | .inr (i, s) => .run (packetMeets i err) s
  | .event i => s.fetchEvent i

/-! ### Placing one word for a first step -/

/-- TEXT of one word and its closing UND, at 0x10000. -/
def oneWord (w : BitVec 128) : CodeObj where
  text := 0x10000
  size := 32
  stamp := 0
  bytes := Tab.writeBytes [] 0 (bytesOfWord w)
  frames := 1
  regs := 128
  slots := 8
  extent := 256
  args := 0
  preload := []

/-- A launch record of one workgroup. -/
def oneRecord : LaunchRec := ⟨0, 0, 0, 0, 1, 1, 1, 0, 0, 1, 1, 1, 0, 0, []⟩

/-- A grid of one workgroup that runs. -/
def oneGrid (o : CodeObj) : Grid :=
  ⟨1, oneRecord, [], o, 0, none, 0, .running, 1, 1, [⟨0, 0, [0], false, 0, false, false, (List.range 8).map (fun _ => GBar.start)⟩], [], [], [], [], [], false, false, none, none,
   none, none⟩

/-- The package with its features accepted and one workgroup of one frame on core 0, whose code is one word; the next turn is that of
the party that executes the word (log 8). -/
def State.placeWord (s : State) (x : BitVec 128) : State :=
  let o := oneWord x
  { s with agenda := [(if x.getLsbD 119 then Turn.reck 0 else Turn.frame 0 0 0, 1)],
           featOn := true, feat := [(0, offered true 0)], dieIn := 1, lastGrid := 1, grids := [oneGrid o],
           cores := [(0, some (Wg.start 1 0 0 0 0 1 o [] ⟨0, 0, false⟩))] }

end Sys2Proof.Machine
end

