-- ==== Sys2Proof/Machine/Step.lean ====
section
/-!
DEFINITION. One step of the package: the next turn's instruction is fetched and executed.
-/
namespace Sys2Proof.Machine

open Sys2Proof

def step (s : State) : Host.Outcome State Fault Refusal :=
  match s.nextTurn.2.fetch s.nextTurn.1 with
  | .run i s' => exec i s'
  | .done s' => .next s'

/-- The package with one instruction word where the next step fetches it. Events have no word (nbits is not above 128). -/
def State.withFetchWord (s : State) (nbits w : Nat) : State := s.placeWord (wordOfBytes (natToBytes 16 (w % 2 ^ nbits)))

end Sys2Proof.Machine
end

