-- ==== Sys2Proof/Safety.lean ====
section
/-!
DEFINITION. The terms in which claims are stated: the invariant that every step keeps, and what an instruction leaves: the results and the
frame of a frame instruction, of a U instruction, and of an event.
-/
namespace Sys2Proof.Machine

open Sys2Proof

/-- Registers, tags, predicates, residues, flags and masks of a frame. -/
structure Frame.Regs where
  v : Tab Word32
  side : Tab Byte
  tags : Tab Tag
  preds : Tab Bool
  resid : Tab Word32
  fpst : Tab (BitVec 5)
  live : Word32
  fmask : Word32
  prio : BitVec 2
  wake : BitVec 7
  taken : Nat
  deriving DecidableEq, Repr

def Frame.regs (fr : Frame) : Frame.Regs :=
  ⟨fr.v, fr.side, fr.tags, fr.preds, fr.resid, fr.fpst, fr.live, fr.fmask, fr.prio, fr.wake, fr.taken⟩

end Sys2Proof.Machine

namespace Sys2Proof.Safety

open Sys2Proof Sys2Proof.Machine

/-! ### The invariant -/

/-- The packets that a queue's thread reads. -/
def isPacket : Instr → Bool
  | .pktLaunch .. | .pktCopy .. | .waitbead .. | .putbead .. | .takebead .. | .snapshot .. | .snapshotRelease .. | .measure .. | .receipt ..
  | .pktFence .. | .indirect .. | .timestamp .. => true
  | _ => false

/-- Device and host memory are in canonical form, every entry of the phase table holds a stamp that has been taken, and what a queue's thread has
read is a packet. -/
def Inv (s : State) : Prop :=
  Memory.wf s.dev.base = true ∧ Memory.wf s.hostMem = true ∧ (∀ e ∈ s.phaseTab, 1 ≤ e.stamp ∧ e.stamp ≤ s.last) ∧
    ∀ q x i, s.queue? q = some x → x.now = some i → isPacket i = true

/-! ### The operands of a word -/

/-- A source of a shape; an absent one reads as nothing. -/
def srcOf (u : Option Use) : Src := match u with | some u => u.src | none => noSrc
def srcA (i : Instr) : Src := match i.shape with | some p => srcOf p.a | none => noSrc
def srcB (i : Instr) : Src := match i.shape with | some p => srcOf p.b | none => noSrc
def srcC (i : Instr) : Src := match i.shape with | some p => srcOf p.d | none => noSrc
/-- The first destination register. -/
def dstOf (i : Instr) : Nat := match i.shape with | some p => p.dstNum | none => 0
/-- PD; 7 where the instruction has none. -/
def pdOf (i : Instr) : Nat := match i.shape with | some p => p.pdNum | none => 7
/-- Whether the word is a U form. -/
def isU (i : Instr) : Bool := match i.shape with | some p => p.u | none => false
/-- Whether the results land when the passes of the instruction's mapped sources complete (R246). -/
def lands (i : Instr) (x : FCtx) : Bool :=
  match i.shape with | some p => p.anyMapped && !x.c.chain && decide (x.act ≠ 0) | none => false

/-! ### What a frame instruction computes -/

/-- The results of a frame instruction that computes: `n` registers by number and lane with their tags by number and rod, as a latch has them in every rod, side bytes where it
writes them, the predicate PD, residues by lane and number, and the flags that it raises. -/
structure Result where
  n : Nat
  v : Nat → Nat → Word32
  tag : Nat → Nat → Tag
  keepV : Bool
  side : Option (Nat → Nat → Byte)
  pred : Option (Nat → Bool)
  resid : Nat → Nat → Option Word32
  flags : Nat → Flags

/-- Nothing at all. -/
def Result.none : Result := ⟨0, fun _ _ => 0#32, fun _ _ => .int, false, .none, .none, fun _ _ => .none, fun _ => flagNone⟩
/-- One register of the active lanes, of one tag. -/
def Result.one (t : Tag) (f : Nat → Word32) : Result := { Result.none with n := 1, v := fun _ l => f l, tag := fun _ _ => t }
/-- A 64-bit value in an aligned pair, tagged INT. -/
def Result.two (f : Nat → Word64) : Result :=
  { Result.none with n := 2, v := fun j l => if j = 0 then (f l).setWidth 32 else (f l).extractLsb' 32 32 }
/-- `n` registers of one tag. -/
def Result.many (n : Nat) (t : Tag) (f : Nat → Nat → Word32) (fl : Nat → Flags) : Result :=
  { Result.none with n := n, v := f, tag := fun _ _ => t, flags := fl }

/-- Frame `b` is frame `a` but for these results, in the lanes and rods of the active set `act` (R30, R32, R33, R76, R77, R108). -/
structure Has (r : Result) (act : Word32) (wbs : Bool) (d pd : Nat) (a b : Frame) : Prop where
  v : ∀ l n, l < 32 → n < 128 →
    b.vreg l n = if wbs = false ∧ r.keepV = false ∧ act.getLsbD l = true ∧ d ≤ n ∧ n < d + r.n then r.v (n - d) l else a.vreg l n
  tag : ∀ k n, k < 8 → n < 128 →
    b.tagOf k n = if wbs = false ∧ r.keepV = false ∧ k ∈ rodsOf act ∧ d ≤ n ∧ n < d + r.n then r.tag (n - d) k else a.tagOf k n
  side : ∀ l n, l < 32 → n < 128 →
    b.sideOf l n = match r.side with
      | some f => if wbs = false ∧ act.getLsbD l = true ∧ d ≤ n ∧ n < d + r.n then f (n - d) l else a.sideOf l n
      | none => a.sideOf l n
  pred : ∀ l p, l < 32 → p < 8 →
    b.pred l p = match r.pred with
      | some f => if act.getLsbD l = true ∧ p = pd ∧ p ≠ 7 then f l else a.pred l p
      | none => a.pred l p
  resid : ∀ l e, l < 32 → e < 32 →
    b.residOf l e = if act.getLsbD l = true then (r.resid l e).getD (a.residOf l e) else a.residOf l e
  flags : ∀ l, l < 32 → b.flagsOf l = if act.getLsbD l = true then a.flagsOf l ||| r.flags l else a.flagsOf l
  live : b.live = a.live
  fmask : b.fmask = a.fmask
  prio : b.prio = a.prio
  wake : b.wake = a.wake
  taken : b.taken = a.taken

/-- The chain of a split after a member with these results (R40, R41): the latch holds the first register's result, zero in the other lanes, and its tag in
every rod. -/
def Chained (x : FCtx) (r : Result) (ch : Option Chain) : Prop :=
  if x.c.chain then
    ∃ l old, ch = some ⟨(match x.sp.chain with | some c => c.head | none => x.sp.pc), l :: old⟩ ∧
      old = (match x.sp.chain with | some c => c.latches | none => []) ∧
      (0 < r.n ∧ r.keepV = false → ∀ k, k < 32 → Tab.get 0#32 l.val k = if x.act.getLsbD k = true then r.v 0 k else 0#32) ∧
      (0 < r.n ∧ r.keepV = false → ∀ k, k < 8 → Tab.get Tag.int l.tag k = r.tag 0 k)
  else ch = none

/-- The split has gone on to `pc`, and the frame's other splits stand where they stood. -/
def Went (x : FCtx) (fr : Frame) (pc : Word64) (ch : Option Chain → Prop) : Prop :=
  (x.sp.lanes &&& x.fr.live ≠ 0#32 →
    ∃ p, fr.split? x.sp.id = some p ∧ p.pc = pc ∧ p.lanes = x.sp.lanes &&& x.fr.live ∧ p.st = .run ∧ ch p.chain) ∧
  ∀ q, q ≠ x.sp.id → fr.split? q = x.fr.split? q

/-- The instruction has retired in a frame `fr`, and nothing else of the machine has changed but %retired and its count (R190). -/
def Retired (x : FCtx) (t : State) (fr : Frame) : Prop :=
  t = x.s.setCore x.core ((x.w.setFrame x.f fr).count x.c)

/-- The instruction has retired with its results still in flight, as a pass of the MAP unit that lands at MAP_PASS_COMPLETE (R246): `fr` is the
frame as the pass will leave it. -/
def RetiredLater (x : FCtx) (t : State) (fr : Frame) : Prop :=
  ∃ (p : Pass) (g : Frame), p.id = x.s.ids ∧ p.frame = x.f ∧ p.lanes = x.act ∧ g.regs = x.fr.regs ∧ fr = g.write p.writes ∧
    t = x.s.newId.2.setCore x.core (({ x.w with passes := x.w.passes ++ [p] }.setFrame x.f g).count x.c)

/-- A frame instruction that computes completes: it retires at the next address with these results, at once or when its passes land. -/
def Computes (i : Instr) (x : FCtx) (t : State) (r : Result) : Prop :=
  ∃ fr, (if lands i x then RetiredLater x t fr else Retired x t fr) ∧
    Has r x.act x.c.wbs (dstOf i) (pdOf i) x.fr fr ∧ Went x fr (x.sp.pc + 16#64) (Chained x r)

/-! ### What a U instruction leaves -/

/-- Workgroup `b` is workgroup `a` after a U instruction with these results that goes on at `npc`: its entry stands in the decision queue (R196),
s-registers and predicates are written, late ones are pending (R199), the reckoner stands at the next word with U = 1 (R194), and nothing else
has changed. -/
structure HasU (o : UOut) (npc : Word64) (a b : Wg) : Prop where
  same : b = { a with s := b.s, q := b.q, pend := b.pend, lastCopy := b.lastCopy, dq := b.dq, dqBase := b.dqBase, rpc := b.rpc, rst := b.rst,
                      rskip := false, rdbg := a.rstep, rstep := false }
  reg : ∀ n, b.sreg n = match o.regs.reverse.find? (fun p => decide (p.1 = n)) with | some p => p.2 | none => a.sreg n
  pred : ∀ p, p < 8 → b.qpred p = match (o.preds.reverse.find? (fun k => decide (k.1 = p ∧ p ≠ 7))) with | some k => k.2 | none => a.qpred p
  entry : (∃ fr ∈ a.liveFrames, fr.taken ≤ a.place) → b.entryAt a.place = some (a.entry o)
  copy : ∀ n id, o.copies = [(n, id)] → (a.code.word npc).getLsbD 119 = true → Assoc.at b.lastCopy n = some id
  late : ∀ k ∈ o.late, ⟨k.1, a.place, k.2⟩ ∈ b.pend
  kept : ∀ p ∈ a.pend, p ∈ b.pend
  next : (a.code.word npc).getLsbD 119 = true →
    b.rpc = npc ∧ b.rst = .run ∧ b.pend = a.pend ++ o.late.map (fun k => ⟨k.1, a.place, k.2⟩)

/-- What the debugger's step over a U instruction ends with: the completion of what stands under this number (R93). -/
def stepEnds (w : Wg) (id : Nat) : Option Nat := if w.rstep = true then some id else w.rends

/-- A U instruction completes with these results in the workgroup `w` that its own effect left. -/
def CompletesU (x : RCtx) (t : State) (s : State) (w : Wg) (o : UOut) (npc : Word64) : Prop :=
  ∃ w', t = s.setCore x.core w' ∧ HasU o npc w w'

/-- The results of a U instruction that writes one s-register (R32). -/
def outU (wbs : Bool) (d : Nat) (v : Word64) : UOut := { UOut.nop with regs := if wbs then [] else [(d, v)] }

/-! ### Integer results, from the words of R116 to R134 -/

/-- A value as its type reads it (R117). -/
def num {w : Nat} (ty : ITy) (x : BitVec w) : Int := if ty.uns then (x.toNat : Int) else x.toInt

/-- The bits of `x` that are set. -/
def setBits (x : Word32) : List Nat := (List.range 32).filter (fun k => x.getLsbD k)

/-- Division and remainder by R116 and R126. -/
def quotient (ty : ITy) (a b : Word32) : Word32 :=
  if ty.uns then if b = 0#32 then 0xFFFFFFFF#32 else BitVec.ofNat 32 (a.toNat / b.toNat)
  else if b = 0#32 then (if 0 ≤ a.toInt then 0x7FFFFFFF#32 else 0x80000000#32)
  else BitVec.ofInt 32 (a.toInt.tdiv b.toInt)
def remainder (ty : ITy) (a b : Word32) : Word32 :=
  if b = 0#32 then a
  else if ty.uns then BitVec.ofNat 32 (a.toNat % b.toNat) else BitVec.ofInt 32 (a.toInt.tmod b.toInt)

/-- A field of `n` bits from bit `p` up, extended by its type (R132). -/
def fieldOf (ty : ITy) (a : Word32) (pos len : Nat) : Word32 :=
  let p := min pos 32
  let n := min len (32 - p)
  let x := a.toNat / 2 ^ p % 2 ^ n
  if n = 0 then 0#32 else if ty.uns || decide (x < 2 ^ (n - 1)) then BitVec.ofNat 32 x else BitVec.ofInt 32 ((x : Int) - 2 ^ n)

/-- The byte that a control byte of BPICK takes or forms (R133). -/
def pickByte (x : Word64) (c : Byte) : Byte :=
  let y : Byte := (x >>> (8 * (c.toNat % 8))).setWidth 8
  let r : Byte := if c.getLsbD 3 = false then y
    else if c.getLsbD 5 = false then (if c.getLsbD 4 then 0xFF#8 else 0x00#8)
    else if c.getLsbD 4 = false then (if y.getLsbD 7 then 0xFF#8 else 0x00#8) else y.reverse
  if c.getLsbD 6 then 0xFF#8 - r else r

/-- The 32-bit results of class 0x1 and RNG from A, B and C, and whether the U form extends them by zeros (R51). -/
def int32Of : Instr → Option (Bool × (Word32 → Word32 → Word32 → Word32))
  | .movi _ _ ty _ v => some (ty.uns, fun _ _ _ => v)
  | .imul _ _ ty _ _ _ => some (ty.uns, fun a b _ => BitVec.ofInt 32 (num ty a * num ty b))
  | .imulh _ _ ty _ _ _ => some (ty.uns, fun a b _ => BitVec.ofInt 32 ((num ty a * num ty b).fdiv (2 ^ 32)))
  | .imad _ _ ty _ _ _ _ => some (ty.uns, fun a b c => BitVec.ofInt 32 (num ty a * num ty b + c.toNat))
  | .idiv _ _ ty _ _ _ => some (ty.uns, fun a b _ => quotient ty a b)
  | .irem _ _ ty _ _ _ => some (ty.uns, fun a b _ => remainder ty a b)
  | .imin _ _ ty _ _ _ => if ty.w64 then none else some (ty.uns, fun a b _ => if num ty a ≤ num ty b then a else b)
  | .imax _ _ ty _ _ _ => if ty.w64 then none else some (ty.uns, fun a b _ => if num ty a ≤ num ty b then b else a)
  | .iabs _ _ ty _ _ => some (ty.uns, fun a _ _ => if a.toInt < 0 then 0#32 - a else a)
  | .and _ _ ty _ _ _ => if ty.w64 then none else some (ty.uns, fun a b _ => a &&& b)
  | .or _ _ ty _ _ _ => if ty.w64 then none else some (ty.uns, fun a b _ => a ||| b)
  | .xor _ _ ty _ _ _ => if ty.w64 then none else some (ty.uns, fun a b _ => a ^^^ b)
  | .not _ _ ty _ _ => if ty.w64 then none else some (ty.uns, fun a _ _ => ~~~a)
  | .shl _ _ ty _ _ _ => if ty.w64 then none else some (ty.uns, fun a b _ => BitVec.ofNat 32 (a.toNat * 2 ^ b.toNat))
  | .shr _ _ ty _ _ _ => if ty.w64 then none else some (ty.uns, fun a b _ => BitVec.ofNat 32 (a.toNat / 2 ^ b.toNat))
  | .sar _ _ ty _ _ _ => if ty.w64 then none else some (ty.uns, fun a b _ => BitVec.ofInt 32 (a.toInt.fdiv (2 ^ b.toNat)))
  | .fshl _ _ ty _ _ _ _ => some (ty.uns, fun a b c => (((a ++ b : Word64) <<< (min c.toNat 32)) >>> 32).setWidth 32)
  | .fshr _ _ ty _ _ _ _ => some (ty.uns, fun a b c => ((a ++ b : Word64) >>> (min c.toNat 32)).setWidth 32)
  | .popc _ _ ty _ _ => some (ty.uns, fun a _ _ => BitVec.ofNat 32 (setBits a).length)
  | .clz _ _ ty _ _ => some (ty.uns, fun a _ _ => BitVec.ofNat 32 (match (setBits a).getLast? with | some k => 31 - k | none => 32))
  | .ctz _ _ ty _ _ => some (ty.uns, fun a _ _ => BitVec.ofNat 32 (match (setBits a).head? with | some k => k | none => 32))
  | .brev _ _ ty _ _ => some (ty.uns, fun a _ _ => a.reverse)
  | .bfx _ _ ty _ _ _ _ => some (ty.uns, fun a b c => fieldOf ty a b.toNat c.toNat)
  | .bfi _ _ ty _ _ _ _ => some (ty.uns, fun a base c =>
      let p := min (c.toNat % 256) 32
      let n := min (c.toNat / 256 % 256) (32 - p)
      BitVec.ofNat 32 (base.toNat % 2 ^ p + (a.toNat % 2 ^ n) * 2 ^ p + base.toNat / 2 ^ (p + n) * 2 ^ (p + n)))
  | .bpick _ _ ty _ _ _ _ => some (ty.uns, fun a b c =>
      let x : Word64 := b ++ a
      pickByte x (c.extractLsb' 24 8) ++ pickByte x (c.extractLsb' 16 8) ++ pickByte x (c.extractLsb' 8 8) ++ pickByte x (c.extractLsb' 0 8))
  | .lea _ _ w64 sh _ _ _ => if w64 then none else some (false, fun a b _ => a + b * BitVec.ofNat 32 (2 ^ sh.toNat))
  | .rng .. => some (false, fun a k0 k1 =>
      let h := a * 0x85EBCA6B#32 + k0
      let h := h ^^^ BitVec.ofNat 32 (h.toNat / 2 ^ 15)
      let h := h * 0xC2B2AE35#32 + k1
      h ^^^ BitVec.ofNat 32 (h.toNat / 2 ^ 13))
  | _ => none

/-- The 64-bit results of class 0x1 whose operands are all 64-bit, with the type that extends an immediate. -/
def int64Of : Instr → Option (ITy × (Word64 → Word64 → Word64))
  | .imin _ _ ty _ _ _ => if ty.w64 then some (ty, fun a b => if num ty a ≤ num ty b then a else b) else none
  | .imax _ _ ty _ _ _ => if ty.w64 then some (ty, fun a b => if num ty a ≤ num ty b then b else a) else none
  | .and _ _ ty _ _ _ => if ty.w64 then some (ty, fun a b => a &&& b) else none
  | .or _ _ ty _ _ _ => if ty.w64 then some (ty, fun a b => a ||| b) else none
  | .xor _ _ ty _ _ _ => if ty.w64 then some (ty, fun a b => a ^^^ b) else none
  | .not _ _ ty _ _ => if ty.w64 then some (ty, fun a _ => ~~~a) else none
  | _ => none

/-- The .64 shifts, as functions of A and the whole count (R129). -/
def shift64Of : Instr → Option (ITy × (Word64 → Nat → Word64))
  | .shl _ _ ty _ _ _ => if ty.w64 then some (ty, fun a n => BitVec.ofNat 64 (a.toNat * 2 ^ n)) else none
  | .shr _ _ ty _ _ _ => if ty.w64 then some (ty, fun a n => BitVec.ofNat 64 (a.toNat / 2 ^ n)) else none
  | .sar _ _ ty _ _ _ => if ty.w64 then some (ty, fun a n => BitVec.ofInt 64 (a.toInt.fdiv (2 ^ n))) else none
  | _ => none

/-- An addition or subtraction of `w` bits with its carry or borrow (R122). -/
def carryOf (w : Nat) (sub : Bool) (a b : BitVec w) (c : Bool) : BitVec w × Bool :=
  let k : Int := if c then 1 else 0
  let x : Int := if sub then (a.toNat : Int) - b.toNat - k else (a.toNat : Int) + b.toNat + k
  (BitVec.ofInt w x, if sub then decide (x < 0) else decide ((2 : Int) ^ w ≤ x))

/-- A result extended to an s-register (R51). -/
def ext (zeros : Bool) (x : Word32) : Word64 := if zeros then x.setWidth 64 else x.signExtend 64

/-! ### The other results of computing instructions -/

/-- The relation of a compare (R135). -/
def compareOf {w : Nat} (ty : ITy) (c : Cond) (a b : BitVec w) : Bool :=
  match c with
  | .eq => decide (a = b)
  | .ne => decide (a ≠ b)
  | .lt => decide (num ty a < num ty b)
  | .le => decide (num ty a ≤ num ty b)
  | .gt => decide (num ty b < num ty a)
  | .ge => decide (num ty b ≤ num ty a)
  | .ord => true
  | .uno => false

/-- PSET's operation (R138). -/
def combine (op : Pop) (x y : Bool) : Bool := match op with | .and => x && y | .or => x || y | .xor => x != y

/-- The FP32 instructions by plane: how many planes they have, and the bits and flags of a plane (R145 to R149). -/
def fpOf : Instr → Option (Nat × (Nat → Nat → Nat → Nat × Flags))
  | .fadd _ rnd pl .. => some (pl.count, fun a b _ => Fmt.fp32.add rnd (Fmt.fp32.read a) (Fmt.fp32.read b))
  | .fsub _ rnd pl .. => some (pl.count, fun a b _ => Fmt.fp32.sub rnd (Fmt.fp32.read a) (Fmt.fp32.read b))
  | .fmul _ rnd pl .. => some (pl.count, fun a b _ => Fmt.fp32.mul rnd (Fmt.fp32.read a) (Fmt.fp32.read b))
  | .ffma _ rnd pl .. => some (pl.count, fun a b c => Fmt.fp32.fma rnd (Fmt.fp32.read a) (Fmt.fp32.read b) (Fmt.fp32.read c))
  | .fmin _ nan pl .. => some (pl.count, fun a b _ => Fmt.fp32.minMax false nan a b)
  | .fmax _ nan pl .. => some (pl.count, fun a b _ => Fmt.fp32.minMax true nan a b)
  | .fdiv _ rnd .. => some (1, fun a b _ => Machine.fdiv rnd (Fmt.fp32.read a) (Fmt.fp32.read b))
  | .fsqrt _ rnd .. => some (1, fun a _ _ => Machine.fsqrt rnd (Fmt.fp32.read a))
  | .frcp _ rnd .. => some (1, fun a _ _ => Machine.frcp rnd (Fmt.fp32.read a))
  | .frsq _ rnd .. => some (1, fun a _ _ => Machine.frsq rnd (Fmt.fp32.read a))
  | .fexp2 _ rnd .. => some (1, fun a _ _ => Machine.fexp2 rnd (Fmt.fp32.read a))
  | .flog2 _ rnd .. => some (1, fun a _ _ => Machine.flog2 rnd (Fmt.fp32.read a))
  | .fsinpi _ rnd .. => some (1, fun a _ _ => Machine.fsinpi rnd (Fmt.fp32.read a))
  | .fcospi _ rnd .. => some (1, fun a _ _ => Machine.fcospi rnd (Fmt.fp32.read a))
  | .ftanh _ rnd .. => some (1, fun a _ _ => Machine.ftanh rnd (Fmt.fp32.read a))
  | .frnd _ rnd .. => some (1, fun a _ _ => Machine.frnd rnd a)
  | .ffrc .. => some (1, fun a _ _ => Machine.ffrc a)
  | _ => none

/-- The packed instructions by element: FMT16, the result's tag, and the bits and flags of an element of a lane (R153 to R157). -/
def packedOf : Instr → Option (Bool × Tag × (Opnd → Opnd → Opnd → Nat → Nat → Nat × Flags))
  | .hadd2 _ rnd bf .. => some (bf, h2Tag bf, fun p q _ k l => (h2Fmt bf).add rnd (p.fv k l) (q.fv k l))
  | .hsub2 _ rnd bf .. => some (bf, h2Tag bf, fun p q _ k l => (h2Fmt bf).sub rnd (p.fv k l) (q.fv k l))
  | .hmul2 _ rnd bf .. => some (bf, h2Tag bf, fun p q _ k l => (h2Fmt bf).mul rnd (p.fv k l) (q.fv k l))
  | .hfma2 _ rnd bf .. => some (bf, h2Tag bf, fun p q r k l => (h2Fmt bf).fma rnd (p.fv k l) (q.fv k l) (r.fv k l))
  | .hmin2 _ nan bf .. => some (bf, h2Tag bf, fun p q _ k l => h2Pick false nan (h2Fmt bf) p q k l)
  | .hmax2 _ nan bf .. => some (bf, h2Tag bf, fun p q _ k l => h2Pick true nan (h2Fmt bf) p q k l)
  | .hcmp2 _ cond un bf .. => some (bf, .int, fun p q _ k l =>
      (if (fcmp cond un (p.fv k l) (q.fv k l)).1 = true then 0xFFFF else 0, (fcmp cond un (p.fv k l) (q.fv k l)).2))
  | .hxcvt2 _ rnd bf .. => some (bf, h2Tag (!bf), fun p _ _ k l => (h2Fmt (!bf)).convert rnd false (p.fv k l))
  | _ => none

/-- A conversion of FP32 values: the mode, how many values it converts, how many go to a register and how wide, the tag, the first residue, and
the bits, value and flags that a value gives (R158, R159). -/
structure Conversion where
  rnd : Rnd
  values : Nat
  pack : Nat
  width : Nat
  tag : Tag
  k : Nat
  f : Rnd → FV → Nat × FV × Flags

def convertOf : Instr → Option Conversion
  | .cvt _ rnd _ dir pl _ _ k =>
    match dir with
    | .f32ToI32 => some ⟨rnd, pl.count, 1, 32, .int, k.toNat, toInt false⟩
    | .f32ToN32 => some ⟨rnd, pl.count, 1, 32, .int, k.toNat, toInt true⟩
    | _ => none
  | .cvt2 _ rnd sat alt pl _ _ k =>
    some ⟨rnd, if pl = .x1 then 2 else pl.count, 2, 16, if alt then .bf16x2 else .f16x2, k.toNat, toFmt (if alt then .bf16 else .fp16) sat⟩
  | .cvt8 _ rnd sat alt pl _ _ k =>
    some ⟨rnd, if pl = .x1 then 4 else pl.count, 4, 8, if alt then .e5m2x4 else .e4m3x4, k.toNat, toFmt (if alt then .e5m2 else .e4m3) sat⟩
  | _ => none

/-- The source lane of SHFL, where it is valid (R183). -/
def laneFrom (m : ShflMode) (l b : Nat) : Option Nat :=
  match m with
  | .idx => if b < 32 then some b else none
  | .up => if b ≤ l then some (l - b) else none
  | .down => if l + b < 32 then some (l + b) else none
  | .xor => if b < 32 then some (Nat.xor l b) else none

/-- A register source has one tag in every rod with an active lane (R183). -/
def oneTag (x : FCtx) (a : Src) : Prop :=
  match a with
  | .reg _ _ _ _ => ∀ k ∈ rodsOf x.act, ∀ m ∈ rodsOf x.act, x.tagOf a 0 k = x.tagOf a 0 m
  | _ => True

/-- The tag that SHFL and BCAST give in a rod: A's there, and in a rod without an active lane the one of the active lanes (R41, R183). -/
def movedTag (x : FCtx) (a : Src) (k : Nat) : Tag :=
  match rodsOf x.act with
  | m :: _ => if k ∈ rodsOf x.act then x.tagOf a 0 k else x.tagOf a 0 m
  | [] => x.tagOf a 0 k

/-- The fault of a source that is not admitted. -/
def errOf {α : Type} : Except Code α → Option Code
  | .error e => some e
  | .ok _ => none

/-- The fault of an instruction's sources, the first one in the order A, B, C (R76, R120, R137, R141, R152, R159 to R164, R183, R185). -/
def sourceFault (x : FCtx) (i : Instr) : Option Code :=
  let f32 := fun (a : Src) (n : Nat) => errOf (x.f32 a n)
  let h2 := fun (a : Src) (bf : Bool) => errOf (x.h2 a bf)
  let tags := fun (a : Src) (ok : Tag → Bool) => if (rodsOf x.act).all (fun k => ok (x.tagOf a 0 k)) then none else some Code.fmttag
  let same := fun (a : Src) => match a, rodsOf x.act with
    | .reg _ _ _ _, k :: ks => if ks.all (fun m => decide (x.tagOf a 0 m = x.tagOf a 0 k)) then none else some Code.fmttag
    | _, _ => none
  match fpOf i, packedOf i, convertOf i with
  | some (n, _), _, _ => f32 (srcA i) n <|> f32 (srcB i) n <|> f32 (srcC i) n
  | _, some (bf, _, _), _ => h2 (srcA i) bf <|> h2 (srcB i) bf <|> h2 (srcC i) bf
  | _, _, some v => f32 (srcA i) v.values
  | _, _, _ =>
    match i with
    | .fcls _ _ a _ | .fscl _ _ _ a _ | .efmov _ _ _ (some a) _ => f32 a 1
    | .fcmp _ _ _ _ a b => f32 a 1 <|> f32 b 1
    | .hdot2 _ _ bf _ a b d => h2 a bf <|> h2 b bf <|> f32 d 1
    | .cvt4 _ _ _ a _ _ => f32 a 8
    | .unp8 _ _ a => tags a (fun t => decide (t = .e4m3x4 ∨ t = .e5m2x4))
    | .unp2 _ _ a => tags a (fun t => decide (t = .f16x2 ∨ t = .bf16x2))
    | .unp4 _ _ a _ => tags a (fun t => decide (t = .f4b))
    | .red _ _ ty _ a | .scan _ _ ty _ _ a => if ty = .f32 then f32 a 1 else none
    | .mov _ false ty _ a => if ty.w64 = false ∧ a.mapped = true then f32 a 1 else none
    | .sel _ false _ _ pl _ a b =>
      errOf (x.selSrc a pl.count) <|> errOf (x.selSrc b pl.count) <|>
        if (List.range pl.count).all (fun j => (rodsOf x.act).all (fun k => (commonTag (x.selTag a j k) (x.selTag b j k)).isSome)) then none
        else some .fmttag
    | .shfl _ _ _ a _ | .bcast _ _ a _ => same a
    | _ => none

/-- The running value over a list of values, with the flags of the steps that formed it (R115); the identity for no value. -/
def running (op : Lop) (ty : LTy) : List Word32 → Word32 × Flags
  | [] => (redId op ty, flagNone)
  | v :: vs => vs.foldl (fun a b => ((redOp op ty a.1 b).1, a.2 ||| (redOp op ty a.1 b).2)) (v, flagNone)

/-! ### Control -/

/-- State `b` is state `a` but for the workgroup on one core, which is `w`. -/
def OnlyCore (a : State) (core : Nat) (w : Wg) (b : State) : Prop :=
  b = { a with cores := b.cores } ∧ b.onCore core = some w ∧ ∀ c, c ≠ core → b.onCore c = a.onCore c

/-- A lane of a frame stands at an address, in some split. -/
def LaneAt (fr : Frame) (l : Nat) (pc : Word64) : Prop := ∃ q ∈ fr.splits, q.lanes.getLsbD l = true ∧ q.pc = pc

/-- Where the active lanes of a branch go (R168 to R172). -/
def targetOf (x : FCtx) : Instr → Option (Nat → Word64)
  | .bra _ off => some (fun _ => x.sp.pc + 16#64 + 16#64 * off.signExtend 64)
  | .call _ _ off => some (fun _ => x.sp.pc + 16#64 + 16#64 * off.signExtend 64)
  | .brx _ a => some (fun l => x.raw64 true a l)
  | .callx _ _ a => some (fun l => x.raw64 true a l)
  | .ret _ a => some (fun l => x.raw64 true a l)
  | _ => none

/-- A branch target is a word of TEXT (R170). -/
def GoodTarget (o : CodeObj) (t : Word64) : Prop := t.toNat % 16 = 0 ∧ o.text ≤ t.toNat ∧ t.toNat < o.text + o.size

/-! ### Memory instructions -/

/-- The byte offset that a lane's access of the own slice names (R202). -/
def offOf (x : FCtx) (a : Src) (disp : Word32) (l : Nat) : Int := ((x.raw a 0 l).toNat : Int) + disp.toInt

/-- The active lanes whose access of `n` bytes lies in the extent and is aligned (R202). -/
def goodLanes (x : FCtx) (a : Src) (disp : Word32) (n : Nat) : List Nat :=
  (lanesOf x.act).filter (fun l => decide (0 ≤ offOf x a disp l ∧ offOf x a disp l + n ≤ x.w.code.extent ∧ offOf x a disp l % (min n 16 : Nat) = 0))

/-- The store data of a lane: the low `n` bytes of its register or of its group of registers (R203). -/
def bytesOf (x : FCtx) (b : Src) (n l : Nat) : List Byte :=
  (List.range n).map (fun j => ((x.raw b (j / 4) l).extractLsb' (8 * (j % 4)) 8))

/-- Writes one byte after another, from an address up. -/
def storeBytes (m : Tab Byte) (a : Nat) (bs : List Byte) : Tab Byte := (bs.zipIdx a).foldl (fun m p => Tab.set 0#8 m p.2 p.1) m

/-- Lanes `off` of the frame are switched off, and every other lane of the split has gone on to the next address (R88, R203); the registers are those of
`base`. -/
structure LanesWent (x : FCtx) (base : Frame) (off : Word32) (fr : Frame) : Prop where
  same : { fr.regs with live := x.fr.live, fmask := x.fr.fmask } = base.regs
  live : fr.live = x.fr.live &&& ~~~off
  fmask : fr.fmask = x.fr.fmask ||| off
  gone : ∀ l, off.getLsbD l = true → ∀ q ∈ fr.splits, q.lanes.getLsbD l = false
  on : ∀ l, (x.sp.lanes &&& x.fr.live &&& ~~~off).getLsbD l = true → LaneAt fr l (x.sp.pc + 16#64)

/-- The requests that an instruction leaves: none without a lane. -/
def left : Option Req → List Req
  | some r => if r.lanes = 0#32 then [] else [r]
  | none => []

/-- The tags at once: a rod all of whose active lanes a load or an atomic has switched off takes the tag of its registers (R76, R88). -/
def offTags (x : FCtx) : Option Req → Tab Tag
  | some r => (((rodsOf x.act).filter (fun k => !(rodsOf r.lanes).contains k)).flatMap (fun k =>
      if r.wbs = true then [] else (List.range r.nregs).map (fun j => (tKey k (r.dst + j), r.tag)))).foldl (fun m p => Tab.set Tag.int m p.1 p.2) x.fr.tags
  | none => x.fr.tags

/-- A memory instruction has retired. `u` is the state with its effect outside the core, `slice` the slice that it left, `rs` the requests that were
outstanding, `off` the lanes that it switched off and `r` the request that it left; nothing else has changed, but that the workgroup has counted it
(R190). -/
def MemWent (x : FCtx) (t u : State) (slice : Tab Byte) (rs : List Req) (off : Word32) (r : Option Req) : Prop :=
  ∃ fr, LanesWent x { x.fr with tags := offTags x r } off fr ∧
    t = u.setCore x.core ((({ x.w with slice := slice, reqs := rs ++ left r } : Wg).setFrame x.f fr).count x.c)

/-- Its core counts a memory instruction with an active lane, and with the sampling period set every period-th yields a record (R406). -/
def counted (x : FCtx) (s : State) : State :=
  if x.act = 0#32 then s else { s with samples := Tab.set 0 s.samples x.core (Tab.get 0 s.samples x.core + 1) }

/-- The state with the sample record of an instruction that has completed, where it yields one (R406). -/
def sampled (x : FCtx) (i : Instr) (n : Nat) (as : List Nat) (s : State) : State :=
  match (x.sample i n as x.s).2 with | some y => (counted x s).sampleRecord x.ctxNo y none | none => counted x s

/-- The state after a request of these lanes has left; an instruction without a lane leaves none and is complete. -/
def sent (x : FCtx) (i : Instr) (n : Nat) (as : List Nat) (lanes : Word32) (u : State) : State :=
  if lanes = 0#32 then sampled x i n as u else counted x u

/-- The outstanding request of an instruction in these lanes (R274, R282, R310). -/
def asks (x : FCtx) (i : Instr) (n : Nat) (as : List Nat) (kind : ReqKind) (lanes : Word32) : Req :=
  { id := x.s.ids, frame := x.f, lanes := lanes, kind := kind, pc := x.sp.pc, addrs := [], keep := 0#32, size := n, sx := false, tag := .int, dst := 0,
    nregs := 0, wbs := x.c.wbs, pd := 7, got := [], preds := [], flags := [], wait := lanes, err := false, issued := x.s.tick, pos := x.fr.taken,
    smp := (x.sample i n as x.s).2, inp := false, gen := Tab.get 0 x.s.gen x.core, ret := x.w.retired }

/-- The request of a load: its registers, its tag, and how it extends (R203, R310). -/
def loads (x : FCtx) (i : Instr) (w : Width) (sx : Bool) (tag : Tag) (dst : BitVec 7) (as : List Nat) (path : Nat) (lanes : Word32) : Req :=
  { asks x i w.bytes as (.load path) lanes with sx := sx, tag := tag, dst := dst.toNat, nregs := w.regs }

/-- The addresses of the active lanes, in lane order. -/
def atOf (x : FCtx) (g : Nat → Word64) : List Nat := (lanesOf x.act).map (fun l => (g l).toNat)

/-- The address of a device access: A + B * size + displacement (R310). -/
def devAddr (x : FCtx) (a b : Src) (n : Nat) (disp : Word32) (l : Nat) : Word64 :=
  x.raw64 true a l + BitVec.ofNat 64 ((x.raw b 0 l).toNat * n) + disp.signExtend 64
/-- The address of every other 64-bit access: A + displacement. -/
def farAddr (x : FCtx) (a : Src) (disp : Word32) (l : Nat) : Word64 := x.raw64 true a l + disp.signExtend 64

/-- The accesses whose addresses R276 and R309 check: the paths, the alignment, the addresses, whether the access modifies, and whether it is one of a bead. -/
def accessOf (x : FCtx) : Instr → Option (List Nat × Nat × (Nat → Word64) × Bool × Bool)
  | .ldg _ w _ _ _ _ a b d => some ([0], w.bytes, devAddr x a b w.bytes d, false, false)
  | .ldro _ w _ _ _ _ a b d => some ([1], w.bytes, devAddr x a b w.bytes d, false, false)
  | .stg _ w _ a b _ d => some ([0], w.bytes, devAddr x a b w.bytes d, true, false)
  | .ldm _ _ _ _ _ _ a d => some ([4], 1, farAddr x a d, false, false)
  | .stm _ _ _ a _ d => some ([4], 1, farAddr x a d, true, false)
  | .atomm _ _ _ _ a _ _ d => some ([4], 1, farAddr x a d, true, false)
  | .ldh _ w _ _ _ _ a d => some ([12], w.bytes, farAddr x a d, false, false)
  | .sth _ w _ a _ d => some ([12], w.bytes, farAddr x a d, true, false)
  | .ldx _ w _ _ _ _ a d => some ([8], w.bytes, farAddr x a d, false, false)
  | .stx _ w _ a _ d => some ([8], w.bytes, farAddr x a d, true, false)
  | .atom _ _ ty _ a _ d => some ([0, 8], ty.bytes, farAddr x a d, true, false)
  | .atomc _ ty _ a _ _ d => some ([0, 8], ty.bytes, farAddr x a d, true, false)
  | .atomn _ _ ty a _ d => some ([0, 8], ty.bytes, farAddr x a d, true, false)
  | .abset8 _ a _ d => some ([0, 8], 32, farAddr x a d, true, false)
  | .abtst8 _ _ a _ d => some ([0, 8], 32, farAddr x a d, false, false)
  | .bput _ a _ d => some ([0, 8], 8, farAddr x a d, true, true)
  | .btake _ _ a d => some ([0, 8], 8, farAddr x a d, true, true)
  | .bpeek _ _ _ a d => some ([0, 8], 8, farAddr x a d, false, true)
  | .binit _ _ a _ d => some ([0, 8], 8, farAddr x a d, true, true)
  | _ => none

/-- The state with one mesh access for each lane, in lane order, on its way to the workgroup that holds the target core now, none where that is out of
service (R313). -/
def meshed (x : FCtx) (n : Nat) (g : Nat → Word64) (op : Option (AOp × ATy)) (store : Bool) (b c : Nat → Nat) : State :=
  { x.s with
    ids := x.s.ids + 1 + (lanesOf x.act).length
    mesh := x.s.mesh ++ ((lanesOf x.act).zipIdx (x.s.ids + 1)).map (fun p =>
      let core := 96 * bitsOf (g p.1).toNat 50 6 + bitsOf (g p.1).toNat 43 7
      let at_ := (if x.s.oos.contains core then none else x.s.onCore core).map (fun w => (w.grid, w.idx))
      ⟨p.2, .lane x.w.grid x.w.idx x.s.ids p.1, x.core, core, (at_.map (·.1)).getD 0, (at_.map (·.2)).getD 0, at_.isSome,
        (bitsOf (g p.1).toNat 0 22 : Nat), n, op, store, b p.1, c p.1⟩) }

/-- The state with one host access for each lane, in lane order (R315). -/
def hosted (x : FCtx) (g : Nat → Word64) (data : Nat → Option (List Byte)) : State :=
  { x.s with
    ids := x.s.ids + 1 + (lanesOf x.act).length
    hostq := x.s.hostq ++ ((lanesOf x.act).zipIdx (x.s.ids + 1)).map (fun p =>
      ⟨p.2, .lane x.w.grid x.w.idx x.s.ids p.1, x.s.ctxOfWg x.w, bitsOf (g p.1).toNat 0 57, data p.1⟩) }

/-- The state with one access to another package for each lane, in lane order (R425). -/
def peered (x : FCtx) (n : Nat) (ps : List (Nat × Nat × PageEnt × Nat)) (data : Nat → Option (List Byte)) : State :=
  { x.s with
    ids := x.s.ids + 1 + ps.length
    peerq := x.s.peerq ++ (ps.zipIdx (x.s.ids + 1)).map (fun p =>
      ⟨p.2, .lane x.w.grid x.w.idx x.s.ids p.1.1, p.1.2.1, p.1.2.2.2, data p.1.1, n⟩) }

/-- The requests of the lanes to the homes of their granules, in lane order (R273, R276). -/
def homeReqs (x : FCtx) (ps : List (Nat × Nat × PageEnt × Nat)) (fl : Bool) (op : Nat → SOp) : List SReq :=
  (ps.zipIdx (x.s.ids + 1)).map (fun p => ⟨p.2, .lane x.w.grid x.w.idx x.s.ids p.1.1, x.core, p.1.2.1, p.1.2.2.2, op p.1.1, x.ptop, fl, x.s.tick⟩)

/-- `u` is the state with these requests at the tails of their homes' queues. -/
def Homed (x : FCtx) (rs : List SReq) (u : State) : Prop :=
  u = { x.s with ids := x.s.ids + 1 + rs.length, svcQ := u.svcQ } ∧
  ∀ k, (Assoc.at u.svcQ k).getD [] =
    (Assoc.at x.s.svcQ k).getD [] ++ rs.filter (fun r => decide (homeKey r.pkg (x.s.homeOf r.pkg r.pa) = k))

/-- A request of the model's own making: its registers exist, and each lane has at most one answer. -/
def GoodReq (r : Req) : Prop :=
  (loadRegs r.size r.sx 0).length = r.nregs ∧ r.dst + r.nregs ≤ 128 ∧ (r.got.map (·.1)).Nodup ∧ ∀ p ∈ r.got, p.1 < 32

/-- What the answers of a request write (R203, R204, R274). -/
def answerOf (r : Req) (vals : List (Nat × Nat)) (flags : List (Nat × Flags)) : Result :=
  let v := fun l => ((vals.find? (fun p => decide (p.1 = l))).map (·.2)).getD 0
  Result.many r.nregs r.tag (fun j l => (loadRegs r.size r.sx (v l)).getD j 0#32)
    (fun l => flagUnion ((flags.filter (fun p => decide (p.1 = l))).map (·.2)))

/-! ### Barriers -/

/-- The workgroup keeps its part of this barrier. -/
def HasBar (w : Wg) : BarRef → Prop
  | .core n => n.toNat < w.bars.length
  | .cluster n => n.toNat < w.cparts.length
  | .grid n => n.toNat < w.gparts.length

/-- A party of a workgroup has ended: a frame without a live lane, the reckoner when it has stopped (R208). -/
def Ended (w : Wg) (p : Nat) : Prop := if p = 16 then w.rst = .stopped else ∀ fr, w.frame? p = some fr → fr.live = 0#32

/-- The value and the flags of a barrier reduction over `n` leaf positions (R114, R212). -/
def barTree (red : Option (Lop × LTy)) (n : Nat) (leaves : List (Nat × Word32)) : Word32 × Flags :=
  let ls := (List.range n).map (fun k => (leaves.find? (fun p => decide (p.1 = k))).map (·.2))
  match red with
  | some (op, ty) => (redValue op ty ls, (redTree op ty ls).2)
  | none => (0#32, flagNone)

/-- Workgroup `b` is workgroup `a` after the release of a barrier whose reduction has the value `v` and the flags `fl` (R189, R210 to R213). -/
structure Released (a b : Wg) (br : BarRef) (red : Option (Lop × LTy)) (v : Word32) (fl : Flags) : Prop where
  bar : b.bar br = { a.bar br with gen := (a.bar br).gen + 1, arrived := 0#17, red := none, leaves := [], leafLanes := [], copies := [], waiters := [],
                                   sregs := [], made := false }
  slice : b.slice = a.slice
  rpc : b.rpc = a.rpc
  dq : b.dq = a.dq
  sregs : ∀ m, b.sreg m = if m ∈ (a.bar br).sregs then barWord red v else a.sreg m
  frames : ∀ k ∈ (a.bar br).waiters, k.frame ≠ 16 → ∀ fr sp, a.frame? k.frame = some fr → fr.split? k.split = some sp →
    (a.code.shapeAt sp.pc).isSome = true → ∃ fr', b.frame? k.frame = some fr' ∧ fr'.wake = fr.wake ||| 1#7 ∧
      (∀ l r, l < 32 → r < 128 → fr'.vreg l r = if k.vec = some r ∧ k.act.getLsbD l = true then v else fr.vreg l r) ∧
      (k.acq = false ∨ a.mayRefresh fr = true → ∀ l, (sp.lanes &&& fr.live).getLsbD l = true → LaneAt fr' l (sp.pc + 16#64)) ∧
      (k.acq = true → a.mayRefresh fr = false → fr'.split? k.split = some { sp with st := .acquire })
  others : ∀ f fr, a.frame? f = some fr → (∀ k ∈ (a.bar br).waiters, k.frame ≠ f) →
    ∃ fr', b.frame? f = some fr' ∧ fr'.splits = fr.splits ∧ fr'.v = fr.v ∧
      ((∃ q ∈ fr.splits, a.splitAgain f fr q = some br) → fr'.wake.getLsbD 0 = true)
  flags : ∀ f fr, a.frame? f = some fr → ∃ fr', b.frame? f = some fr' ∧ ∀ l, l < 32 → fr'.flagsOf l =
    if ∃ p ∈ (a.bar br).leafLanes, p.1 = f ∧ p.2.getLsbD l = true then fr.flagsOf l ||| fl else fr.flagsOf l
  reck : (∀ k ∈ (a.bar br).waiters, k.frame = 16 → k.acq = false) → (∃ k ∈ (a.bar br).waiters, k.frame = 16) → b.rst = .run

/-- The waiters of a barrier as the machine makes them: one for each party, with a register that exists. -/
def GoodWaiters (b : Bar) : Prop := (b.waiters.map (·.frame)).Nodup ∧ ∀ k ∈ b.waiters, ∀ d, k.vec = some d → d < 128

/-! ### Packets -/

/-- A queue whose packet of `len` slots has issued (R372). -/
def passed (x : Queue) (len : Nat) : Queue :=
  { x with rdidx := (x.rdidx + len) % 2 ^ 32, pre := .fresh, op := .fresh, now := none, since := none }

/-- The thread of a queue may run a packet of its ring with this header: the queue is mapped and not stopped, and the header's bead is up (R370, R373,
R376). -/
def MayRun (s : State) (q : Nat) (h : PktHdr) (x : Queue) : Prop :=
  s.queue? q = some x ∧ x.mapped = true ∧ x.stop = 0 ∧ x.ind = none ∧ (h.waitBead = false ∨ ∃ v, x.pre = .past v) ∧ ∀ p ∈ x.pkts, p.id ≠ s.ids

/-- A packet that has issued, open until it completes. -/
def opened (s : State) (h : PktHdr) : OpenPkt := ⟨s.ids, if h.putBead then some h.pbead else none, h.intr, none, .fresh, 0, []⟩

/-- A packet has issued, with its effect `u` and its result, and what completes a packet follows: its bead, its signal (R372, R373). One that puts no bead and
signals nothing leaves only its queue, which has passed it. -/
def Passes (s : State) (q : Nat) (h : PktHdr) (x : Queue) (u : State) (res : Nat) (t : State) : Prop :=
  t = (({ u with ids := s.ids + 1 } : State).setQueue q { passed x h.len with pkts := x.pkts ++ [opened s h] }).packetDone q s.ids res ∧ (
  h.putBead = false → h.intr = false → t = { u with ids := s.ids + 1, queues := t.queues } ∧ t.queue? q = some (passed x h.len) ∧
    ∀ n, n ≠ q → t.queue? n = s.queue? n)

end Sys2Proof.Safety
end

