-- ==== Sys2Proof/Certificates/Slice0/Obligations.lean ====
section
/-!
DEFINITION. The statements for the provers. Each docstring names the rules of the spec that the statement formalises; a log number says that a
clause is the model's choice.
-/
open Sys2Proof Sys2Proof.Machine Sys2Proof.Safety

/-! ### The machine as a whole -/

/-- R24, R34, R47: decoding the word of a well-formed instruction gives the instruction back, with every operand. -/
def Obligations.DecodeEncode : Prop :=
  ∀ i : Instr, WellFormed i = true → decode (encode i) = .ok i

/-- R24, R27, R34, R47, R122, R145, R170: a word that decodes is the word of its instruction, which is well-formed; a word with VER above 1,
of class 0xF or with a reserved bit set decodes to nothing; and the words that the spec writes out for its IADD, FFMA and BRA.u examples
decode to them. -/
def Obligations.WordsDecode : Prop :=
  (∀ (w : BitVec 128) (i : Instr), decode w = .ok i → encode i = w ∧ WellFormed i = true) ∧
  (∀ w : BitVec 128, 2 ≤ (w.extractLsb' 126 2).toNat ∨ (w.extractLsb' 111 4).toNat = 15 → ∃ e, decode w = .error e) ∧
  (∀ w : BitVec 128, w.getLsbD 120 = true ∨ w.getLsbD 72 = true ∨ w.getLsbD 56 = true ∨ w.getLsbD 40 = true ∨ w.extractLsb' 35 5 ≠ 0#5 →
    ∃ e, decode w = .error e) ∧
  decode 0x403882241F05800A8000000100000000#128 = .ok (.iadd ⟨true, 0#3, false, false, false, 7#3, false⟩ false .i32 true 1#3 31#7 1#3
    (.reg 11#7 none false false) (.reg 21#7 none false false)) ∧
  decode 0x40390301080240030004000700000000#128 = .ok (.ffma ⟨true, 0#3, false, false, false, 7#3, false⟩ .rne .x2 8#7
    (.reg 4#7 (some 0#3) false false) (.reg 6#7 none false false) (.reg 8#7 none false false)) ∧
  decode 0x408802000000000000000007FFFFFFF8#128 = .ok (.braU ⟨true, 0#3, false, false, false, 1#3, false⟩ 0xFFFFFFF8#32)

/-- R13, R24, R25, R194, R197: a turn executes the instruction that its party stands at, once the U actions of the core have gone on and its
clocks run: the word of TEXT at the split's or the reckoner's program counter. Where a frame's instruction issues, the chains in progress of
the other frames of its quad are back at their heads first (R42, R78). A frame that stands at a word with U = 1 takes an entry; a word that
decodes to nothing raises ILLEGAL in the party that executes it, as UND does (R47); an event runs as it is; a queue's thread runs the packet
that it has read. Which turn comes next is the agenda's, the model's choice (log 1). -/
def Obligations.StepRunsDecoded : Prop :=
  (∀ (s s' u : State) (core f id : Nat) (w : Wg) (fr : Frame) (sp : Split), s.nextTurn = (.frame core f id, s') →
    (s'.settleCore core).gate core = (u, false) → u.onCore core = some w → w.frame? f = some fr → fr.split? id = some sp →
    let v := { u with cur := some (.frame core f id) }
    ((w.code.word sp.pc).getLsbD 119 = true → step s = exec .dqEntryTake v) ∧
    (∀ i, (w.code.word sp.pc).getLsbD 119 = false → decode (w.code.word sp.pc) = .ok i →
      step s = exec i (if v.issues i = true then v.switchFrame core f else v)) ∧
    (∀ e, (w.code.word sp.pc).getLsbD 119 = false → decode (w.code.word sp.pc) = .error e →
      w.run = .running → w.halt = false → w.storage = none → sp.dbg = false → sp.st = .run → fr.isParked id = false →
      fr.defer = [] → fr.yielded = false → u.ckptDue (u.ctxOfWg w) = false → u.replayStop w = false → u.stillExpects (u.ctxOfWg w) w.missed = false →
      step s = .next (v.raise core f id sp.pc .illegal 0))) ∧
  (∀ (u : State) (core f : Nat) (w : Wg), u.onCore core = some w → OnlyCore u core { w with
    frames := w.frames.zipIdx.map (fun p => if p.2 ≠ f ∧ p.2 % 4 = f % 4 then p.1.restartChain else p.1) } (u.switchFrame core f)) ∧
  (∀ (s s' u : State) (core : Nat) (w : Wg), s.nextTurn = (.reck core, s') →
    (s'.settleCore core).gate core = (u, false) → u.onCore core = some w → (w.code.word w.rpc).getLsbD 119 = true →
    let v := { u with cur := some (.reck core) }
    (∀ i, decode (w.code.word w.rpc) = .ok i → step s = exec i v) ∧
    (∀ e, decode (w.code.word w.rpc) = .error e → w.run = .running → w.halt = false → w.storage = none → w.rdbg = false → w.rst = .run → w.allDead = false →
      u.attached w = false → u.ckptDue (u.ctxOfWg w) = false → u.replayStop w = false → u.stillExpects (u.ctxOfWg w) w.missed = false →
      step s = .next (v.raise core reckParty 0 w.rpc .illegal 0))) ∧
  (∀ (s s' : State) (i : Instr), s.nextTurn = (.event i, s') → eventInstr i = true → step s = exec i { s' with cur := none }) ∧
  (∀ (s s' : State) (q : Nat) (err : Bool) (x : Queue) (i : Instr), s.nextTurn = (.thread q err, s') → s.queue? q = some x → x.mapped = true → x.stop = 0 →
    x.overrun = false → x.now = some i → step s = exec (packetMeets i err) { s' with cur := none })

/-- R89: no step stops the machine: a fault of the architecture is a next state. That a turn which is not enabled leaves the state is the
model's choice (log 1). -/
def Obligations.StepAnswers : Prop :=
  ∀ s : State, Inv s → ∃ t, step s = .next t

/-- R309, R329, R330, R372: every step keeps the invariant: device and host memory stay in canonical form, the phase table holds only stamps
that have been taken, and a queue's thread holds nothing but a packet. The canonical form of a memory is the model's (log 3). -/
def Obligations.StepKeepsInv : Prop :=
  ∀ s t : State, Inv s → step s = .next t → Inv t

/-- R329: no instruction and no event but power-up takes the last stamp back. -/
def Obligations.StampsGrow : Prop :=
  ∀ (s t : State) (i : Instr), i ≠ .powerUp → exec i s = .next t → s.last ≤ t.last

/-- R280, R329, R368, R369, R422: after power-up no stamp has been taken, no function has reported, no feature is accepted, no service flag
is up, and there is no queue, no partition and no grid. The invariant holds. That the lists of work are empty is the model's choice (log 6).
-/
def Obligations.ResetState : Prop :=
  Inv State.reset ∧ State.reset.last = 0 ∧ (∀ off, Tab.get 0#32 State.reset.ready off = 0#32) ∧ State.reset.featOn = false ∧
  (∀ j, Tab.get 0#32 State.reset.feat j = 0#32) ∧ (∀ n, State.reset.feature n = false) ∧ (∀ k, Tab.get 0#5 State.reset.svcFlags k = 0#5) ∧
  (∀ c, Tab.get 0 State.reset.seq c = 0) ∧ (∀ q, State.reset.queue? q = none) ∧ (∀ g, State.reset.grid? g = none) ∧
  (∀ a b, State.reset.part? a b = none) ∧ (∀ c, State.reset.onCore c = none) ∧ State.reset.fw.accepted = false

/-- R34 to R37, R41, R74, R76, R198, R225, R234: what the sources of a frame instruction read: a register, a latch, IMM, a broadcast
s-register as the frame sees it, a pair; a floating source with the sign changes of ABS and NEG; a mapped source as the rounded sum over the
columns. -/
def Obligations.SourceValues : Prop :=
  ∀ (x : FCtx) (l : Nat),
    (∀ n m neg abs j, x.raw (.reg n m neg abs) j l = x.fr.vreg l (n.toNat + j)) ∧
    (∀ n neg abs j ch la, x.sp.chain = some ch → ch.latches[n.toNat]? = some la →
      x.raw (.latch n neg abs) j l = Tab.get 0#32 la.val l ∧ ∀ k, x.tagOf (.latch n neg abs) j k = Tab.get .int la.tag k) ∧
    (∀ v j k, x.raw (.imm v) j l = v ∧ x.tagOf (.imm v) j k = .int) ∧
    (∀ n neg abs j v, x.w.sFrame x.fr.taken x.sp.pc n.toNat = some v →
      x.raw (.sreg n neg abs) j l = v.setWidth 32 ∧ ∀ u, x.raw64 u (.sreg n neg abs) l = v) ∧
    (∀ n u m neg abs, (x.raw64 u (.reg n m neg abs) l).toNat = (x.fr.vreg l n.toNat).toNat + (x.fr.vreg l (n.toNat + 1)).toNat * 2 ^ 32) ∧
    (∀ v, x.raw64 true (.imm v) l = v.setWidth 64 ∧ x.raw64 false (.imm v) l = v.signExtend 64) ∧
    (∀ n neg abs k, (∀ j, j < k → ∀ rod ∈ rodsOf x.act, x.fr.tagOf rod (n.toNat + j) = .f32) →
      ∃ o, x.f32 (.reg n none neg abs) k = .ok o ∧ ∀ p, o.fl p l = flagNone ∧
        o.val p l = ((x.fr.vreg l (n.toNat + p)).toNat % (if abs = true then 2 ^ 31 else 2 ^ 32) + (if neg = true then 2 ^ 31 else 0)) % 2 ^ 32) ∧
    (∀ n neg abs k, (∃ j rod, j < k ∧ rod ∈ rodsOf x.act ∧ x.fr.tagOf rod (n.toNat + j) ≠ .f32) →
      x.f32 (.reg n none neg abs) k = .error .fmttag) ∧
    (∀ (n : BitVec 7) (m : BitVec 3) (t : Tag), x.act ≠ 0#32 → (x.w.slot (x.f % 4) m.toNat).binding = .bound → (x.w.slot (x.f % 4) m.toNat).full = false →
      slotAdmits (x.w.slot (x.f % 4) m.toNat).fmt t = true → (∀ rod ∈ rodsOf x.act, x.fr.tagOf rod n.toNat = t) → l < 32 →
      ∃ o, x.f32 (.reg n (some m) false false) t.planes = .ok o ∧ ∀ p,
        let sl := x.w.slot (x.f % 4) m.toNat
        let col := fun (j : Nat) =>
          if x.act.getLsbD j = true then (mapInput t (x.fr.vreg j n.toNat) (x.fr.sideOf j n.toNat) (Fmt.bf16.read sl.band.toNat) p).1 else FV.fin false 0 0
        let r := Fmt.fp32.sum .rne ((List.range 32).map (fun j => (FV.mul (sl.elem l j) (col j)).1)) false
        r.1 ≠ 0x80000000 → o.val p l = r.1)

/-! ### Issue, faults and control -/

/-- R47, R60, R86, R198, R199, R226, R337: a split that runs, in a workgroup with nothing outstanding and no debugger, issues a legal frame
instruction that it may execute: nothing holds it back, no checkpoint is due, its commits may take their stamps, and no load over the mesh
from its slice is outstanding (R316). R194 to R199: a running reckoner with nothing outstanding executes a legal U instruction while its
decision queue has room. -/
def Obligations.InstructionsIssue : Prop :=
  (∀ (s : State) (i : Instr) (p : Shape) (core f id : Nat) (w : Wg) (fr : Frame) (sp : Split),
    s.cur = some (.frame core f id) → i.shape = some p → s.onCore core = some w → w.frame? f = some fr → fr.split? id = some sp →
    w.run = .running → w.halt = false → w.storage = none → sp.dbg = false → sp.st = .run → fr.isParked id = false →
    (∀ d ∈ fr.defer, d.clocks ≤ s.tick) → fr.yielded = false → s.attached w = false → s.ckptDue (s.ctxOfWg w) = false → s.replayStop w = false → s.stillExpects (s.ctxOfWg w) w.missed = false →
    w.passes = [] → w.reqs = [] → w.pend = [] → w.slotOps = [] → w.acts = [] → (∀ c ∈ w.copies, c.st ≠ .issued) →
    w.phase.s ≤ s.frontier (dieOf core) → s.mayStamp (s.ctxOfWg w) w none = true → s.meshLoadsHere w = false →
    (gathersAt w f i p = false ∨ fr.splits.length ≤ 1) → frameLegal s w sp i p = true →
    (i.privileged = false ∨ ∃ g, s.grid? w.grid = some g ∧ g.system = true) →
    s.issueF i = .go ⟨s, core, w, f, fr.switchTo id, sp, guardMask (fr.switchTo id) sp p.ctl, p.ctl⟩) ∧
  (∀ (s : State) (i : Instr) (p : Shape) (core : Nat) (w : Wg),
    s.cur = some (.reck core) → i.shape = some p → s.onCore core = some w →
    w.run = .running → w.halt = false → w.storage = none → w.rdbg = false → w.rst = .run → w.allDead = false →
    s.attached w = false → s.ckptDue (s.ctxOfWg w) = false → s.replayStop w = false → s.stillExpects (s.ctxOfWg w) w.missed = false → w.pend = [] → w.freeEntries.dq.length < 64 → reckLegal s w i p = true →
    s.issueR i = .go ⟨s, core, w, guardQ w p.ctl, p.ctl⟩)

/-- R47, R60, R89, R322: a frame instruction that is not legal in its place raises ILLEGAL; a privileged one with an active lane, outside a
system grid, raises PRIV once its guard is there. A U instruction that is not legal raises ILLEGAL. R47, R48, R175: UND raises ILLEGAL in
the frame that reaches it, and in the reckoner where U = 1, whatever its guard; with U = 0 the reckoner stops without a fault. -/
def Obligations.IllegalAndUnd : Prop :=
  ((∀ (s : State) (i : Instr) (p : Shape) (core f id : Nat) (w : Wg) (fr : Frame) (sp : Split),
    s.cur = some (.frame core f id) → i.shape = some p → p.u = false → s.onCore core = some w → w.frame? f = some fr → fr.split? id = some sp →
    w.run = .running → w.halt = false → w.storage = none → sp.dbg = false → sp.st = .run → fr.isParked id = false →
    (∀ d ∈ fr.defer, d.clocks ≤ s.tick) → fr.yielded = false → s.ckptDue (s.ctxOfWg w) = false → s.replayStop w = false → s.stillExpects (s.ctxOfWg w) w.missed = false →
    (frameLegal s w sp i p = false → exec i s = .next (s.raise core f id sp.pc .illegal 0)) ∧
    (frameLegal s w sp i p = true → i.privileged = true → guardMask (fr.switchTo id) sp p.ctl ≠ 0#32 →
      w.busy f sp.lanes [] [p.ctl.gp.toNat] [] false = false → (∀ g, s.grid? w.grid = some g → g.system = false) → exec i s = .next (s.raise core f id sp.pc .priv 0))) ∧
  (∀ (s : State) (i : Instr) (p : Shape) (core : Nat) (w : Wg),
    s.cur = some (.reck core) → i.shape = some p → p.u = true → s.onCore core = some w →
    w.run = .running → w.halt = false → w.storage = none → w.rdbg = false → w.rst = .run → w.allDead = false →
    s.attached w = false → s.ckptDue (s.ctxOfWg w) = false → s.replayStop w = false → s.stillExpects (s.ctxOfWg w) w.missed = false → reckLegal s w i p = false →
    exec i s = .next (s.raise core reckParty 0 w.rpc .illegal 0))) ∧
  ((∀ (s : State) (c : Ctl) (core f id : Nat) (w : Wg) (fr : Frame) (sp : Split),
    s.cur = some (.frame core f id) → s.onCore core = some w → w.frame? f = some fr → fr.split? id = some sp →
    w.run = .running → w.halt = false → w.storage = none → sp.dbg = false → sp.st = .run → fr.isParked id = false →
    (∀ d ∈ fr.defer, d.clocks ≤ s.tick) → fr.yielded = false → s.ckptDue (s.ctxOfWg w) = false → s.replayStop w = false → s.stillExpects (s.ctxOfWg w) w.missed = false →
    exec (.und c false) s = .next (s.raise core f id sp.pc .illegal 0)) ∧
  (∀ (s : State) (c : Ctl) (core : Nat) (w : Wg), s.cur = some (.reck core) → s.onCore core = some w →
    w.run = .running → w.halt = false → w.storage = none → w.rdbg = false → w.rst = .run → w.allDead = false →
    s.attached w = false → s.ckptDue (s.ctxOfWg w) = false → s.replayStop w = false → s.stillExpects (s.ctxOfWg w) w.missed = false →
    exec (.und c true) s = .next (s.raise core reckParty 0 w.rpc .illegal 0)) ∧
  (∀ (s : State) (c : Ctl) (core : Nat) (w : Wg), s.cur = some (.reck core) → s.onCore core = some w →
    ∃ t, exec (.und c false) s = .next t ∧ OnlyCore s core { w with rst := .stopped } t))

/-- R89, R90, R296, R323, R377: taking a fault. XLATE stops the workgroup at the instruction, its chains back at their heads; TRAP and BRK
hold the running workgroups of the grid, or under CONTAIN this one, and report it; every other code, without CONTAIN, ends the grid, whose
queue stops with FAULT, when the grid's packet is complete. Under CONTAIN such a fault halts its workgroup alone: its phase is discarded,
its record with the fault is written under a stamp of its own, and it has ended. A split that stops inside a chain goes back to its head by
R42 (log 18). -/
def Obligations.FaultTaken : Prop :=
  ∀ (s : State) (core party split info : Nat) (pc : Word64) (code : Code) (w : Wg) (g : Grid), s.onCore core = some w → w.core = core →
    s.grid? w.grid = some g → (∀ v ∈ s.wgs, v.is w.grid w.idx = true → v = w) → (∀ c v, s.onCore c = some v → v.core = c) → s.attached w = false →
    (code = .xlate → OnlyCore s core { w with
        frames := (w.frames.map Frame.restartChain).zipIdx.map (fun p =>
          if p.2 = party then p.1.mapSplits (fun q => if q.id = split then { q with xl := q.xl + 1 } else q) else p.1)
        run := .xlate party split pc.toNat } (s.raise core party split pc code info)) ∧
    (code = .trap ∨ code = .brk → w.run = .running →
      (∃ v, (s.raise core party split pc code info).onCore core = some v ∧ v.run = .held) ∧
      (∀ c v v', c ≠ core → s.onCore c = some v → (s.raise core party split pc code info).onCore c = some v' →
        v' = (if v.grid = g.id ∧ g.contain = false ∧ v.run = .running then { v.restartChains with run := .held } else v)) ∧
      (∃ g', (s.raise core party split pc code info).grid? g.id = some g' ∧ g' = { g with st := .held }) ∧
      (∀ q, s.queue? g.queue = some q → ∃ q', (s.raise core party split pc code info).queue? g.queue = some q' ∧
        q'.reports = q.reports ++ [⟨1, g.id, w.idx, code.num, info, pc.toNat⟩])) ∧
    (code ≠ .xlate → code ≠ .trap → code ≠ .brk → g.contain = false →
      (s.raise core party split pc code info).grid? g.id = none ∧
      (∀ v ∈ (s.raise core party split pc code info).wgs, v.grid ≠ g.id) ∧
      (∀ q, s.queue? g.queue = some q → ∃ q', (s.raise core party split pc code info).queue? g.queue = some q' ∧
        (g.packet = none ∨ (∃ id p, g.packet = some id ∧ q.pkts.find? (fun y => decide (y.id = id)) = some p ∧ p.put = none) →
          q'.stop = 0x15 ∧ ⟨2, g.id, w.idx, code.num, 0, rpcOf code.num pc.toNat⟩ ∈ q'.reports) ∧
        (∀ id p, g.packet = some id → q.pkts.find? (fun y => decide (y.id = id)) = some p → p.put ≠ none →
          (q'.stop = 0x15 ∧ ⟨2, g.id, w.idx, code.num, 0, rpcOf code.num pc.toNat⟩ ∈ q'.reports) ∨
            ∃ p' ∈ q'.pkts, p'.id = id ∧ p'.stop = 0x15 ∧ ⟨2, g.id, w.idx, code.num, 0, rpcOf code.num pc.toNat⟩ ∈ p'.reports))) ∧
    (code ≠ .xlate → code ≠ .trap → code ≠ .brk → g.contain = true →
      let t := s.raise core party split pc code info
      let v : Wg := { w.restartChains with fault := some ⟨code, party, pc.toNat, info⟩, endflags := Nat.lor w.endflags 1 }
      let a := g.lrec.carea + 128 * w.idx
      t.wg? w.grid w.idx = none ∧ t.last = s.last + 1 ∧ t.dev.written (.phase w.phase.tag) = [] ∧
      (∀ c u, c ≠ core → s.onCore c = some u → u.is w.grid w.idx = false → t.onCore c = some u) ∧
      (∃ g', t.grid? g.id = some g' ∧ g'.ended = g.ended ++ [w.idx] ∧
        ∀ e, g.lrec.carea ≠ 0 → s.areaPage g a false = .error e → g'.dropRec = keepLowest g.dropRec w.idx e) ∧
      (∀ p, g.lrec.carea ≠ 0 → s.areaPage g a false = .ok p →
        t.dev.vers = ((s.discardWg v).dev.put (.committed (s.last + 1)) (p.phys a) (recordBytes v w.gang (s.last + 1))).vers))

/-- R28, R29, R178 to R180: NOP and REJOIN change nothing but the place of their split, and YIELD with an active lane leaves its frame
yielded; STALL and YIELD of the word's CTL take hold after it, beside a deferral that is not over. R181: SLEEP with an active lane has
passed its word, and its split sleeps, without end for a count of 0; with none it does nothing. That SLEEP has passed its word is the
model's choice (log 20). -/
def Obligations.PlainControl : Prop :=
  (∀ (s : State) (x : FCtx) (c : Ctl),
    (WellFormed (.nop c) = true → s.issueF (.nop c) = .go x →
      ∃ t fr, exec (.nop c) s = .next t ∧ Retired x t fr ∧ Has Result.none x.act c.wbs 0 7 x.fr fr ∧
        Went x fr (x.sp.pc + 16#64) (fun ch => ch = none) ∧ fr.yielded = c.yld ∧
        fr.defer = x.fr.defer.filter (fun d => decide (s.tick < d.clocks)) ++ (if c.stall = 0#3 then [] else [⟨c.stall.toNat, s.tick + 20⟩])) ∧
    (WellFormed (.rejoin c) = true → s.issueF (.rejoin c) = .go x →
      ∃ t fr, exec (.rejoin c) s = .next t ∧ Retired x t fr ∧ Has Result.none x.act c.wbs 0 7 x.fr fr ∧
        Went x fr (x.sp.pc + 16#64) (fun ch => ch = none)) ∧
    (WellFormed (.yld c) = true → s.issueF (.yld c) = .go x →
      ∃ t fr, exec (.yld c) s = .next t ∧ Retired x t fr ∧ Has Result.none x.act c.wbs 0 7 x.fr fr ∧
        Went x fr (x.sp.pc + 16#64) (fun ch => ch = none) ∧ (x.act ≠ 0#32 → fr.yielded = true))) ∧
  (∀ (s : State) (c : Ctl) (a : Src) (x : FCtx), WellFormed (.sleep c a) = true → s.issueF (.sleep c a) = .go x →
    (x.act = 0#32 → ∃ t fr, exec (.sleep c a) s = .next t ∧ Retired x t fr ∧ Has Result.none x.act c.wbs 0 7 x.fr fr ∧
      Went x fr (x.sp.pc + 16#64) (fun ch => ch = none)) ∧
    (∀ l, (lanesOf x.act).head? = some l → x.act &&& x.fr.live ≠ 0#32 → ∃ t fr p, exec (.sleep c a) s = .next t ∧
      OnlyCore x.s x.core ((x.w.setFrame x.f fr).count x.c) t ∧ fr.regs = x.fr.regs ∧ fr.split? x.sp.id = some p ∧
      p.pc = x.sp.pc + 16#64 ∧ p.lanes = x.sp.lanes &&& x.fr.live ∧
      p.st = .sleep (if x.raw a 0 l = 0#32 then none else some (s.cycle + (x.raw a 0 l).toNat)) ∧
      ∀ q, q ≠ x.sp.id → fr.split? q = x.fr.split? q))

/-- R80, R168 to R172: a branch whose targets are words of TEXT sends every active lane to its target and every other lane of its split to
the next word; CALL and CALLX write the address of the next word to their pair in the active lanes. R170: a branch with a target that is no
multiple of 16 in some active lane faults ALIGN, else one with a target outside TEXT faults ADDR. -/
def Obligations.Branches : Prop :=
  (∀ (s : State) (i : Instr) (x : FCtx) (g : Nat → Word64), WellFormed i = true → s.issueF i = .go x → targetOf x i = some g →
    (∀ l, x.act.getLsbD l = true → GoodTarget x.w.code (g l)) →
    ∃ t fr, exec i s = .next t ∧ Retired x t fr ∧
      Has (match i with | .call .. | .callx .. => Result.two (fun _ => x.sp.pc + 16#64) | _ => Result.none) x.act x.c.wbs (dstOf i) 7 x.fr fr ∧
      ∀ l, (x.sp.lanes &&& x.fr.live).getLsbD l = true → LaneAt fr l (if x.act.getLsbD l = true then g l else x.sp.pc + 16#64)) ∧
  (∀ (s : State) (i : Instr) (x : FCtx) (g : Nat → Word64), s.issueF i = .go x → targetOf x i = some g →
    ((∃ l, x.act.getLsbD l = true ∧ (g l).toNat % 16 ≠ 0) → exec i s = .next (s.raise x.core x.f x.sp.id x.sp.pc .align 0)) ∧
    ((∀ l, x.act.getLsbD l = true → (g l).toNat % 16 = 0) → (∃ l, x.act.getLsbD l = true ∧ ¬GoodTarget x.w.code (g l)) →
      exec i s = .next (s.raise x.core x.f x.sp.id x.sp.pc .addr 0)))

/-- R81, R83, R84, R173: EXIT retires its active lanes with their statuses; the other lanes of the split go on at the next word, and where
the splits that are left can gather no more, the lowest of them faults REGANG. R90, R92, R176, R177: TRAP and BRK with an active lane pass
their word and then hold the grid with their code; BRK with a debugger attached stops its split instead. With no active lane they do
nothing. That TRAP and BRK have passed their word is the model's choice (log 55), EXIT waits for no store (log 34), and which split faults
REGANG where lanes leave is the model's choice (log 75). -/
def Obligations.ExitAndTraps : Prop :=
  (∀ (s : State) (c : Ctl) (a : Src) (x : FCtx), WellFormed (.exit c a) = true → s.issueF (.exit c a) = .go x →
    let sts := (lanesOf x.act).map (fun l => (x.raw a 0 l).toNat % 2 ^ 16)
    ∃ u fr, exec (.exit c a) s = .next (if fr.gatherBad = true then
          (match fr.lowestSplit with | some p => u.raise x.core x.f p.id p.pc .regang 0 | none => u) else u) ∧
      u = x.s.setCore x.core ((({ x.w with maxst := sts.foldl max x.w.maxst,
                                           nz := x.w.nz + (sts.filter (fun n => decide (n ≠ 0))).length } : Wg).setFrame x.f fr).count x.c) ∧
      fr.live = x.fr.live &&& ~~~x.act ∧ { fr.regs with live := x.fr.live } = x.fr.regs ∧
      (∀ l, x.act.getLsbD l = true → ∀ q ∈ fr.splits, q.lanes.getLsbD l = false) ∧
      ∀ l, (x.sp.lanes &&& x.fr.live).getLsbD l = true → x.act.getLsbD l = false → LaneAt fr l (x.sp.pc + 16#64)) ∧
  (∀ (s : State) (x : FCtx) (c : Ctl),
    (∀ a, WellFormed (.trap c a) = true → s.issueF (.trap c a) = .go x →
      ∃ u fr, Retired x u fr ∧ Has Result.none x.act c.wbs 0 7 x.fr fr ∧ Went x fr (x.sp.pc + 16#64) (fun ch => ch = none) ∧
        (x.act = 0#32 → exec (.trap c a) s = .next u) ∧
        (∀ l, (lanesOf x.act).head? = some l →
          exec (.trap c a) s = .next (u.raise x.core x.f x.sp.id x.sp.pc .trap ((x.raw a 0 l).toNat % 2 ^ 16)))) ∧
    (∀ code, WellFormed (.brk c code) = true → s.issueF (.brk c code) = .go x →
      ∃ u fr, Retired x u fr ∧ Has Result.none x.act c.wbs 0 7 x.fr fr ∧ Went x fr (x.sp.pc + 16#64) (fun ch => ch = none) ∧
        (x.act = 0#32 → exec (.brk c code) s = .next u) ∧
        (x.act ≠ 0#32 → s.attached x.w = false →
          exec (.brk c code) s = .next (u.raise x.core x.f x.sp.id x.sp.pc .brk code.toNat)) ∧
        (x.act ≠ 0#32 → s.attached x.w = true →
          exec (.brk c code) s = .next (u.debugStop x.core x.f { x.sp with skipB := [], skipW := [] } Code.brk.num code.toNat false))))

/-- R30, R168, R173, R176: a U instruction whose guard is false performs nothing, and places its entry: a branch not taken, an exit or a
trap with a false guard, or nothing. R168, R173, R176, R180, R181: the U forms of control place their entries, and the reckoner branches,
stops, traps or sleeps. That SLEEP.u has passed its word is the model's choice (log 20). -/
def Obligations.UControl : Prop :=
  (∀ (s : State) (i : Instr) (x : RCtx), isU i = true → s.issueR i = .go x → x.on = false →
    ∃ t, exec i s = .next t ∧ CompletesU x t x.s x.w
      { UOut.nop with kind := match i with
          | .braU _ _ => .branch false 0#64
          | .exitU _ _ => .exit false 0#16
          | .trapU _ _ => .trap false
          | _ => .nop } (x.w.rpc + 16#64)) ∧
  (∀ (s : State) (x : RCtx) (c : Ctl),
    (s.issueR (.nopU c) = .go x → x.on = true →
      ∃ t, exec (.nopU c) s = .next t ∧ CompletesU x t x.s x.w UOut.nop (x.w.rpc + 16#64)) ∧
    (∀ off, s.issueR (.braU c off) = .go x → x.on = true →
      let g := x.w.rpc + 16#64 + 16#64 * off.signExtend 64
      (GoodTarget x.w.code g →
        ∃ t, exec (.braU c off) s = .next t ∧ CompletesU x t x.s x.w { UOut.nop with kind := .branch true g } g) ∧
      (¬GoodTarget x.w.code g →
        exec (.braU c off) s = .next (s.raise x.core reckParty 0 x.w.rpc (if g.toNat % 16 ≠ 0 then .align else .addr) 0))) ∧
    (∀ a, s.issueR (.exitU c a) = .go x → x.on = true →
      ∃ t w, exec (.exitU c a) s = .next t ∧ OnlyCore x.s x.core { w with rst := .stopped } t ∧
        HasU { UOut.nop with kind := .exit true ((x.val32 a).setWidth 16) } (x.w.rpc + 16#64) x.w w) ∧
    (∀ a, s.issueR (.trapU c a) = .go x → x.on = true →
      ∃ u, CompletesU x u x.s x.w { UOut.nop with kind := .trap true } (x.w.rpc + 16#64) ∧
        exec (.trapU c a) s = .next (u.raise x.core reckParty 0 x.w.rpc .trap ((x.val32 a).toNat % 2 ^ 16))) ∧
    (∀ a, s.issueR (.sleepU c a) = .go x → x.on = true →
      ∃ t w, exec (.sleepU c a) s = .next t ∧
        OnlyCore x.s x.core { w with rst := .sleep (if x.val32 a = 0#32 then none else some (s.cycle + (x.val32 a).toNat)) } t ∧
        HasU UOut.nop (x.w.rpc + 16#64) x.w w))

/-! ### Integer instructions -/

/-- R116 to R134, R187: the frame forms of class 0x1 with a 32-bit result, and RNG, complete with the result of `int32Of` in vD, tagged INT.
R117, R118, R127 to R129, R134, R125: the frame forms with a 64-bit result complete with it in the pair vD:vD+1, tagged INT. R122, R123:
IADD, ISUB and IADD3 of a frame complete with the sum or difference in vD, and the carry or borrow in PD. -/
def Obligations.IntegerFrameResults : Prop :=
  (∀ (s : State) (i : Instr) (x : FCtx) (z : Bool) (f : Word32 → Word32 → Word32 → Word32),
    int32Of i = some (z, f) → WellFormed i = true → isU i = false → s.issueF i = .go x →
    ∃ t, exec i s = .next t ∧
      Computes i x t (Result.one .int (fun l => f (x.raw (srcA i) 0 l) (x.raw (srcB i) 0 l) (x.raw (srcC i) 0 l)))) ∧
  (∀ (s : State) (i : Instr) (x : FCtx), WellFormed i = true → isU i = false → s.issueF i = .go x →
    (∀ ty f, int64Of i = some (ty, f) →
      ∃ t, exec i s = .next t ∧ Computes i x t (Result.two (fun l => f (x.raw64 ty.uns (srcA i) l) (x.raw64 ty.uns (srcB i) l)))) ∧
    (∀ ty f, shift64Of i = some (ty, f) →
      ∃ t, exec i s = .next t ∧ Computes i x t (Result.two (fun l => f (x.raw64 ty.uns (srcA i) l) (x.raw (srcB i) 0 l).toNat))) ∧
    (∀ c sh dst a b, i = .lea c false true sh dst a b →
      ∃ t, exec i s = .next t ∧
        Computes i x t (Result.two (fun l => x.raw64 false a l + (x.raw b 0 l).signExtend 64 * BitVec.ofNat 64 (2 ^ sh.toNat)))) ∧
    (∀ c ty dst a b d, i = .imadw c false ty dst a b d →
      ∃ t, exec i s = .next t ∧
        Computes i x t (Result.two (fun l => BitVec.ofInt 64 (num ty (x.raw a 0 l) * num ty (x.raw b 0 l) + (x.raw64 ty.uns d l).toNat))))) ∧
  (∀ (s : State) (i : Instr) (x : FCtx), WellFormed i = true → s.issueF i = .go x →
    (∀ (sub : Bool) (c : Ctl) (ty : ITy) (cin : Bool) (cinp : BitVec 3) (dst : BitVec 7) (pd : BitVec 3) (a b : Src),
      i = (if sub then .isub c false ty cin cinp dst pd a b else .iadd c false ty cin cinp dst pd a b) →
      let k := fun l => cin && x.fr.pred l cinp.toNat
      ∃ t, exec i s = .next t ∧ Computes i x t
        (if ty.w64 then
          { Result.two (fun l => (carryOf 64 sub (x.raw64 ty.uns a l) (x.raw64 ty.uns b l) (k l)).1) with
            pred := some (fun l => (carryOf 64 sub (x.raw64 ty.uns a l) (x.raw64 ty.uns b l) (k l)).2) }
        else
          { Result.one .int (fun l => (carryOf 32 sub (x.raw a 0 l) (x.raw b 0 l) (k l)).1) with
            pred := some (fun l => (carryOf 32 sub (x.raw a 0 l) (x.raw b 0 l) (k l)).2) })) ∧
    (∀ c ty dst pd a b d, i = .iadd3 c false ty dst pd a b d →
      let sum := fun l => (x.raw a 0 l).toNat + (x.raw b 0 l).toNat + (x.raw d 0 l).toNat
      ∃ t, exec i s = .next t ∧
        Computes i x t { Result.one .int (fun l => BitVec.ofNat 32 (sum l)) with pred := some (fun l => decide (2 ^ 32 ≤ sum l)) }))

/-- R118, R120, R51: the U forms of class 0x1 complete: they write sD with the 32-bit result extended by type, or the whole 64-bit result.
R122, R123, R135, R137, R138: the U forms that read or write a predicate complete; PD = 7 discards the predicate (R33). The extension of an
immediate of SEL.u and LEA.u is the model's choice (log 28). -/
def Obligations.IntegerUResults : Prop :=
  (∀ (s : State) (i : Instr) (x : RCtx), WellFormed i = true → s.issueR i = .go x → x.on = true →
    (∀ z f, int32Of i = some (z, f) → isU i = true →
      ∃ t, exec i s = .next t ∧ CompletesU x t x.s x.w
        (outU x.c.wbs (dstOf i) (ext z (f (x.val32 (srcA i)) (x.val32 (srcB i)) (x.val32 (srcC i))))) (x.w.rpc + 16#64)) ∧
    (∀ ty f, int64Of i = some (ty, f) →
      ∃ t, exec i s = .next t ∧ CompletesU x t x.s x.w
        (outU x.c.wbs (dstOf i) (f (x.val ty.uns (srcA i)) (x.val ty.uns (srcB i)))) (x.w.rpc + 16#64)) ∧
    (∀ ty f, shift64Of i = some (ty, f) →
      ∃ t, exec i s = .next t ∧ CompletesU x t x.s x.w
        (outU x.c.wbs (dstOf i) (f (x.val ty.uns (srcA i)) (x.val ty.uns (srcB i)).toNat)) (x.w.rpc + 16#64)) ∧
    (∀ c sh dst a b, i = .lea c true true sh dst a b →
      ∃ t, exec i s = .next t ∧ CompletesU x t x.s x.w
        (outU x.c.wbs dst.toNat (x.val false a + x.val false b * BitVec.ofNat 64 (2 ^ sh.toNat))) (x.w.rpc + 16#64)) ∧
    (∀ c ty dst a b d, i = .imadw c true ty dst a b d →
      ∃ t, exec i s = .next t ∧ CompletesU x t x.s x.w
        (outU x.c.wbs dst.toNat (BitVec.ofInt 64 (num ty (x.val32 a) * num ty (x.val32 b) + (x.val ty.uns d).toNat))) (x.w.rpc + 16#64)) ∧
    (∀ c ty dst a, i = .mov c true ty dst a →
      ∃ t, exec i s = .next t ∧ CompletesU x t x.s x.w
        (outU x.c.wbs dst.toNat (if ty.w64 then x.val ty.uns a else ext ty.uns (x.val32 a))) (x.w.rpc + 16#64))) ∧
  (∀ (s : State) (i : Instr) (x : RCtx), WellFormed i = true → s.issueR i = .go x → x.on = true →
    let onPd := fun (pd : BitVec 3) (b : Bool) (o : UOut) => { o with preds := if pd = 7#3 then [] else [(pd.toNat, b)] }
    (∀ (sub : Bool) (c : Ctl) (ty : ITy) (cin : Bool) (cinp : BitVec 3) (dst : BitVec 7) (pd : BitVec 3) (a b : Src),
      i = (if sub then .isub c true ty cin cinp dst pd a b else .iadd c true ty cin cinp dst pd a b) →
      let k := cin && x.w.qpred cinp.toNat
      let r : Word64 × Bool :=
        if ty.w64 then carryOf 64 sub (x.val ty.uns a) (x.val ty.uns b) k
        else (ext ty.uns (carryOf 32 sub (x.val32 a) (x.val32 b) k).1, (carryOf 32 sub (x.val32 a) (x.val32 b) k).2)
      ∃ t, exec i s = .next t ∧ CompletesU x t x.s x.w (onPd pd r.2 (outU x.c.wbs dst.toNat r.1)) (x.w.rpc + 16#64)) ∧
    (∀ c ty dst pd a b d, i = .iadd3 c true ty dst pd a b d →
      let sum := (x.val32 a).toNat + (x.val32 b).toNat + (x.val32 d).toNat
      ∃ t, exec i s = .next t ∧ CompletesU x t x.s x.w
        (onPd pd (decide (2 ^ 32 ≤ sum)) (outU x.c.wbs dst.toNat (ext ty.uns (BitVec.ofNat 32 sum)))) (x.w.rpc + 16#64)) ∧
    (∀ c ty cond pd a b, i = .icmp c true ty cond pd a b →
      ∃ t, exec i s = .next t ∧ CompletesU x t x.s x.w
        (onPd pd (if ty.w64 then compareOf ty cond (x.val ty.uns a) (x.val ty.uns b) else compareOf ty cond (x.val32 a) (x.val32 b)) UOut.nop)
        (x.w.rpc + 16#64)) ∧
    (∀ c pop pd px nx py ny, i = .pset c true pop pd px nx py ny →
      ∃ t, exec i s = .next t ∧ CompletesU x t x.s x.w
        (onPd pd (combine pop (x.w.qpred px.toNat ^^ nx) (x.w.qpred py.toNat ^^ ny)) UOut.nop) (x.w.rpc + 16#64)) ∧
    (∀ c selp seln pl dst a b, i = .sel c true selp seln pl dst a b →
      ∃ t, exec i s = .next t ∧ CompletesU x t x.s x.w
        (outU x.c.wbs dst.toNat (if (x.w.qpred selp.toNat ^^ seln) = true then x.val false a else x.val false b)) (x.w.rpc + 16#64)))

/-- R120: MOV of a frame completes: it copies bits, tags and side bytes; a mapped MOV writes the map's output, tagged F32, with the side
byte of its source, and raises the map's flags. R137: SEL of a frame takes A where the select predicate, inverted by SELN, is true, and B
elsewhere; the destination takes the common tag. The side byte of a MOV from a latch is the model's choice (log 60). -/
def Obligations.MoveResults : Prop :=
  (∀ (s : State) (c : Ctl) (ty : ITy) (dst : BitVec 7) (a : Src) (x : FCtx), WellFormed (.mov c false ty dst a) = true →
    s.issueF (.mov c false ty dst a) = .go x →
    (ty.w64 = false → a.mapped = false → ∃ t, exec (.mov c false ty dst a) s = .next t ∧
      Computes (.mov c false ty dst a) x t
        { Result.one .int (fun l => x.raw a 0 l) with tag := fun _ k => x.tagOf a 0 k, side := some (fun _ l => x.sideOf a 0 l) }) ∧
    (ty.w64 = true → ∃ t, exec (.mov c false ty dst a) s = .next t ∧
      Computes (.mov c false ty dst a) x t
        { Result.two (fun l => x.raw64 ty.uns a l) with tag := fun j k => x.tagOf a j k, side := some (fun j l => x.sideOf a j l) }) ∧
    (∀ o, ty.w64 = false → a.mapped = true → x.f32 a 1 = .ok o → ∃ t, exec (.mov c false ty dst a) s = .next t ∧
      Computes (.mov c false ty dst a) x t
        { Result.one .f32 (fun l => BitVec.ofNat 32 (o.val 0 l)) with side := some (fun _ l => x.sideOf a 0 l), flags := fun l => o.fl 0 l })) ∧
  (∀ (s : State) (x : FCtx) (c : Ctl) (selp : BitVec 3) (seln : Bool) (pl : Planes) (dst : BitVec 7) (a b : Src) (p q : Opnd) (tg : Nat → Nat → Tag),
    WellFormed (.sel c false selp seln pl dst a b) = true → s.issueF (.sel c false selp seln pl dst a b) = .go x →
    x.selSrc a pl.count = .ok p → x.selSrc b pl.count = .ok q →
    (∀ j k, j < pl.count → k ∈ rodsOf x.act → (commonTag (x.selTag a j k) (x.selTag b j k)).isSome = true) →
    (∀ j k, tg j k = (commonTag (x.selTag a j k) (x.selTag b j k)).getD .int) →
    ∃ t, exec (.sel c false selp seln pl dst a b) s = .next t ∧
      Computes (.sel c false selp seln pl dst a b) x t
        { Result.none with n := pl.count, tag := fun j k => tg j k,
                           v := fun j l => BitVec.ofNat 32 (if (x.fr.pred l selp.toNat ^^ seln) = true then p.val j l else q.val j l),
                           flags := fun l => flagUnion ((List.range pl.count).map (fun j => p.fl j l ||| q.fl j l)) })

/-- R135, R136, R138, R139: the compares and PSET write their predicate alone; PMOV moves the predicates of a lane to a register. R139: PMOV
to p0:p6 writes bit p of A to predicate p of each active lane, p7 still reads 1, and no register, tag, flag or residue changes. -/
def Obligations.PredicateResults : Prop :=
  (∀ (s : State) (x : FCtx) (c : Ctl) (pd : BitVec 3) (a b : Src),
    (∀ ty cond, WellFormed (.icmp c false ty cond pd a b) = true → s.issueF (.icmp c false ty cond pd a b) = .go x →
      ∃ t, exec (.icmp c false ty cond pd a b) s = .next t ∧
        Computes (.icmp c false ty cond pd a b) x t { Result.none with pred := some (fun l =>
          if ty.w64 then compareOf ty cond (x.raw64 ty.uns a l) (x.raw64 ty.uns b l) else compareOf ty cond (x.raw a 0 l) (x.raw b 0 l)) }) ∧
    (∀ un cond p q, WellFormed (.fcmp c un cond pd a b) = true → s.issueF (.fcmp c un cond pd a b) = .go x →
      x.f32 a 1 = .ok p → x.f32 b 1 = .ok q →
      ∃ t, exec (.fcmp c un cond pd a b) s = .next t ∧
        Computes (.fcmp c un cond pd a b) x t
          { Result.none with pred := some (fun l => (fcmp cond un (p.fv 0 l) (q.fv 0 l)).1),
                             flags := fun l => (fcmp cond un (p.fv 0 l) (q.fv 0 l)).2 ||| p.fl 0 l ||| q.fl 0 l }) ∧
    (∀ pop px nx py ny, WellFormed (.pset c false pop pd px nx py ny) = true → s.issueF (.pset c false pop pd px nx py ny) = .go x →
      ∃ t, exec (.pset c false pop pd px nx py ny) s = .next t ∧
        Computes (.pset c false pop pd px nx py ny) x t
          { Result.none with pred := some (fun l => combine pop (x.fr.pred l px.toNat ^^ nx) (x.fr.pred l py.toNat ^^ ny)) }) ∧
    (∀ dir dst, WellFormed (.pmov c dir dst none) = true → s.issueF (.pmov c dir dst none) = .go x →
      ∃ t, exec (.pmov c dir dst none) s = .next t ∧
        Computes (.pmov c dir dst none) x t (Result.one .int (fun l => x.fr.predMask l)) ∧
        ∀ l k, (x.fr.predMask l).getLsbD k = (decide (k < 8) && x.fr.pred l k))) ∧
  (∀ (s : State) (x : FCtx) (c : Ctl) (dir : Bool) (dst : BitVec 7) (a : Src), WellFormed (.pmov c dir dst (some a)) = true →
    s.issueF (.pmov c dir dst (some a)) = .go x →
    ∃ t fr, exec (.pmov c dir dst (some a)) s = .next t ∧ Retired x t fr ∧
      (∀ l p, l < 32 → p < 7 → fr.pred l p = if x.act.getLsbD l = true then (x.raw a 0 l).getLsbD p else x.fr.pred l p) ∧
      (∀ l, fr.pred l 7 = true) ∧ fr.v = x.fr.v ∧ fr.tags = x.fr.tags ∧ fr.side = x.fr.side ∧ fr.resid = x.fr.resid ∧
      fr.fpst = x.fr.fpst ∧ fr.live = x.fr.live ∧ fr.fmask = x.fr.fmask ∧ fr.prio = x.fr.prio ∧ fr.wake = x.fr.wake ∧
      fr.taken = x.fr.taken ∧ Went x fr (x.sp.pc + 16#64) (fun ch => ch = none))

/-! ### Floating point, packed values and conversions -/

/-- R141 to R149: the FP32 instructions complete with the rounded result of each plane in vD up, tagged F32, and they raise the flags of
every plane and of the mapped sources. R150, R151: FCLS writes its predicate and raises nothing; FSCL scales by the signed integer B. The
precision of the functions is the model's choice (log 31). -/
def Obligations.FpResults : Prop :=
  (∀ (s : State) (i : Instr) (x : FCtx) (n : Nat) (f : Nat → Nat → Nat → Nat × Flags) (p q r : Opnd),
    fpOf i = some (n, f) → WellFormed i = true → s.issueF i = .go x →
    x.f32 (srcA i) n = .ok p → x.f32 (srcB i) n = .ok q → x.f32 (srcC i) n = .ok r →
    ∃ t, exec i s = .next t ∧
      Computes i x t (Result.many n .f32 (fun j l => BitVec.ofNat 32 (f (p.val j l) (q.val j l) (r.val j l)).1)
        (fun l => flagUnion ((List.range n).map (fun j => (f (p.val j l) (q.val j l) (r.val j l)).2 ||| p.fl j l ||| q.fl j l ||| r.fl j l))))) ∧
  (∀ (s : State) (x : FCtx) (p : Opnd),
    (∀ c pd a mask, WellFormed (.fcls c pd a mask) = true → s.issueF (.fcls c pd a mask) = .go x → x.f32 a 1 = .ok p →
      ∃ t, exec (.fcls c pd a mask) s = .next t ∧
        Computes (.fcls c pd a mask) x t { Result.none with pred := some (fun l => mask.getLsbD (fclass (p.fv 0 l))) }) ∧
    (∀ c rnd dst a b, WellFormed (.fscl c rnd dst a b) = true → s.issueF (.fscl c rnd dst a b) = .go x → x.f32 a 1 = .ok p →
      ∃ t, exec (.fscl c rnd dst a b) s = .next t ∧
        Computes (.fscl c rnd dst a b) x t
          { Result.one .f32 (fun l => BitVec.ofNat 32 (fscl rnd (p.val 0 l) (x.raw b 0 l).toInt).1) with
            flags := fun l => (fscl rnd (p.val 0 l) (x.raw b 0 l).toInt).2 }))

/-- R152 to R157: the packed instructions complete: each element is rounded once, and both elements' flags are raised together. R155: HDOT2
forms the exact sum of two products and an FP32 value, and rounds it once to FP32. -/
def Obligations.PackedResults : Prop :=
  (∀ (s : State) (i : Instr) (x : FCtx) (bf : Bool) (tag : Tag) (f : Opnd → Opnd → Opnd → Nat → Nat → Nat × Flags) (p q r : Opnd),
    packedOf i = some (bf, tag, f) → WellFormed i = true → s.issueF i = .go x →
    x.h2 (srcA i) bf = .ok p → x.h2 (srcB i) bf = .ok q → x.h2 (srcC i) bf = .ok r →
    ∃ t, exec i s = .next t ∧
      Computes i x t
        { Result.one tag (fun l => BitVec.ofNat 32 ((f p q r 0 l).1 % 2 ^ 16 + (f p q r 1 l).1 % 2 ^ 16 * 2 ^ 16)) with
          flags := fun l => (f p q r 0 l).2 ||| p.fl 0 l ||| q.fl 0 l ||| r.fl 0 l ||| (f p q r 1 l).2 ||| p.fl 1 l ||| q.fl 1 l ||| r.fl 1 l }) ∧
  (∀ (s : State) (c : Ctl) (rnd : Rnd) (bf : Bool) (dst : BitVec 7) (a b d : Src) (x : FCtx) (p q r : Opnd),
    WellFormed (.hdot2 c rnd bf dst a b d) = true → s.issueF (.hdot2 c rnd bf dst a b d) = .go x →
    x.h2 a bf = .ok p → x.h2 b bf = .ok q → x.f32 d 1 = .ok r →
    let y := fun l => Fmt.fp32.sumProducts rnd [(p.fv 0 l, q.fv 0 l), (p.fv 1 l, q.fv 1 l)] [r.fv 0 l]
    ∃ t, exec (.hdot2 c rnd bf dst a b d) s = .next t ∧
      Computes (.hdot2 c rnd bf dst a b d) x t
        { Result.one .f32 (fun l => BitVec.ofNat 32 (y l).1) with
          flags := fun l => (y l).2 ||| p.fl 0 l ||| p.fl 1 l ||| q.fl 0 l ||| q.fl 1 l })

/-- R158 to R160, R110, R111: the narrowing conversions complete: elements, tags, residues with `.ef`, side bytes of CVT4, flags. R161,
R162: UNP8, UNP4 and UNP2 complete with each element as FP32 in a register of its own, where the tags are what they admit. The flags of F4B
corners are the model's choice (log 25). -/
def Obligations.ConversionResults : Prop :=
  (∀ (s : State) (i : Instr) (x : FCtx) (p : Opnd), WellFormed i = true → s.issueF i = .go x →
    (∀ v, convertOf i = some v → x.f32 (srcA i) v.values = .ok p →
      let y := fun j l => convertOne v.rnd v.f (p.val j l) (x.fr.residOf l (v.k + j)).toNat
      ∃ t, exec i s = .next t ∧
        Computes i x t
          { Result.many (v.values / v.pack) v.tag
              (fun g l => BitVec.ofNat 32 (packElems v.width ((List.range v.pack).map (fun j => (y (v.pack * g + j) l).bits))))
              (fun l => flagUnion ((List.range v.values).map (fun j => (y j l).flags ||| p.fl j l))) with
            resid := fun l e => if v.rnd = .ef ∧ v.k ≤ e ∧ e < v.k + v.values then some (BitVec.ofNat 32 (y (e - v.k) l).resid) else none }) ∧
    (∀ c rnd sat dir pl dst a k, i = .cvt c rnd sat dir pl dst a k → dir.toInt = false →
      let y := fun l => ofInt32 rnd (if dir = .i32ToF32 then (x.raw a 0 l).toInt else ((x.raw a 0 l).toNat : Int))
      ∃ t, exec i s = .next t ∧
        Computes i x t { Result.one .f32 (fun l => BitVec.ofNat 32 (y l).1) with flags := fun l => (y l).2 }) ∧
    (∀ c ef dst a b k, i = .cvt4 c ef dst a b k → x.f32 a 8 = .ok p →
      let y := fun l => cvt4Lane ef ((List.range 8).map (fun j => p.val j l))
        ((List.range 8).map (fun j => (x.fr.residOf l (k.toNat + j)).toNat)) (x.band b l)
      ∃ t, exec i s = .next t ∧
        Computes i x t
          { Result.one .f4b (fun l => BitVec.ofNat 32 (packElems 4 (y l).1.elems)) with
            side := some (fun _ l => BitVec.ofNat 8 (y l).1.side), flags := fun l => (y l).2.2,
            resid := fun l e => if ef = true ∧ k.toNat ≤ e ∧ e < k.toNat + 8 then
              ((y l).2.1[e - k.toNat]?).map (BitVec.ofNat 32) else none })) ∧
  (∀ (s : State) (x : FCtx) (c : Ctl) (dst : BitVec 7) (a b : Src),
    let w := fun (j l : Nat) => widen (Tag.fmt (x.tagOf a 0 (l / 4))) (tagElem (x.tagOf a 0 (l / 4)) (x.raw a 0 l) j)
    let v := fun (j l : Nat) => f4bValue (tagElem .f4b (x.raw a 0 l) j) (x.sideOf a 0 l).toNat (x.band b l)
    let f := fun (j l : Nat) => Fmt.fp32.convert .rne false (v j l).1
    (WellFormed (.unp8 c dst a) = true → s.issueF (.unp8 c dst a) = .go x →
      (∀ k ∈ rodsOf x.act, x.tagOf a 0 k = .e4m3x4 ∨ x.tagOf a 0 k = .e5m2x4) →
      ∃ t, exec (.unp8 c dst a) s = .next t ∧
        Computes (.unp8 c dst a) x t (Result.many 4 .f32 (fun j l => BitVec.ofNat 32 (w j l).1)
          (fun l => flagUnion ((List.range 4).map (fun j => (w j l).2))))) ∧
    (WellFormed (.unp2 c dst a) = true → s.issueF (.unp2 c dst a) = .go x →
      (∀ k ∈ rodsOf x.act, x.tagOf a 0 k = .f16x2 ∨ x.tagOf a 0 k = .bf16x2) →
      ∃ t, exec (.unp2 c dst a) s = .next t ∧
        Computes (.unp2 c dst a) x t (Result.many 2 .f32 (fun j l => BitVec.ofNat 32 (w j l).1)
          (fun l => flagUnion ((List.range 2).map (fun j => (w j l).2))))) ∧
    (WellFormed (.unp4 c dst a b) = true → s.issueF (.unp4 c dst a b) = .go x → (∀ k ∈ rodsOf x.act, x.tagOf a 0 k = .f4b) →
      ∃ t, exec (.unp4 c dst a b) s = .next t ∧
        Computes (.unp4 c dst a b) x t (Result.many 8 .f32 (fun j l => BitVec.ofNat 32 (f j l).1)
          (fun l => flagUnion ((List.range 8).map (fun j => (f j l).2 ||| flagIf (v j l).2))))))

/-- R163 to R165: side bytes, tags and residues are read and written as they are. That SCLWR with WBS = 1 completes and writes no side byte
is the model's reading (log 52). -/
def Obligations.SideTagResidueResults : Prop :=
  ∀ (s : State) (x : FCtx) (c : Ctl) (dst : BitVec 7) (a b : Src),
    (WellFormed (.sclrd c dst a) = true → s.issueF (.sclrd c dst a) = .go x →
      ∃ t, exec (.sclrd c dst a) s = .next t ∧
        Computes (.sclrd c dst a) x t (Result.one .int (fun l => (x.sideOf a 0 l).setWidth 32))) ∧
    (WellFormed (.sclwr c dst a b) = true → s.issueF (.sclwr c dst a b) = .go x →
      ∃ t, exec (.sclwr c dst a b) s = .next t ∧
        Computes (.sclwr c dst a b) x t
          { Result.none with n := 1, keepV := true, side := some (fun _ l => (x.raw b 0 l).setWidth 8) }) ∧
    (WellFormed (.tagrd c dst a) = true → s.issueF (.tagrd c dst a) = .go x →
      ∃ t, exec (.tagrd c dst a) s = .next t ∧
        Computes (.tagrd c dst a) x t (Result.one .int (fun l => BitVec.ofNat 32 (x.tagOf a 0 (l / 4)).code))) ∧
    (∀ tag, WellFormed (.retag c tag dst a) = true → s.issueF (.retag c tag dst a) = .go x →
      ∃ t, exec (.retag c tag dst a) s = .next t ∧ Computes (.retag c tag dst a) x t (Result.one tag (fun l => x.raw a 0 l))) ∧
    (∀ dir k, WellFormed (.efmov c dir dst none k) = true → s.issueF (.efmov c dir dst none k) = .go x →
      ∃ t, exec (.efmov c dir dst none k) s = .next t ∧
        Computes (.efmov c dir dst none k) x t (Result.one .f32 (fun l => x.fr.residOf l k.toNat))) ∧
    (∀ dir k o, WellFormed (.efmov c dir dst (some a) k) = true → s.issueF (.efmov c dir dst (some a) k) = .go x → x.f32 a 1 = .ok o →
      ∃ t, exec (.efmov c dir dst (some a) k) s = .next t ∧
        Computes (.efmov c dir dst (some a) k) x t
          { Result.none with resid := fun l e => if e = k.toNat then some (x.raw a 0 l) else none })

/-- R183, R184, R186: SHFL and BCAST give each active lane A of its source lane, where that lane is valid and active, and its own otherwise;
VOTE gives the ballot and its predicate; MATCH the lanes with an equal value. R114, R115, R185: RED gives every active lane the value of the
tree, and SCAN its running value, each with the flags that formed it. That SHFL and BCAST carry side bytes follows R183 by log 60, and a NaN
leaf of RED and SCAN is read by log 68. -/
def Obligations.LaneResults : Prop :=
  (∀ (s : State) (x : FCtx) (c : Ctl) (dst : BitVec 7) (a b : Src),
    let pick := fun (src : Nat → Option Nat) (l : Nat) => match src l with | some k => if x.act.getLsbD k = true then k else l | none => l
    let moved := fun (src : Nat → Option Nat) =>
      ({ Result.one .int (fun l => x.raw a 0 (pick src l)) with
          tag := fun _ k => movedTag x a k, side := some (fun _ l => x.sideOf a 0 (pick src l)) } : Result)
    (∀ mode, WellFormed (.shfl c mode dst a b) = true → s.issueF (.shfl c mode dst a b) = .go x → oneTag x a →
      ∃ t, exec (.shfl c mode dst a b) s = .next t ∧
        Computes (.shfl c mode dst a b) x t (moved (fun l => laneFrom mode l (x.raw b 0 l).toNat))) ∧
    (WellFormed (.bcast c dst a b) = true → s.issueF (.bcast c dst a b) = .go x → oneTag x a →
      ∃ t, exec (.bcast c dst a b) s = .next t ∧
        Computes (.bcast c dst a b) x t
          (moved (fun _ => match (lanesOf x.act).head? with | some l => some ((x.raw b 0 l).toNat % 32) | none => none))) ∧
    (∀ mode pd px nx, WellFormed (.vote c mode dst pd px nx) = true → s.issueF (.vote c mode dst pd px nx) = .go x →
      let yes := (lanesOf x.act).filter (fun l => x.fr.pred l px.toNat ^^ nx)
      ∃ t, exec (.vote c mode dst pd px nx) s = .next t ∧
        Computes (.vote c mode dst pd px nx) x t
          { Result.one .int (fun _ => maskOf yes) with pred := some (fun _ => match mode with
              | .any | .ballot => !yes.isEmpty
              | .all => decide (yes = lanesOf x.act)
              | .eq => yes.isEmpty || decide (yes = lanesOf x.act)) }) ∧
    (WellFormed (.matchv c dst a) = true → s.issueF (.matchv c dst a) = .go x →
      ∃ t, exec (.matchv c dst a) s = .next t ∧
        Computes (.matchv c dst a) x t
          (Result.one .int (fun l => maskOf ((lanesOf x.act).filter (fun k => decide (x.raw a 0 k = x.raw a 0 l))))))) ∧
  (∀ (s : State) (x : FCtx) (c : Ctl) (op : Lop) (ty : LTy) (dst : BitVec 7) (a : Src) (v : Nat → Word32), x.laneVals a ty = .ok v →
    (WellFormed (.red c op ty dst a) = true → s.issueF (.red c op ty dst a) = .go x →
      let leaves := (List.range 32).map (fun l => if x.act.getLsbD l = true then some (v l) else none)
      ∃ t, exec (.red c op ty dst a) s = .next t ∧
        Computes (.red c op ty dst a) x t
          { Result.one (if ty = .f32 then .f32 else .int) (fun _ => redValue op ty leaves) with flags := fun _ => (redTree op ty leaves).2 }) ∧
    (∀ excl, WellFormed (.scan c op ty excl dst a) = true → s.issueF (.scan c op ty excl dst a) = .go x →
      let run := fun l => running op ty ((lanesOf x.act).filter (fun k => if excl then decide (k < l) else decide (k ≤ l)) |>.map v)
      ∃ t, exec (.scan c op ty excl dst a) s = .next t ∧
        Computes (.scan c op ty excl dst a) x t
          { Result.one (if ty = .f32 then .f32 else .int) (fun l => (run l).1) with flags := fun l => (run l).2 }))

/-- R76, R89, R120, R137, R141, R152, R161, R183, R185: an instruction one of whose sources A, B and C has a tag that it does not admit, or
is mapped and cannot be, takes that source's fault, and nothing of the instruction takes effect. A register, with or without NEG and ABS and
in any plane, or a latch whose tag in a rod with an active lane is another than the one admitted gives FMTTAG; a mapped source gives
MAPUNBOUND where its slot is not bound, and FMTTAG where its slot or its count of planes does not admit its tag. That SEL raises a mapped
source's own fault before the FMTTAG of sources without a common tag is the model's choice (log 80). The order of SEL's faults is the
model's choice (log 80). -/
def Obligations.SourceFaults : Prop :=
  (∀ (s : State) (i : Instr) (x : FCtx) (e : Code), s.issueF i = .go x → sourceFault x i = some e →
    exec i s = .next (s.raise x.core x.f x.sp.id x.sp.pc e 0)) ∧
  ∀ (x : FCtx) (na ab : Bool),
    (∀ (r : BitVec 7) (n : Nat), (∃ j < n, ∃ k ∈ rodsOf x.act, x.fr.tagOf k (r.toNat + j) ≠ .f32) → x.f32 (.reg r none na ab) n = .error .fmttag) ∧
    (∀ (r : BitVec 7) (bf : Bool), (∃ k ∈ rodsOf x.act, x.fr.tagOf k r.toNat ≠ if bf then .bf16x2 else .f16x2) →
      x.h2 (.reg r none na ab) bf = .error .fmttag) ∧
    (∀ m n, (∃ k ∈ rodsOf x.act, x.tagOf (.latch m na ab) 0 k ≠ .f32) → x.f32 (.latch m na ab) n = .error .fmttag) ∧
    (∀ m (bf : Bool), (∃ k ∈ rodsOf x.act, x.tagOf (.latch m na ab) 0 k ≠ if bf then .bf16x2 else .f16x2) →
      x.h2 (.latch m na ab) bf = .error .fmttag) ∧
    (∀ (r : BitVec 7) k n, x.act ≠ 0#32 → (x.w.slot (x.f % 4) k.toNat).binding ≠ .bound →
      x.f32 (.reg r (some k) na ab) n = .error .mapunbound ∧ ∀ bf, x.h2 (.reg r (some k) na ab) bf = .error .mapunbound) ∧
    (∀ (r : BitVec 7) k n, x.act ≠ 0#32 → (x.w.slot (x.f % 4) k.toNat).binding = .bound →
      (∃ m ∈ rodsOf (if (x.w.slot (x.f % 4) k.toNat).full then x.fr.live else x.act),
        slotAdmits (x.w.slot (x.f % 4) k.toNat).fmt (x.fr.tagOf m r.toNat) = false ∨ (x.fr.tagOf m r.toNat).planes ≠ n) →
      x.f32 (.reg r (some k) na ab) n = .error .fmttag) ∧
    (∀ (r : BitVec 7) k (bf : Bool), x.act ≠ 0#32 → (x.w.slot (x.f % 4) k.toNat).binding = .bound →
      (∃ m ∈ rodsOf (if (x.w.slot (x.f % 4) k.toNat).full then x.fr.live else x.act), x.fr.tagOf m r.toNat ≠ if bf then .bf16x2 else .f16x2) →
      x.h2 (.reg r (some k) na ab) bf = .error .fmttag)

/-! ### Memory -/

/-- R202, R203, R309, R310, R313, R315, R425: the loads retire and leave a request for their registers. LDL, LDG and LDRO have read their
bytes; LDM, LDH and LDX have sent one access for each lane. LDL switches off the lanes whose offset it may not access (R88), and where the
frame can then gather no more, it faults REGANG (R81). When an access is performed is the model's choice (log 19). -/
def Obligations.LoadIssue : Prop :=
  ∀ (s : State) (x : FCtx) (c : Ctl) (w : Width) (sx : Bool) (pol : BitVec 2) (tag : Tag) (dst : BitVec 7) (a b : Src) (disp : Word32),
    (let i := Instr.ldl c w sx pol tag dst a disp
      let ls := goodLanes x a disp w.bytes
      let at_ := fun l => (offOf x a disp l).toNat;
      WellFormed i = true → s.issueF i = .go x →
        ∃ t, exec i s = .next (t.gatherFails x.core x.f) ∧
          MemWent x t (sent x i w.bytes (ls.map at_) (maskOf ls) { x.s with ids := x.s.ids + 1 }) x.w.slice x.w.reqs (x.act &&& ~~~maskOf ls)
            (some { loads x i w sx tag dst (ls.map at_) 5 (maskOf ls) with
              addrs := ls.map (fun l => (l, at_ l)), got := ls.map (fun l => (l, Tab.readLE x.w.slice (at_ l) w.bytes)) })) ∧
    (∀ own, let i := if own = true then Instr.ldg c w sx pol tag dst a b disp else Instr.ldro c w sx pol tag dst a b disp
      let g := devAddr x a b w.bytes disp
      let path := if own = true then 0 else 1
      ∀ ps, WellFormed i = true → s.issueF i = .go x → x.check [path] w.bytes g false true false plainVmode = .ok ps →
        ∃ t, exec i s = .next t ∧
          MemWent x t (sent x i w.bytes (atOf x g) x.act { x.s with ids := x.s.ids + 1 }) x.w.slice x.w.reqs 0#32
            (some { loads x i w sx tag dst (atOf x g) path x.act with
              got := ps.map (fun p => (p.1, bytesToNat (x.s.dev.loadBytes (if own = true then some x.w.phase.tag else none)
                (if p.2.2.1.vmode = 1 then none else some x.w.phase.s) p.2.2.2 w.bytes)))
              addrs := (ps.filter (fun p => decide (p.2.2.1.vmode = 1))).map (fun p => (p.1, p.2.2.2))
              inp := ps.any (fun p => decide (p.2.2.1.vmode = 1)) })) ∧
    (let i := Instr.ldm c w sx pol tag dst a disp
      let g := farAddr x a disp;
      WellFormed i = true → s.issueF i = .go x → x.meshFault ((lanesOf x.act).map (fun l => (l, g l))) = none →
        ∃ t, exec i s = .next t ∧
          MemWent x t (sent x i w.bytes (atOf x g) x.act (meshed x w.bytes g none false (fun _ => 0) (fun _ => 0))) x.w.slice x.w.reqs 0#32
            (some { loads x i w sx tag dst (atOf x g) 4 x.act with addrs := (lanesOf x.act).map (fun l => (l, (g l).toNat)), inp := true })) ∧
    (let i := Instr.ldh c w sx pol tag dst a disp
      let g := farAddr x a disp;
      WellFormed i = true → s.issueF i = .go x → x.hostCheck w.bytes false ((lanesOf x.act).map (fun l => (l, g l))) = none →
        ∃ t, exec i s = .next t ∧
          MemWent x t (sent x i w.bytes (atOf x g) x.act (hosted x g (fun _ => none))) x.w.slice x.w.reqs 0#32
            (some { loads x i w sx tag dst (atOf x g) 12 x.act with
              addrs := (lanesOf x.act).map (fun l => (l, bitsOf (g l).toNat 0 57)), inp := true })) ∧
    (let i := Instr.ldx c w sx pol tag dst a disp
      let g := farAddr x a disp
      ∀ ps, WellFormed i = true → s.issueF i = .go x → x.check [8] w.bytes g false true false plainVmode = .ok ps →
        ∃ t, exec i s = .next t ∧
          MemWent x t (sent x i w.bytes (atOf x g) x.act (peered x w.bytes ps (fun _ => none))) x.w.slice x.w.reqs 0#32
            (some { loads x i w sx tag dst (atOf x g) 8 x.act with addrs := ps.map (fun p => (p.1, p.2.1 * 2 ^ 48 + p.2.2.2)) }))

/-- R203, R310, R312, R316: STL writes the slice as it issues, lane by lane, and STG the version of the core's open phase; PREF changes
nothing that software sees. R313, R315, R425: STM, STH and STX send their bytes, and hold a request until each lane's store is acknowledged.
When an access is performed is the model's choice (log 19). -/
def Obligations.StoreResults : Prop :=
  (∀ (s : State) (x : FCtx) (c : Ctl) (w : Width) (pol : BitVec 2) (a b d : Src) (disp : Word32),
    (let i := Instr.stl c w pol a b disp
      let ls := goodLanes x a disp w.bytes
      let at_ := fun l => (offOf x a disp l).toNat;
      WellFormed i = true → s.issueF i = .go x →
        ∃ t, exec i s = .next (t.gatherFails x.core x.f) ∧
          MemWent x t (sampled x i w.bytes (ls.map at_) x.s) (ls.foldl (fun m l => storeBytes m (at_ l) (bytesOf x b w.bytes l)) x.w.slice)
            (x.w.stored x.f w.bytes (ls.map (fun l => (l, slicePlace x.core (at_ l))))).reqs (x.act &&& ~~~maskOf ls) none) ∧
    (let i := Instr.stg c w pol a b d disp
      let g := devAddr x a b w.bytes disp
      ∀ ps, WellFormed i = true → s.issueF i = .go x → x.check [0] w.bytes g true false true plainVmode = .ok ps → x.s.relief = none →
        ∃ t, exec i s = .next t ∧
          MemWent x t
            (sampled x i w.bytes (atOf x g)
              { x.s with dev := ps.foldl (fun m p => DevMem.put m (.phase x.w.phase.tag) p.2.2.2 (bytesOf x d w.bytes p.1)) x.s.dev })
            x.w.slice (x.w.stored x.f w.bytes (ps.map (fun p => (p.1, p.2.2.2)))).reqs 0#32 none) ∧
    (let i := Instr.pref c pol a b disp;
      WellFormed i = true → s.issueF i = .go x →
        ∃ t, exec i s = .next t ∧ MemWent x t (sampled x i 1 (atOf x (devAddr x a b 1 disp)) x.s) x.w.slice x.w.reqs 0#32 none)) ∧
  (∀ (s : State) (x : FCtx) (c : Ctl) (w : Width) (pol : BitVec 2) (a b : Src) (disp : Word32),
    let g := farAddr x a disp
    (let i := Instr.stm c w pol a b disp;
      WellFormed i = true → s.issueF i = .go x → x.meshFault ((lanesOf x.act).map (fun l => (l, g l))) = none →
        ∃ t, exec i s = .next t ∧
          MemWent x t (sent x i w.bytes (atOf x g) x.act (meshed x w.bytes g none true (fun l => bytesToNat (bytesOf x b w.bytes l)) (fun _ => 0)))
            x.w.slice (x.w.stored x.f w.bytes (meshPlaces ((lanesOf x.act).map (fun l => (l, g l))))).reqs 0#32
            (some (asks x i w.bytes (atOf x g) (.store 4) x.act))) ∧
    (let i := Instr.sth c w pol a b disp;
      WellFormed i = true → s.issueF i = .go x → x.hostCheck w.bytes true ((lanesOf x.act).map (fun l => (l, g l))) = none →
        ∃ t, exec i s = .next t ∧
          MemWent x t (sent x i w.bytes (atOf x g) x.act (hosted x g (fun l => some (bytesOf x b w.bytes l)))) x.w.slice x.w.reqs 0#32
            (some (asks x i w.bytes (atOf x g) (.store 12) x.act))) ∧
    (let i := Instr.stx c w pol a b disp
      ∀ ps, WellFormed i = true → s.issueF i = .go x → x.check [8] w.bytes g true false true plainVmode = .ok ps →
        ∃ t, exec i s = .next t ∧
          MemWent x t (sent x i w.bytes (atOf x g) x.act (peered x w.bytes ps (fun l => some (bytesOf x b w.bytes l)))) x.w.slice x.w.reqs 0#32
            (some (asks x i w.bytes (atOf x g) (.store 8) x.act))))

/-- R204, R313: ATOML performs its lanes in increasing order on the slice, and ATOMM sends them over the mesh; the old values are still to
land. R204, R277, R278: what an integer atomic writes, and that it raises no flag: ADD wraps, MIN and MAX by the type's sign, AND, OR and
XOR, EXCH writes the operand, CAS writes it where the old value equals the compare value. When an access is performed is the model's choice
(log 19). -/
def Obligations.AtomicResults : Prop :=
  (∀ (s : State) (x : FCtx) (c : Ctl) (op : AOp) (ty : ATy) (dst : BitVec 7) (a b : Src) (d : Option Src) (disp : Word32),
    let opnd := fun (y : Src) l => if ty.bytes = 8 then (x.raw64 true y l).toNat else (x.raw y 0 l).toNat
    (let i := Instr.atoml c op ty dst a b d disp
      let ls := goodLanes x a disp ty.bytes
      let at_ := fun l => (offOf x a disp l).toNat
      let one := fun (m : Tab Byte) l => atomApply op ty (Tab.readLE m (at_ l) ty.bytes) (opnd b l) (opnd (d.getD noSrc) l)
      let run := ls.foldl (fun (r : Tab Byte × List (Nat × Nat) × List (Nat × Flags)) l =>
        ((match (one r.1 l).1 with | some v => storeBytes r.1 (at_ l) (natToBytes ty.bytes v) | none => r.1),
          r.2.1 ++ [(l, Tab.readLE r.1 (at_ l) ty.bytes)], r.2.2 ++ [(l, (one r.1 l).2)])) (x.w.slice, [], []);
      WellFormed i = true → s.issueF i = .go x →
        ∃ t, exec i s = .next (t.gatherFails x.core x.f) ∧
          MemWent x t (sent x i ty.bytes (ls.map at_) (maskOf ls) { x.s with ids := x.s.ids + 1 }) run.1
            (x.w.stored x.f ty.bytes (ls.map (fun l => (l, slicePlace x.core (at_ l))))).reqs (x.act &&& ~~~maskOf ls)
            (some { asks x i ty.bytes (ls.map at_) (.atom ty.isFloat 5) (maskOf ls) with
              tag := atomTag ty, dst := dst.toNat, nregs := ty.regs, got := run.2.1, flags := run.2.2 })) ∧
    (let i := Instr.atomm c op ty dst a b d disp
      let g := farAddr x a disp;
      WellFormed i = true → s.issueF i = .go x → x.meshFault ((lanesOf x.act).map (fun l => (l, g l))) = none →
        ∃ t, exec i s = .next t ∧
          MemWent x t (sent x i ty.bytes (atOf x g) x.act (meshed x ty.bytes g (some (op, ty)) false (opnd b) (opnd (d.getD noSrc)))) x.w.slice
            (x.w.stored x.f ty.bytes (meshPlaces ((lanesOf x.act).map (fun l => (l, g l))))).reqs 0#32
            (some { asks x i ty.bytes (atOf x g) (.atom ty.isFloat 4) x.act with
              tag := atomTag ty, dst := dst.toNat, nregs := ty.regs, inp := true }))) ∧
  (∀ (ty : ATy) (old b c : Nat), ty.isFloat = false → old < 256 ^ ty.bytes → b < 256 ^ ty.bytes →
    let v := fun (n : Nat) => match ty with | .i32 => (BitVec.ofNat 32 n).toInt | .i64 => (BitVec.ofNat 64 n).toInt | _ => (n : Int)
    atomApply .add ty old b c = (some ((old + b) % 256 ^ ty.bytes), flagNone) ∧
    (v old ≤ v b → atomApply .min ty old b c = (some old, flagNone) ∧ atomApply .max ty old b c = (some b, flagNone)) ∧
    (v b ≤ v old → atomApply .min ty old b c = (some b, flagNone) ∧ atomApply .max ty old b c = (some old, flagNone)) ∧
    atomApply .and ty old b c = (some (Nat.land old b), flagNone) ∧ atomApply .or ty old b c = (some (Nat.lor old b), flagNone) ∧
    atomApply .xor ty old b c = (some (Nat.xor old b), flagNone) ∧ atomApply .exch ty old b c = (some b, flagNone) ∧
    (old = c → atomApply .cas ty old b c = (some b, flagNone)) ∧ (old ≠ c → atomApply .cas ty old b c = (none, flagNone)))

/-- R273, R276 to R280, R284, R286: the class 0xB instructions that do not block send one request for each lane to the home of its granule,
and leave a request for what they return. R286, R287: BPUT, BTAKE and BINIT send their requests and block their split at its address; they
retire once every lane has its answer, and at once where no lane is active. -/
def Obligations.ServiceIssue : Prop :=
  (∀ (s : State) (x : FCtx) (c : Ctl) (op : AOp) (ty : ATy) (dst : BitVec 7) (pd : BitVec 3) (a b d : Src) (disp : Word32)
    (ps : List (Nat × Nat × PageEnt × Nat)),
    let g := farAddr x a disp
    let opnd := fun (y : Src) l => if ty.bytes = 8 then (x.raw64 true y l).toNat else (x.raw y 0 l).toNat
    let goes := fun (i : Instr) (n : Nat) (fl : Bool) (op : Nat → SOp) (r : Req) =>
      let rs := match i with
        | .abtst8 .. | .bpeek .. => x.w.reqs
        | _ => (x.w.stored x.f n ((ps.filter (fun p => decide (p.2.1 = x.s.pkg))).map (fun p => (p.1, p.2.2.2)))).reqs
      ∃ t u, exec i s = .next t ∧ Homed x (homeReqs x ps fl op) u ∧ MemWent x t (sent x i n (atOf x g) x.act u) x.w.slice rs 0#32 (some r)
    (let i := Instr.atom c op ty dst a b disp;
      WellFormed i = true → s.issueF i = .go x → x.check [0, 8] ty.bytes g true true true plainVmode = .ok ps →
        goes i ty.bytes false (fun l => .atom op ty (opnd b l))
          { asks x i ty.bytes (atOf x g) (.service ty.isFloat true false) x.act with tag := atomTag ty, dst := dst.toNat, nregs := ty.regs }) ∧
    (let i := Instr.atomc c ty dst a b d disp;
      WellFormed i = true → s.issueF i = .go x → x.check [0, 8] ty.bytes g true true true plainVmode = .ok ps →
        goes i ty.bytes false (fun l => .cas ty (opnd b l) (opnd d l))
          { asks x i ty.bytes (atOf x g) (.service false true false) x.act with tag := atomTag ty, dst := dst.toNat, nregs := ty.regs }) ∧
    (let i := Instr.atomn c op ty a b disp;
      WellFormed i = true → s.issueF i = .go x → x.check [0, 8] ty.bytes g true true true plainVmode = .ok ps →
        goes i ty.bytes true (fun l => .atom op ty (opnd b l)) (asks x i ty.bytes (atOf x g) (.service false false false) x.act)) ∧
    (let i := Instr.abset8 c a b disp;
      WellFormed i = true → s.issueF i = .go x → x.check [0, 8] 32 g true true true plainVmode = .ok ps →
        goes i 32 false (fun l => .abset (x.raw64 true b l).toNat) (asks x i 32 (atOf x g) (.service false false false) x.act)) ∧
    (let i := Instr.abtst8 c dst a b disp;
      WellFormed i = true → s.issueF i = .go x → x.check [0, 8] 32 g false true false plainVmode = .ok ps →
        goes i 32 false (fun l => .abtst (x.raw64 true b l).toNat)
          { asks x i 32 (atOf x g) (.service false true false) x.act with dst := dst.toNat, nregs := 1, size := 4 }) ∧
    (let i := Instr.bpeek c dst pd a disp;
      WellFormed i = true → s.issueF i = .go x → x.check [0, 8] 8 g false true false beadVmode = .ok ps →
        goes i 8 false (fun _ => .bpeek)
          { asks x i 8 (atOf x g) (.service false true true) x.act with dst := dst.toNat, nregs := 2, pd := pd.toNat })) ∧
  (∀ (s : State) (x : FCtx) (i : Instr) (a : Src) (disp : Word32) (ret : Bool) (dst : Nat) (op : Nat → SOp),
    ((∃ c b, i = .bput c a b disp ∧ ret = false ∧ dst = 0 ∧ op = fun l => SOp.bput (x.raw64 true b l)) ∨
      (∃ c d, i = .btake c d a disp ∧ ret = true ∧ dst = d.toNat ∧ op = fun _ => SOp.btake) ∨
      (∃ c up b, i = .binit c up a b disp ∧ ret = false ∧ dst = 0 ∧ op = fun l => SOp.binit up (x.raw64 true b l))) →
    WellFormed i = true → s.issueF i = .go x →
    ((∀ n, x.sp.st ≠ .resumed n) → x.act = 0#32 → ∃ t, exec i s = .next t ∧ MemWent x t x.s x.w.slice x.w.reqs 0#32 none) ∧
    (∀ ps, (∀ n, x.sp.st ≠ .resumed n) → x.act ≠ 0#32 → x.check [0, 8] 8 (farAddr x a disp) true true true beadVmode = .ok ps →
      ∃ t u, exec i s = .next t ∧ Homed x (homeReqs x ps false op) u ∧
        t = (counted x u).setCore x.core
          (({ x.w with reqs := x.w.reqs ++ [{ asks x i 8 (atOf x (farAddr x a disp)) (.service false ret true) x.act with
                                                dst := dst, nregs := if ret then 2 else 0 }] } : Wg).setFrame x.f
            (x.fr.setSplit { x.sp with st := .blocked x.s.ids }))) ∧
    (∀ n, x.sp.st = .resumed n → ∃ t fr, exec i s = .next t ∧ Retired x t fr ∧ Has Result.none x.act x.c.wbs 0 7 x.fr fr ∧
      Went x fr (x.sp.pc + 16#64) (fun ch => ch = none)))

/-- R276, R308, R309, R313, R315, R319, R320, R425: an access whose address names no path, another path, a field that is not zero or a
misaligned byte faults ADDR, PATH, ADDR or ALIGN, in this order over all its lanes, before any lane's access. Then an access over the mesh
to a workgroup of another partition faults PERM, and one to the host that the IOMMU does not translate or permit XLATE or PERM. A device or
peer access faults ADDR where it names the own package or one without a port, XLATE where a walk for it has found no page, PERM by the
partition key or the W bit, and ATOMTYPE or BEADPAGE by the page's VMODE. -/
def Obligations.AddressFaults : Prop :=
  ∀ (s : State) (x : FCtx) (i : Instr) (paths : List Nat) (n : Nat) (g : Nat → Word64) (modify bead : Bool),
    accessOf x i = some (paths, n, g, modify, bead) → s.issueF i = .go x → (∀ k, x.sp.st ≠ .resumed k) →
    let as := (lanesOf x.act).map g
    let nib := fun (y : Word64) => y.toNat / 2 ^ 60
    let bad := fun e => exec i s = .next (s.raise x.core x.f x.sp.id x.sp.pc e 0)
    let fit := ∀ y ∈ as, pathOf y ≠ none ∧ nib y ∈ paths ∧ fieldsOk y = true ∧ y.toNat % n = 0
    ((∃ y ∈ as, pathOf y = none) → bad .addr) ∧
    ((∀ y ∈ as, pathOf y ≠ none) → (∃ y ∈ as, nib y ∉ paths) → bad .path) ∧
    ((∀ y ∈ as, pathOf y ≠ none ∧ nib y ∈ paths) → (∃ y ∈ as, fieldsOk y = false) → bad .addr) ∧
    ((∀ y ∈ as, pathOf y ≠ none ∧ nib y ∈ paths ∧ fieldsOk y = true) → (∃ y ∈ as, y.toNat % n ≠ 0) → bad .align) ∧
    (paths = [4] → fit → (∃ y ∈ as, x.s.meshPerm x.ptop (meshCore y) = true) → bad .perm) ∧
    (let host := fun (y : Word64) => s.hostPage x.ctxNo (y.toNat % 2 ^ 57);
      paths = [12] → fit → ((∃ y ∈ as, host y = 0) → bad .xlate) ∧
        ((∀ y ∈ as, host y ≠ 0) → (∃ y ∈ as, host y = 1 ∨ (modify = true ∧ host y = 2)) → bad .perm)) ∧
    (let pkg := fun (y : Word64) => if nib y = 8 then y.toNat / 2 ^ 48 % 2 ^ 8 else s.pkg
      let lost := fun (y : Word64) => nib y = 8 ∧ (pkg y = s.pkg ∨ ∀ e ∈ s.fabric, e.1 ≠ pkg y)
      let page := fun (y : Word64) => s.tlbFind x.core x.ctxNo (pkg y) (y.toNat % 2 ^ 48)
      let found := s.translatePkgs ⟨x.core, x.w.grid, x.w.idx, x.f, x.sp.pc.toNat⟩ x.ctxNo (as.map (fun y => (pkg y, y.toNat % 2 ^ 48))) (sortNat (as.map pkg))
      let barred := fun (p : PageEnt) => (x.system = false ∧ p.pkey ≠ x.ptop) ∨ (modify = true ∧ p.wr = false);
      paths ≠ [4] → paths ≠ [12] → fit →
        ((∃ y ∈ as, lost y) → bad .addr) ∧
        (∀ u, (∀ y ∈ as, ¬lost y) → found = .fault u → exec i s = .next (u.raise x.core x.f x.sp.id x.sp.pc .xlate 0)) ∧
        (∀ ps, (∀ y ∈ as, ¬lost y) → found = .hit ps →
          ((∃ y ∈ as, ∃ p, page y = some p ∧ barred p) → bad .perm) ∧
          ((∀ y ∈ as, ∀ p, page y = some p → ¬barred p) → (∃ y ∈ as, ∃ p, page y = some p ∧ (p.vmode = 2 ↔ bead = false)) →
            bad (if bead then .beadpage else .atomtype))))

/-- R313 to R316, R425: an access that arrives is performed for its lane: over the mesh, behind those of its core to the same core and those
of its lane to the same target, on the slice of the workgroup that held the target core, as its image has it where CSAVE holds that, or
switched off (where that workgroup has ended since, by log 83), and a compare that fails writes nothing; a host write on host memory; a peer
read or store on the peer's memory, in the core's open phase, where the read sees the core's own bytes whose commits have not arrived too;
with no port it ends with STORAGE (R429). A store of another package enters its own open phase, and its request goes to the home's queue
(R428), where a port of it is ready (R424); its bead request that is not performed can be withdrawn (R288), at the home of another package
without a port of this one. R273, R278, R281, R284, R286, R287: the request at the head of a home's queue is performed on the newest
committed bytes, with a stamp of its own where it writes; a bead operation that the bead's state does not admit joins the waiters, or is
returned as the 65th and comes back 64 cycles later; one that is performed lets the oldest waiter that its new state admits be performed
next, and so on. A home on a failed die, or that no port leads to, ends the request with STORAGE (R331, R429). A request that waits for its
place in a replay (R412) lets the next one pass that need not follow it (R273, R278): that is the model's choice (log 87). When an access is
performed is the model's choice (log 19), and a remote home is the default one (log 5). -/
def Obligations.RequestsPerformed : Prop :=
  ((∀ (s : State) (r : MeshReq) (rest : List MeshReq), s.mesh = r :: rest → (∀ q ∈ rest, q.id ≠ r.id) →
    let at_ := ({ s with mesh := rest } : State).synced r.grid r.wg
    let ack := fun (u : State) (v : Nat) (off : Bool) (f : Flags) => { u with ids := s.ids + 1, acks := s.acks ++ [(s.ids, ⟨r.src, v, off, f⟩)] }
    (r.held = false ∨ at_.wg? r.grid r.wg = none ∨ (∃ w, at_.wg? r.grid r.wg = some w ∧ s.oos.contains r.tcore = true ∧ w.core = r.tcore ∧ w.halt = false) → exec (.meshAccessArrive r.id) s = .next (ack at_ 0 true flagNone)) ∧
    (∀ w, r.held = true → at_.wg? r.grid r.wg = some w → ¬(s.oos.contains r.tcore = true ∧ w.core = r.tcore ∧ w.halt = false) →
      let ok := decide (0 ≤ r.off ∧ r.off + r.size ≤ w.code.extent ∧ r.off % (min r.size 16 : Nat) = 0)
      let old := Tab.readLE w.slice r.off.toNat
      let wrote := fun (v : List Byte) => at_.setWg { w with slice := storeBytes w.slice r.off.toNat v }
      (ok = false → exec (.meshAccessArrive r.id) s = .next (ack at_ 0 true flagNone)) ∧
      (ok = true → r.op = none → r.store = true →
        exec (.meshAccessArrive r.id) s = .next (ack (wrote (natToBytes r.size r.b)) 0 false flagNone)) ∧
      (ok = true → r.op = none → r.store = false →
        exec (.meshAccessArrive r.id) s = .next (ack at_ (old r.size) false flagNone)) ∧
      (∀ op ty v f, ok = true → r.op = some (op, ty) → atomApply op ty (old ty.bytes) r.b r.c = (some v, f) →
        exec (.meshAccessArrive r.id) s = .next (ack (wrote (natToBytes ty.bytes v)) (old ty.bytes) false f)) ∧
      (∀ op ty f, ok = true → r.op = some (op, ty) → atomApply op ty (old ty.bytes) r.b r.c = (none, f) →
        exec (.meshAccessArrive r.id) s = .next (ack (at_.setWg w) (old ty.bytes) false f)))) ∧
  (∀ (s : State) (pre post : List MeshReq) (q r : MeshReq), s.mesh = pre ++ r :: post → q ∈ pre → (∀ k ∈ pre, k.id ≠ r.id) →
    (q.score = r.score ∧ q.tcore = r.tcore) ∨ (∃ g i m n l w a b, q.src = .lane g i m l ∧ r.src = .lane g i n l ∧ s.wg? g i = some w ∧
      w.req? m = some a ∧ w.req? n = some b ∧ a.frame = b.frame ∧
      (q.tcore = r.tcore ∨ (q.held = true ∧ r.held = true ∧ q.grid = r.grid ∧ q.wg = r.wg))) →
    exec (.meshAccessArrive r.id) s = .next s) ∧
  (∀ (s : State) (g i : Nat), ((∀ p ∈ s.held, p.2.is g i = false) → s.synced g i = s) ∧
    (∀ pa v, s.held.find? (fun p => p.2.is g i) = some (pa, v) → (∀ p ∈ s.live, p.2.is g i = false) → (∀ u ∈ s.parked, u.is g i = false) →
      ∃ w, (s.synced g i).wg? g i = some w ∧ w = { v with frames := w.frames, slots := w.slots, slice := w.slice } ∧
        ∀ k, k < v.code.extent → Tab.get 0#8 w.slice k = s.dev.byteAt none (pa + v.offsets.getD 7 0 + k))) ∧
  (∀ (s : State) (r : HostReq) (rest : List HostReq) (bs : List Byte) (g i req lane : Nat) (w : Wg), s.hostq = r :: rest →
    (∀ q ∈ rest, q.id ≠ r.id) → r.data = some bs → r.src = .lane g i req lane → s.wg? g i = some w →
    exec (.hostWriteAccept r.id) s =
      .next ({ s with hostq := rest, hostMem := storeBytes s.hostMem (hostKey r.ctx r.iova) bs }.answered w req lane (fun r => r))) ∧
  (∀ (s : State) (r : PeerReq) (rest : List PeerReq) (g i req lane : Nat) (w : Wg), s.peerq = r :: rest → (∀ q ∈ rest, q.id ≠ r.id) →
    s.pkgLive r.pkg = true → r.src = .lane g i req lane → s.wg? g i = some w →
    (r.data = none → exec (.peerAccessArrive (.ours r.id)) s = .next (({ s with peerq := rest } : State).setWg (w.updReq req (fun q =>
      { q with got := q.got ++ [(lane, bytesToNat ((List.range r.size).map (fun j =>
        ((w.phase.tag :: s.unacked w r.pkg).findSome? (fun t => (s.memOf r.pkg).ownByte t (r.pa + j))).getD
          ((s.memOf r.pkg).byteAt none (r.pa + j)))))] })))) ∧
    (∀ t, t ∈ s.unacked w r.pkg ↔ ∃ k ∈ s.peerCms, k.tag = t ∧ k.pkg = r.pkg ∧ k.tr = none ∧
      (k.core = w.core ∨ (k.grid = w.grid ∧ k.wg = w.idx))) ∧
    (∀ bs, r.data = some bs → exec (.peerAccessArrive (.ours r.id)) s =
      .next ((({ s with peerq := rest } : State).setMemOf r.pkg ((s.memOf r.pkg).put (.phase w.phase.tag) r.pa bs)).answered w req lane (fun q => q)))) ∧
  (∀ (s : State) (r : PeerReq) (rest : List PeerReq), s.peerq = r :: rest → (∀ q ∈ rest, q.id ≠ r.id) → s.pkgLive r.pkg = false →
    exec (.peerAccessArrive (.ours r.id)) s = .next (({ s with peerq := rest } : State).failLane r.src 32)) ∧
  (∀ (s : State) (src pkg tag pa n val : Nat),
    (src ≠ s.pkg → pa + n ≤ 2 ^ 42 → (pkg = s.pkg → s.pkgLive src = true ∧ s.poolStalls (.peer src tag) [pa] = false) →
      exec (.peerAccessArrive (.theirs (.store src pkg tag pa n val))) s =
        .next (s.setMemOf pkg ((s.memOf pkg).put (.peer src tag) pa (natToBytes n val)))) ∧
    (pkg = s.pkg → s.pkgLive src = false ∨ s.poolStalls (.peer src tag) [pa] = true →
      exec (.peerAccessArrive (.theirs (.store src pkg tag pa n val))) s = .next s)) ∧
  (∀ (s : State) (src id : Nat),
    let named := fun (r : SReq) => r.id = id ∧ r.src = .peer src ∧ opIsBead r.op = true ∧ (r.pkg = s.pkg → s.pkgLive src = true)
    ∃ t, exec (.peerAccessArrive (.theirs (.withdraw src id))) s = .next t ∧
      t = { s with svcQ := t.svcQ, waits := s.waits.filter (fun k => decide (¬named k.req)), returned := s.returned.filter (fun r => decide (¬named r)) } ∧
      (∀ k l, (k, some l) ∈ t.svcQ → ∀ r ∈ l, ¬named r) ∧
      ∀ k l r, (k, some l) ∈ s.svcQ → r ∈ l → ¬named r → ∃ l', (k, some l') ∈ t.svcQ ∧ r ∈ l') ∧
  (∀ (s : State) (src pkg pa ptop : Nat) (fl : Bool) (op : SOp), src ≠ s.pkg → pa < 2 ^ 42 → (pkg = s.pkg → s.pkgLive src = true) →
    let k := homeKey pkg (s.homeOf pkg pa)
    exec (.peerAccessArrive (.theirs (.request src pkg pa ptop fl op))) s =
      .next { s with ids := s.ids + 1, svcQ := Assoc.put s.svcQ k ((Assoc.at s.svcQ k).getD [] ++
        [⟨s.ids, .peer src, 0, pkg, pa, op, ptop % 16, fl, s.tick⟩]) })) ∧
  ((∀ (s : State) (home : Nat) (r : SReq) (rest : List SReq), Assoc.at s.svcQ home = some (r :: rest) → s.homeDead r.pkg r.pa = false →
    s.reachable r = true → s.mayServe r = true →
    let m := s.memOf r.pkg
    let st := ((s.takeStampOf r.pkg (s.homeOf r.pkg r.pa / 24)).1)
    let answers := fun (old : Nat) (p : Bool) (f : Flags) (m' : DevMem) => ∃ t, exec (.serviceRequest home) s = .next t ∧
      (Assoc.at t.svcQ home).getD [] = rest ∧ t.memOf r.pkg = m' ∧ ∃ n, t.replies = s.replies ++ [(n, ⟨r.src, r.pkg, old, p, f, 0⟩)]
    (∀ op ty b v f, r.op = .atom op ty b → atomApply op ty (m.newestLE r.pa ty.bytes) b 0 = (some v, f) →
      answers (m.newestLE r.pa ty.bytes) false f (m.put (.committed st) r.pa (natToBytes ty.bytes v))) ∧
    (∀ ty b c, r.op = .cas ty b c → answers (m.newestLE r.pa ty.bytes) false flagNone
      (if m.newestLE r.pa ty.bytes = c then m.put (.committed st) r.pa (natToBytes ty.bytes b) else m)) ∧
    (∀ v, r.op = .abtst v → answers
      (if (List.range 8).all (fun k => let n := v / 256 ^ k % 256; ((m.bytesAt none r.pa 32).getD (n / 8) 0#8).getLsbD (n % 8)) then 1 else 0)
      false flagNone m) ∧
    (∀ v, r.op = .abset v → ∃ m', answers 0 false flagNone m' ∧ m'.base = m.base ∧ m'.beads = m.beads ∧
      ((∀ k ∈ m.vers, ∀ n, k.owner = .committed n → n < st) → ∀ j, (j < 32 → ∀ b, b < 8 →
        (m'.byteAt none (r.pa + j)).getLsbD b =
          ((m.byteAt none (r.pa + j)).getLsbD b || (List.range 8).any (fun k => decide (v / 256 ^ k % 256 = 8 * j + b)))) ∧
        (32 ≤ j → m'.byteAt none (r.pa + j) = m.byteAt none (r.pa + j)))) ∧
    (∀ b p, (∀ k ∈ s.waits, k.pkg ≠ r.pkg ∨ k.pa ≠ r.pa) → beadApply r.op (m.bead r.pa) = some (b, p) → opIsBead r.op = true →
      answers p.1.toNat p.2 flagNone (m.setBead r.pa b)) ∧
    (∀ b p, beadApply r.op (m.bead r.pa) = some (b, p) → opIsBead r.op = true →
      ∃ (u : State) (n : Nat), exec (.serviceRequest home) s = .next (u.serveWaiters r.pkg r.pa s.waits.length) ∧ u.waits = s.waits ∧ u.memOf r.pkg = m.setBead r.pa b ∧
        (Assoc.at u.svcQ home).getD [] = rest ∧ u.replies = s.replies ++ [(n, ⟨r.src, r.pkg, p.1.toNat, p.2, flagNone, 0⟩)]) ∧
    (opIsBead r.op = true → beadApply r.op (m.bead r.pa) = none →
      let mine := (s.waits.filter (fun k => decide (k.pkg = r.pkg ∧ k.pa = r.pa))).length
      ∃ t, exec (.serviceRequest home) s = .next t ∧ (Assoc.at t.svcQ home).getD [] = rest ∧
        t = { s with svcQ := t.svcQ, waits := if mine < 64 then s.waits ++ [⟨r.pkg, r.pa, r⟩] else s.waits,
                     returned := if mine < 64 then s.returned else s.returned ++ [{ r with since := s.tick }] })) ∧
  (∀ (s : State) (pkg pa : Nat), let bead := (s.memOf pkg).bead pa
    let admitted := fun (k : BeadWait) => k.pkg = pkg ∧ k.pa = pa ∧ (∃ b p, beadApply k.req.op bead = some (b, p)) ∧ s.beadMay k.req = true
    (∀ n, (∀ k ∈ s.waits, ¬admitted k) → s.serveWaiters pkg pa n = s) ∧
    (∀ n front r rest b p, s.waits = front ++ ⟨pkg, pa, r⟩ :: rest → r.pkg = pkg → r.pa = pa → (∀ k ∈ front, ¬admitted k) → admitted ⟨pkg, pa, r⟩ →
      beadApply r.op bead = some (b, p) →
      ∃ (u : State) (i : Nat), s.serveWaiters pkg pa (n + 1) = u.serveWaiters pkg pa n ∧ u.waits = front ++ rest ∧ u.memOf pkg = (s.memOf pkg).setBead pa b ∧
        u.replies = s.replies ++ [(i, ⟨r.src, pkg, p.1.toNat, p.2, flagNone, 0⟩)])) ∧
  (∀ (s : State) (home : Nat) (r : SReq) (rest : List SReq), Assoc.at s.svcQ home = some (r :: rest) →
    let ends := fun (bits : Nat) => ∃ t, exec (.serviceRequest home) s = .next t ∧ (Assoc.at t.svcQ home).getD [] = rest ∧
      t = { s with ids := s.ids + 1, svcQ := t.svcQ, replies := s.replies ++ [(s.ids, ⟨r.src, r.pkg, 0, false, flagNone, bits⟩)] }
    (s.homeDead r.pkg r.pa = true → ends 16) ∧
    (s.homeDead r.pkg r.pa = false → s.pkgLive r.pkg = false → (∀ n, r.src ≠ .peer n) → ends 32) ∧
    (s.homeDead r.pkg r.pa = false → s.reachable r = true → s.mayServe r = false →
      (s.replayHeld r = false → exec (.serviceRequest home) s = .next s) ∧
      (∀ k, rest = [k] → s.precedes r k = true → exec (.serviceRequest home) s = .next s) ∧
      (∀ k more, rest = k :: more → s.replayHeld r = true → s.precedes r k = false → s.homeDead k.pkg k.pa = false → s.reachable k = true → s.mayServe k = true →
        exec (.serviceRequest home) s = .next (({ s with svcQ := Assoc.put s.svcQ home (r :: more) } : State).service k)))) ∧
  (∀ (s : State) (a b : SReq) (g i n m l : Nat), a.src = .lane g i n l → b.src = .lane g i m l → n = m ∨ (∀ w, s.wg? g i = some w →
    ∃ q r, w.req? n = some q ∧ w.req? m = some r ∧ q.frame = r.frame) → s.precedes a b = true) ∧
  (∀ (s : State) (r : SReq), s.returned.find? (fun q => decide (q.id = r.id)) = some r → 64 ≤ (s.tick - r.since) * 4 / 5 →
    exec (.waiterReissue r.id) s =
      .next { (match r.src with
                | .lane g i n _ => ({ s with returned := s.returned.filter (fun q => decide (q.id ≠ r.id)) } : State).updWg g i (fun w => w.updReq n (fun (y : Req) =>
                    { y with smp := y.smp.map (fun (z : Sample) => { z with replays := z.replays + 1 }) }))
                | _ => ({ s with returned := s.returned.filter (fun q => decide (q.id ≠ r.id)) } : State)) with
                     svcQ := Assoc.put s.svcQ (homeKey r.pkg (s.homeOf r.pkg r.pa))
                       ((Assoc.at s.svcQ (homeKey r.pkg (s.homeOf r.pkg r.pa))).getD [] ++ [r]) }))

/-- R203, R204, R274, R310, R313 to R315: what comes back lands in the registers of its lanes, with the tag of its form and the flags of an
atomic, and nothing else of the frame changes. The data of every load land so, those of a SINGLE page, of LDM and, read from host memory as
they land, of LDH too, where no log takes their value. A reply of class 0xB lands for its lane, with the predicate of BPEEK; the lane of
BTAKE, BPEEK, BPUT and BINIT ends a SLEEP of its frame with BEAD in %wake, which is set too where a split that waited for results waits for
none now, and the last lane lets the blocked split go on (R189, R192, R287). What lands in a workgroup that CSAVE holds lands in what its
image says (R274). When an access is performed is the model's choice (log 19). -/
def Obligations.AnswersLand : Prop :=
  (∀ (s : State) (core req : Nat) (w : Wg) (r : Req) (fr : Frame), s.onCore core = some w → w.req? req = some r → w.frame? r.frame = some fr →
    w.halt = false → r.gen = Tab.get 0 s.gen core → r.smp = none → r.pd = 7 →
    r.inp = false ∨ (∀ c, s.ctx? (s.ctxOfWg w) = some c → c.recording = false ∧ c.replay = none) →
    (GoodReq r → ((∃ n, r.kind = .load n ∧ n ≠ 12) ∨ ∃ f, r.kind = .atom f 5) →
      (∀ l ∈ lanesOf r.wait, ∃ p ∈ r.got, p.1 = l) → (∀ p ∈ r.flags, ∃ k ∈ r.got, k.1 = p.1) →
      ∃ t fr', exec (.loadDataReturn core req false false) s = .next t ∧
        Has (answerOf r r.got r.flags) (maskOf (r.got.map (·.1))) r.wbs r.dst 7 fr fr' ∧ fr'.splits = fr.splits ∧
        t = s.setCore core ((w.setFrame r.frame fr').dropReq req)) ∧
    (let mine := fun (q : HostReq) => match q.src with | .lane _ _ n _ => decide (n = r.id) && q.data.isNone | _ => false
      let vals := (s.hostq.filter mine).filterMap (fun q => (Source.laneOf q.src).map (fun p => (p.2.2, s.hostLE q.ctx q.iova r.size)))
      r.kind = .load 12 → r.flags = [] → GoodReq { r with got := vals } →
      (∀ q ∈ s.hostq.filter mine, ∀ k ∈ s.hostq.takeWhile (fun k => decide (k.id ≠ q.id)), Source.laneOf k.src ≠ Source.laneOf q.src) →
      ∃ t fr', exec (.loadDataReturn core req false false) s = .next t ∧
        Has (answerOf r vals []) (maskOf (vals.map (·.1))) r.wbs r.dst 7 fr fr' ∧ fr'.splits = fr.splits ∧
        t = ({ s with hostq := s.hostq.filter (fun q => !mine q) } : State).setCore core ((w.setFrame r.frame fr').dropReq req))) ∧
  (∀ (s : State) (id g i req lane : Nat) (k : MeshAckRec) (w : Wg) (r : Req) (fr : Frame),
    s.acks.find? (fun p => decide (p.1 = id)) = some (id, k) → k.src = .lane g i req lane →
    let s0 := ({ s with acks := s.acks.filter (fun p => decide (p.1 ≠ id)) } : State).synced g i
    s0.wg? g i = some w → w.req? req = some r → w.frame? r.frame = some fr → lane < 32 →
    (k.off = true →
      let s1 := s0.answered (w.setFrame r.frame { fr.switchOff (BitVec.ofNat 32 (2 ^ lane)) s.tick with
        tags := if r.wbs = true then fr.tags else (List.range r.nregs).foldl (fun m j => Tab.set Tag.int m (tKey (lane / 4) (r.dst + j)) r.tag) fr.tags })
        req lane (fun r => r)
      exec (.meshAck id) s = .next (match s1.onCore w.core with
        | some v => if v.is g i = true then s1.gatherFails w.core r.frame else s1
        | none => s1)) ∧
    (∀ n, k.off = false → r.kind = .load n →
      exec (.meshAck id) s = .next (s0.setWg (w.updReq req (fun r => { r with got := r.got ++ [(lane, k.val)] })))) ∧
    (∀ n, k.off = false → r.kind = .store n → exec (.meshAck id) s = .next (s0.answered w req lane (fun r => r))) ∧
    (∀ f n, k.off = false → r.kind = .atom f n → r.pd = 7 → r.smp = none → GoodReq r →
      (∀ c, s.ctx? (s.ctxOfWg w) = some c → c.recording = false ∧ c.replay = none) →
      ∃ fr', Has (answerOf r [(lane, k.val)] [(lane, k.flags)]) (BitVec.ofNat 32 (2 ^ lane)) r.wbs r.dst 7 fr fr' ∧ fr'.splits = fr.splits ∧
        exec (.meshAck id) s = .next (s0.answered (w.setFrame r.frame fr') req lane (fun r => r)))) ∧
  (∀ (s : State) (id g i req lane : Nat) (k : Reply) (w : Wg) (r : Req) (fr : Frame) (flt ret bead : Bool),
    s.replies.find? (fun p => decide (p.1 = id)) = some (id, k) → k.src = .lane g i req lane →
    let s0 := ({ s with replies := s.replies.filter (fun p => decide (p.1 ≠ id)) } : State).synced g i
    s0.wg? g i = some w → w.req? req = some r → w.frame? r.frame = some fr → lane < 32 → k.err = 0 → r.kind = .service flt ret bead → GoodReq r → r.smp = none → r.pd ≤ 7 →
    let one := BitVec.ofNat 32 (2 ^ lane)
    ∃ fr', fr'.splits = fr.splits ∧
      (ret = true → Has { answerOf r [(lane, k.val)] (if flt then [(lane, k.flags)] else []) with pred := some (fun _ => k.pred) } one r.wbs r.dst r.pd fr fr') ∧
      (ret = false → fr' = fr) ∧
      let old := (if ret then w else { w with atomnFlags := if k.flags = 0 then w.atomnFlags else w.atomnFlags ++ [(32 * r.frame + lane, k.flags)] }).setFrame
        r.frame fr'
      let more := decide (r.wait &&& ~~~one ≠ 0#32)
      let new := if more then old.updReq req (fun r => { r with wait := r.wait &&& ~~~one }) else old.dropReq req
      let ended := fr'.splits.any (fun p => decide (p.st = .run) && old.awaitsResults r.frame fr' p && !new.awaitsResults r.frame fr' p)
      let fw := fr'.wakeSleep wakeBead
      let w' := if bead then new.setFrame r.frame { fw with wake := fw.wake ||| (if ended then wakeBead else 0#7) } else new
      exec (.atomReply id) s = .next ((s0.setWg new).setWg (if more then w' else w'.unblock r.frame req)))

/-! ### Slots and copies -/

/-- R226 to R233: a slot instruction of the reckoner passes at once, and takes effect in each quad later: MAPBIND checks its area, and its
status is pending. MAPRD waits for earlier changes of its slot, faults MAPUNBOUND on a slot that is not bound, and otherwise reads a word of
it. R226 to R231: a slot-changing instruction takes effect in one quad: it begins a fill, returns the slot to its start state, or sets its
MODE or its band; the fill reads the area into the slot, which is then bound. The last quad ends the instruction, and a status lands (R228).
That a fill reads its whole area in one step at SLOT_FILL_DONE is the model's choice (log 19). -/
def Obligations.SlotResults : Prop :=
  (∀ (s : State) (x : RCtx) (i : Instr), WellFormed i = true → s.issueR i = .go x → x.on = true →
    let quads := fun (q : QuadSel) => match q with | some k => BitVec.ofNat 4 (2 ^ k.toNat) | none => 0xF#4
    let goes := fun (q : QuadSel) (m : BitVec 3) (act : SlotAct) (dst : Option Nat) =>
      ∃ t, exec i s = .next t ∧
        CompletesU x t { x.s with ids := x.s.ids + 1 }
          { x.w with slotOps := x.w.slotOps ++ [⟨x.s.ids, x.w.place, m.toNat, act, quads q, 0, 0, quads q, false, dst⟩],
                     rends := match act with | .bind _ _ => x.w.rends | _ => stepEnds x.w x.s.ids }
          { UOut.nop with late := match dst with | some n => [(n, .slot x.s.ids)] | none => [] } (x.w.rpc + 16#64)
    let fault := fun (e : Code) => exec i s = .next (s.raise x.core reckParty 0 x.w.rpc e 0)
    (∀ c fmt q dst a m, i = .mapbind c fmt q dst a m →
      let off := (x.val true a).toNat
      (off % 64 ≠ 0 → fault .align) ∧ (off % 64 = 0 → x.w.code.extent < off + slotBytes fmt → fault .addr) ∧
      (off % 64 = 0 → off + slotBytes fmt ≤ x.w.code.extent → goes q m (.bind fmt off) (if x.c.wbs then none else some dst.toNat))) ∧
    (∀ c q m, i = .mapclr c q m → goes q m .clear none) ∧
    (∀ c q full m, i = .mapmode c q full m → goes q m (.mode full) none) ∧
    (∀ c q a m, i = .mapscl c q a m → goes q m (.scale ((x.val true a).setWidth 16)) none) ∧
    (∀ c qk dst m rw wd, i = .maprd c qk dst m rw wd →
      let sl := x.w.slot qk.toNat m.toNat
      (x.w.slotBusy (x.w.place + 1) qk.toNat m.toNat = true → exec i s = .next x.s) ∧
      (x.w.slotBusy (x.w.place + 1) qk.toNat m.toNat = false → sl.binding ≠ .bound → fault .mapunbound) ∧
      (x.w.slotBusy (x.w.place + 1) qk.toNat m.toNat = false → sl.binding = .bound →
        ∃ t, exec i s = .next t ∧ CompletesU x t x.s x.w (outU x.c.wbs dst.toNat (sl.word rw.toNat wd.toNat)) (x.w.rpc + 16#64)))) ∧
  ((∀ (s : State) (core quad id : Nat) (w : Wg) (o : SlotOp), s.onCore core = some w → w.slotOps.find? (fun p => decide (p.id = id)) = some o →
    quad < 4 → o.slot < 8 → w.halt = false → w.slotReady quad o = true → s.fillWaits w o = false →
    let sl := w.slot quad o.slot
    ∃ t w', exec (.slotChangeEffect core quad id) s = .next t ∧ t = s.setCore core w' ∧
      w' = { w with slots := w'.slots, slotOps := w'.slotOps, s := w'.s, pend := w'.pend } ∧
      (∀ q k, q < 4 → k < 8 → w'.slot q k =
        if q = quad ∧ k = o.slot then
          (match o.act with
            | .bind fmt _ => { sl with binding := .filling, fmt := fmt }
            | .clear => Slot.start
            | .mode full => { sl with full := full }
            | .scale band => { sl with band := band })
        else w.slot q k) ∧
      (∀ fmt off, o.act = .bind fmt off → w'.s = w.s ∧ w'.pend = w.pend ∧
        w'.slotOps = w.slotOps.map (fun p => if p.id = id then
          { p with todo := p.todo &&& ~~~(1#4 <<< quad), filling := p.filling ||| (1#4 <<< quad) } else p)) ∧
      ((∀ fmt off, o.act ≠ .bind fmt off) → o.filling = 0#4 → o.dst = none →
        w'.s = w.s ∧ w'.pend = w.pend ∧ w'.slotOps =
          if o.todo &&& ~~~(1#4 <<< quad) = 0#4 then w.slotOps.filter (fun p => decide (p.id ≠ id))
          else w.slotOps.map (fun p => if p.id = id then { p with todo := p.todo &&& ~~~(1#4 <<< quad) } else p))) ∧
  (∀ (s : State) (core quad id : Nat) (w : Wg) (o : SlotOp) (fmt : SlotFmt) (off : Nat), s.onCore core = some w →
    w.slotOps.find? (fun p => decide (p.id = id)) = some o → quad < 4 → o.slot < 8 → o.act = .bind fmt off → o.filling.getLsbD quad = true →
    ∃ t w', exec (.slotFillDone core quad id false false) s = .next t ∧ t = s.setCore core w' ∧
      w' = { w with slots := w'.slots, slotOps := w'.slotOps, s := w'.s, pend := w'.pend } ∧
      (∀ q k, q < 4 → k < 8 → ¬(q = quad ∧ k = o.slot) → w'.slot q k = w.slot q k) ∧
      (∀ n, (w'.slot quad o.slot).byteAt n = if n < slotBytes fmt then (Tab.get 0#8 w.slice (off + n)).toNat else 0) ∧
      (w'.slot quad o.slot).binding = .bound ∧
      (o.todo = 0#4 → o.filling &&& ~~~(1#4 <<< quad) = 0#4 →
        (∀ p ∈ w'.slotOps, p.id ≠ id) ∧
        ∀ n, o.dst = some n → w'.sreg n = BitVec.ofNat 64 (2 ^ 63 + (if o.err then 2 ^ 56 else 0) + (o.bound ||| (1#4 <<< quad)).toNat * 2 ^ 52 +
          o.slot * 2 ^ 40 + fmt.code.toNat * 2 ^ 32 + slotBytes fmt) ∧ ∀ p ∈ w'.pend, p.src ≠ .slot id)) ∧
  (∀ (s : State) (core id : Nat) (w : Wg) (p : Pass) (fr : Frame), s.onCore core = some w →
    w.passes.find? (fun p => decide (p.id = id)) = some p → w.frame? p.frame = some fr →
    exec (.mapPassComplete core id) s =
      .next (s.setCore core (({ w with passes := w.passes.filter (fun p => decide (p.id ≠ id)) } : Wg).setFrame p.frame (fr.write p.writes)))))

/-- R254, R255, R265, R266: COPY leaves a copy that is issued, and its status pending; a record that is misaligned or beyond the extent
faults. PUBLISH gives a group its stamp once every copy before it has fixed its own (R256), or discards the group of a copy that failed;
that its commit is the one of the die of the group's cluster, completed when the package's frontier reaches it, is the model's reading (log
57). CANCEL ends a copy, or the group that one left. CANCEL ends a copy between two units, the model's choice (log 29). -/
def Obligations.CopyInstructions : Prop :=
  ∀ (s : State) (x : RCtx), x.on = true →
    (∀ c dst a b d, let i := Instr.copy c dst a b d
      let off := (x.val true d).toNat
      let r := layoutOf (Tab.readBytes x.w.slice off 64)
      let k : Copy := { id := x.s.ids, pos := x.w.place, reg := dst.toNat, wbs := x.c.wbs, pkt := none, dst := (x.val true a).toNat,
                        src := (x.val true b).toNat, off := off, bar := recBar r, st := .issued, layout := r, sc := 0, group := 0, cluster := 0,
                        next := 0, bytes := 0, err := 0, fixed := false, seen := [] }
      s.issueR i = .go x → x.w.copies.length < 16 →
      (off % 64 ≠ 0 → exec i s = .next (s.raise x.core reckParty 0 x.w.rpc .align 0)) ∧
      (off % 64 = 0 → x.w.code.extent < off + 64 → exec i s = .next (s.raise x.core reckParty 0 x.w.rpc .addr 0)) ∧
      (off % 64 = 0 → off + 64 ≤ x.w.code.extent →
        ∃ t, exec i s = .next t ∧
          CompletesU x t { x.s with ids := x.s.ids + 1 }
            { x.w with copies := x.w.copies ++ [k], bars := match recBar r with
                | some n => x.w.bars.modify n (fun b => { b with copies := b.copies ++ [(x.s.ids, false)] })
                | none => x.w.bars }
            { UOut.nop with late := if x.c.wbs then [] else [(dst.toNat, .copy x.s.ids)],
                            copies := if x.c.wbs then [] else [(dst.toNat, x.s.ids)] } (x.w.rpc + 16#64))) ∧
    (∀ c dst a, let i := Instr.publish c dst a
      let n := dst.toNat
      let v := (x.val true a).toNat
      let g := v / 2 ^ 40 % 2 ^ 16
      let cl := x.w.clusterOfGroup g
      s.issueR i = .go x →
      (Assoc.at x.w.lastCopy n = none ∨ g = 0 → ∃ t, exec i s = .next t ∧ CompletesU x t x.s x.w UOut.nop (x.w.rpc + 16#64)) ∧
      (∀ id, Assoc.at x.w.lastCopy n = some id → g ≠ 0 → v / 2 ^ 56 % 2 ^ 7 ≠ 0 →
        ∃ t, exec i s = .next t ∧
          CompletesU x t { x.s with dev := x.s.dev.discard (.shadow cl g) } (x.w.closeGroup cl g)
            { UOut.nop with regs := if x.c.wbs then [] else [(n, BitVec.ofNat 64 (2 ^ 63 + v / 2 ^ 56 % 2 ^ 7 * 2 ^ 56 + v % 2 ^ 40))], copies := [(n, id)] }
            (x.w.rpc + 16#64)) ∧
      (∀ id, Assoc.at x.w.lastCopy n = some id → g ≠ 0 → v / 2 ^ 56 % 2 ^ 7 = 0 → (∀ k ∈ x.w.copies, k.st ≠ .issued) → x.s.mayStamp (x.s.ctxOfWg x.w) x.w (some (x.w.retired, 32)) = true →
        ∃ t w' k, exec i s = .next t ∧ t.last = x.s.last + 1 ∧ t.dev = x.s.dev.reown (.shadow cl g) (.committed (x.s.last + 1)) ∧
          t.onCore x.core = some w' ∧
          HasU { UOut.nop with late := if x.c.wbs then [] else [(n, .act k)], copies := [(n, id)] } (x.w.rpc + 16#64) { x.w with rends := stepEnds x.w k } w' ∧
          (⟨k, x.s.last + 1, cl / 24, .package, .publish x.w.grid x.w.idx (if x.c.wbs then none else some n) (BitVec.ofNat 64 (2 ^ 63 + v % 2 ^ 40))
            x.w.place cl g, []⟩ : Commit) ∈ t.commits)) ∧
    (∀ c dst a, let i := Instr.cancel c dst a
      let n := dst.toNat
      s.issueR i = .go x →
      (Assoc.at x.w.lastCopy n = none → ∃ t, exec i s = .next t ∧ CompletesU x t x.s x.w UOut.nop (x.w.rpc + 16#64)) ∧
      (∀ id k, Assoc.at x.w.lastCopy n = some id → x.w.copies.find? (fun k => decide (k.id = id)) = some k → k.st ≠ .publishing → k.st ≠ .published →
        ∃ t, exec i s = .next t ∧
          CompletesU x t (if k.group = 0 then x.s else { x.s with dev := x.s.dev.discard (.shadow k.cluster k.group) })
            { x.w.closeGroup k.cluster k.group with copies := x.w.copies.map (fun y => if y.id = id then
                { k with st := .finishing, err := if k.err = 0 then 0x40 else k.err, group := 0,
                         bytes := if k.st = .issued then 0 else k.bytes } else y), rends := stepEnds x.w id }
            { UOut.nop with late := if x.c.wbs then [] else [(n, .copy id)], copies := [(n, id)] } (x.w.rpc + 16#64)) ∧
      (∀ id k, Assoc.at x.w.lastCopy n = some id → x.w.copies.find? (fun k => decide (k.id = id)) = some k → k.st = .publishing ∨ k.st = .published →
        ∃ t, exec i s = .next t ∧
          CompletesU x t x.s { x.w with rends := stepEnds x.w id } { UOut.nop with late := if x.c.wbs then [] else [(n, .copy id)], copies := [(n, id)] } (x.w.rpc + 16#64)) ∧
      (∀ id, Assoc.at x.w.lastCopy n = some id → (∀ k ∈ x.w.copies, k.id ≠ id) → (∀ p ∈ x.w.pend, p.reg ≠ n) →
        let v := (x.val true a).toNat
        let g := v / 2 ^ 40 % 2 ^ 16
        let e := if v / 2 ^ 56 % 2 ^ 7 = 0 then 0x40 else v / 2 ^ 56 % 2 ^ 7
        g ≠ 0 →
        ∃ t, exec i s = .next t ∧
          CompletesU x t { x.s with dev := x.s.dev.discard (.shadow (x.w.clusterOfGroup g) g) } (x.w.closeGroup (x.w.clusterOfGroup g) g)
            { UOut.nop with regs := if x.c.wbs then [] else [(n, BitVec.ofNat 64 (2 ^ 63 + e * 2 ^ 56 + v % 2 ^ 40))], copies := [(n, id)] }
            (x.w.rpc + 16#64)))

/-- R258 to R260: where an element of the box lies: coordinate c(d) = ORG(d) + k(d), mirrored where MIR says so and it is outside; the
tensor address, and with LAYOUT 0 the packed address. R256, R261 to R264, R215: a copy that may start reads its record again and fixes its
stamp; a unit moves its elements and counts their bytes, and one that fails, or whose read meets an uncorrectable error, ends the copy
before it; the last ends the copy, and with AUTOPUB the group takes its stamp, or a failed copy's group is discarded; the end writes the
status with DONE, in a saved workgroup too where a CANCEL is in flight (R388), and arrives at the copy's barrier; the entries of the copy's
CANCELs keep the status, for the frames before them (R198, R266). The order of the errors at the start is the model's choice (log 15). -/
def Obligations.CopyEvents : Prop :=
  (∀ (r : LayoutRec) (tb pb : Word64) (k0 k1 k2 k3 : Nat),
    k0 < recBox r 0 → k1 < recBox r 1 → k2 < recBox r 2 → k3 < recBox r 3 →
    let u := k0 + recBox r 0 * (k1 + recBox r 1 * (k2 + recBox r 2 * k3))
    let org := fun (d k : Nat) => r.org.getD d 0 + (k : Int)
    let outside := fun (d : Nat) (c : Int) => c < 0 ∨ (r.ext.getD d 1 : Int) ≤ c
    let e : Int := if r.ctl.testBit 8 then 1 else 0
    let reflect := fun (d : Nat) (c : Int) => if c < 0 then -c - e else 2 * (r.ext.getD d 1 : Int) - 2 + e - c
    let at_ := fun (d k : Nat) (c : Int) => (¬outside d (org d k) ∨ r.ctl.testBit (4 + d) = false → c = org d k) ∧
      (outside d (org d k) → r.ctl.testBit (4 + d) = true → c = reflect d (org d k))
    ∀ c0 c1 c2 c3 : Int, at_ 0 k0 c0 → at_ 1 k1 c1 → at_ 2 k2 c2 → at_ 3 k3 c3 →
    let es : Nat := 2 ^ (r.ctl / 4 % 4)
    let p := fun d => (r.pitch.getD d 0 : Int)
    ((copyElem r tb pb u).1 = true ↔ ¬outside 0 c0 ∧ ¬outside 1 c1 ∧ ¬outside 2 c2 ∧ ¬outside 3 c3) ∧
    (copyElem r tb pb u).2.1 = tb + BitVec.ofInt 64 (es * (c0 + c1 * p 0 + c2 * p 1 + c3 * p 2)) ∧
    (r.ctl % 4 = 0 → (copyElem r tb pb u).2.2 = pb + BitVec.ofNat 64 (es * u))) ∧
  ((∀ (s : State) (id : Nat) (w : Wg) (k : Copy), s.copyOf id = some (w, k) → s.onCore w.core = some w → k.st = .issued → w.halt = false →
    w.copyReady k = true → s.publishing w k.pos = false →
    let r := layoutOf (Tab.readBytes w.slice k.off 64)
    let k' := { k with layout := r, cluster := clusterOf w.core, sc := if r.stamp ≠ 0 then r.stamp else w.phase.s, st := .moving,
                       fixed := true }
    let er := copyStartErr k.pkt.isSome r (BitVec.ofNat 64 k.dst) (BitVec.ofNat 64 k.src) s.lowWater (s.frontier (s.envOfWg w).die)
    (∀ e, er = some e → exec (.copyStart id) s = .next (s.updCopy k.id (fun _ => { k' with err := e, st := .finishing }))) ∧
    (er = none → k.dst / 2 ^ 60 % 16 ≠ 0 → exec (.copyStart id) s = .next (s.updCopy k.id (fun _ => k'))) ∧
    (er = none → k.dst / 2 ^ 60 % 16 = 0 → 16 ≤ w.groups.length →
      exec (.copyStart id) s = .next (s.updCopy k.id (fun _ => { k' with err := 0x0B, st := .finishing }))) ∧
    (er = none → k.dst / 2 ^ 60 % 16 = 0 → w.groups.length < 16 →
      let g := (s.newGroup (clusterOf w.core)).1
      exec (.copyStart id) s = .next (((s.newGroup (clusterOf w.core)).2.updCopy k.id (fun _ => { k' with group := g })).updWg w.grid w.idx
        (fun w' => { w' with groups := w'.groups ++ [(clusterOf w.core, g)] })))) ∧
  (∀ (s : State) (id : Nat) (w : Wg) (k : Copy), s.copyOf id = some (w, k) → k.st = .moving → w.halt = false → s.copyStalls k = false → k.pkt = none →
    (k.src / 2 ^ 60 % 16 = 12 → ∀ c, s.ctx? (s.ctxOfWg w) = some c → c.recording = false ∧ c.replay = none) →
    let e := s.envOfWg w
    let auto := k.group ≠ 0 ∧ k.layout.ctl.testBit 15 = true
    (∀ u got ws, s.copyGather e k (recCount k.layout) k.next 0 [] = .ok (u, got, ws) →
      let s1 := ws.reverse.foldl (fun s w' => s.copyPut e (.shadow k.cluster k.group) w') (s.copyKeep e k k.next (u - k.next))
      let k1 := { k with next := u, bytes := k.bytes + got, seen := k.seen ++ s.sliceUnits e k k.next (u - k.next) }
      (u < recCount k.layout → exec (.copyUnit id ⟨false, false⟩) s = .next (s1.updCopy k.id (fun _ => k1))) ∧
      (recCount k.layout ≤ u → ¬auto → exec (.copyUnit id ⟨false, false⟩) s = .next (s1.updCopy k.id (fun _ => { k1 with st := .finishing }))) ∧
      (recCount k.layout ≤ u → auto → s.logRoom (s.ctxOfWg w) = true →
        ∃ t, exec (.copyUnit id ⟨false, false⟩) s = .next t ∧ t.last = s.last + 1 ∧
          t.dev = s1.dev.reown (.shadow k.cluster k.group) (.committed (s.last + 1)) ∧
          (∃ c ∈ t.commits, c.who = .copy w.grid w.idx id ∧ c.stamp = s.last + 1) ∧ ∃ w', t.copyOf id = some (w', { k1 with st := .publishing }))) ∧
    (∀ x m, (m = true ∧ x = 0x0A) ∨ (m = false ∧ s.copyGather e k (recCount k.layout) k.next 0 [] = .error x) →
      (¬auto → exec (.copyUnit id ⟨m, false⟩) s = .next (s.updCopy k.id (fun _ => { k with err := x, st := .finishing }))) ∧
      (auto → ∃ t w', exec (.copyUnit id ⟨m, false⟩) s = .next t ∧ t.dev = s.dev.discard (.shadow k.cluster k.group) ∧
        t.copyOf id = some (w', { k with err := x, group := 0, st := .finishing }) ∧
        w'.groups = w.groups.filter (fun p => decide (p ≠ (k.cluster, k.group)))))) ∧
  (∀ (s : State) (id : Nat) (w : Wg) (k : Copy), s.copyOf id = some (w, k) → k.st = .finishing ∨ k.st = .published →
    w.halt = false ∨ (∃ p ∈ w.pend, p.src = .copy id ∧ p.pos ≠ k.pos) →
    ∃ w', exec (.copyDone id) s = .next (s.setWg w') ∧ w'.copies = w.copies.filter (fun c => decide (c.id ≠ id)) ∧
      (∀ n, w'.sreg n = if k.wbs = false ∧ n = k.reg then BitVec.ofNat 64 (2 ^ 63 + k.err * 2 ^ 56 + k.group * 2 ^ 40 + k.bytes % 2 ^ 40) else w.sreg n) ∧
      (k.wbs = false → w'.pend = w.pend.filter (fun p => decide (p.src ≠ .copy id))) ∧ w'.slice = w.slice ∧
      (k.wbs = false → w'.dqBase = w.dqBase ∧ w'.dq.length = w.dq.length ∧ ∀ n e, w.dq[n]? = some e → ∃ e', w'.dq[n]? = some e' ∧
        e' = { e with olds := e'.olds } ∧ (w.dqBase + n ≤ k.pos → e' = e) ∧
        (k.pos < w.dqBase + n → e'.olds = e.olds.map (fun o => if o.1 = k.reg then (o.1, k.status) else o))) ∧
      (∀ n b, k.bar = some n → w.bars[n]? = some b → ∃ b', w'.bars[n]? = some b' ∧
        b'.copies = b.copies.map (fun p => if p.1 = k.id then (p.1, true) else p))))

/-! ### Synchronisation -/

/-- R208 to R212, R217: the arrival of a party at a core barrier: a party that is no member faults BARMEMBER, one that has arrived waits,
one with another reduction faults BARMEMBER; any other arrives with its leaves. A grid barrier needs a COOP grid. At a cluster or grid
barrier the reckoner and a frame of one workgroup do not both arrive; with its reckoner, or with the last of its frames that has not ended,
the workgroup itself arrives, with the core tree over its own leaves as its leaf, at its position in the gang or its index. R210, R211,
R213, R214, R216, R229: BAR arrives and waits for its generation, BARA arrives and passes, BARW waits; a second arrival in the same
generation waits, whatever its operand, another that faults raises its fault (FMTTAG of its operand before BARMEMBER; the model's choice,
log 88), and after a failed fill it faults MAPSTORE. BAR and BARA with `.rel` commit the phase first, and wait; BAR and BARW that wait for
their `.acq` refresh make it and pass. BARSET defines a barrier that nobody uses, and faults BARBUSY on another. That MAPSTORE is reported
with party 16 is the model's choice (log 24). -/
def Obligations.BarrierFrames : Prop :=
  (∀ (s : State) (w : Wg) (party : Nat) (red : Option (Lop × LTy)) (leaves : List (Nat × Word32)) (lanes : Word32),
    (∀ n, let b := w.bar (.core n)
      (b.members.getLsbD party = false → s.arrive w party (.core n) red leaves lanes = .fault .barmember) ∧
      (b.members.getLsbD party = true → b.arrived.getLsbD party = true → s.arrive w party (.core n) red leaves lanes = .again) ∧
      (b.members.getLsbD party = true → b.arrived.getLsbD party = false → b.made = false →
        (∀ x y, red = some x → b.red = some y → x ≠ y → s.arrive w party (.core n) red leaves lanes = .fault .barmember) ∧
        ((∀ x y, red = some x → b.red = some y → x = y) →
          s.arrive w party (.core n) red leaves lanes = .ok s (w.setBar (.core n)
            { b with arrived := b.arrived ||| BitVec.ofNat 17 (2 ^ party), red := if red.isSome then red else b.red, leaves := b.leaves ++ leaves,
                     leafLanes := if lanes = 0#32 then b.leafLanes else b.leafLanes ++ [(party, lanes)] })))) ∧
    (∀ n, (∀ g, s.grid? w.grid = some g → g.coop = false) → s.arrive w party (.grid n) red leaves lanes = .fault .barmember) ∧
    (∀ br, (∃ n, br = .cluster n) ∨ (∃ n g, br = .grid n ∧ s.grid? w.grid = some g ∧ g.coop = true) → party ≤ 16 → HasBar w br →
      let b := w.bar br
      let b' : Bar := { b with arrived := b.arrived ||| BitVec.ofNat 17 (2 ^ party), red := if red.isSome then red else b.red, leaves := b.leaves ++ leaves,
                               leafLanes := if lanes = 0#32 then b.leafLanes else b.leafLanes ++ [(party, lanes)] }
      let twice := if party = 16 then ∃ p < 16, b.arrived.getLsbD p = true else b.arrived.getLsbD 16 = true
      let clash := ∃ x y, red = some x ∧ b.red = some y ∧ x ≠ y
      let whole := party = 16 ∨ ∀ p < 16, b'.arrived.getLsbD p = true ∨ Ended w p
      let above := s.gbar w br
      let leaf := match b'.red with
        | some (op, ty) => redTree op ty ((List.range 513).map (fun k => (b'.leaves.find? (fun (p : Nat × Word32) => decide (p.1 = k))).map (fun (p : Nat × Word32) => p.2)))
        | none => (none, flagNone)
      let place := match br with | .cluster _ => w.pos | _ => w.idx
      (twice → s.arrive w party br red leaves lanes = .fault .barmember) ∧
      (¬twice → b.arrived.getLsbD party = true ∨ b.made = true → s.arrive w party br red leaves lanes = .again) ∧
      (¬twice → b.arrived.getLsbD party = false → b.made = false →
        (clash → s.arrive w party br red leaves lanes = .fault .barmember) ∧
        (¬clash → ¬whole → s.arrive w party br red leaves lanes = .ok s (w.setBar br b')) ∧
        (¬clash → whole → (∃ x y, above.red = some x ∧ b'.red = some y ∧ x ≠ y) → s.arrive w party br red leaves lanes = .fault .barmember) ∧
        (¬clash → whole → (∀ x y, above.red = some x → b'.red = some y → x = y) →
          s.arrive w party br red leaves lanes = .ok
            (s.setGbar w br { above with
              arrived := above.arrived ++ [w.idx], red := if b'.red.isSome then b'.red else above.red,
              leaves := match leaf.1 with | some v => above.leaves ++ [(place, v)] | none => above.leaves, flags := above.flags ||| leaf.2 })
            ((w.setBar br b').setBar br { b' with made := true }))))) ∧
  (∀ (s : State) (x : FCtx) (c : Ctl) (bop : Option Lop) (lty : LTy) (rel acq vec sd : Bool) (dst : BitVec 7) (a : Option Src) (br : BarRef)
    (sn : BitVec 6),
    let waits := fun (s' : State) (w' : Wg) (acq vec sd : Bool) =>
      let b := w'.bar br
      s'.setCore x.core ((w'.setBar br { b with
          waiters := b.waiters ++ [⟨x.f, x.sp.id, b.gen, x.act, if vec && !x.c.wbs then some dst.toNat else none, acq⟩]
          sregs := if sd && !b.sregs.contains sn.toNat then b.sregs ++ [sn.toNat] else b.sregs }).setFrame x.f (x.fr.setSplit { x.sp with st := .barrier br b.gen }))
    let lanes := if bop.isSome then x.act else 0#32
    let red := bop.map (fun op => (op, lty))
    (∀ i, (i = .bar c bop lty rel acq vec dst a br sd sn ∨ i = .bara c bop lty rel a br sn) → s.issueF i = .go x → x.sp.st ≠ .acquire →
      rel = false ∨ x.sp.isResumed = true →
      ((x.w.bar br).arrived.getLsbD x.f = true → exec i s = .next x.s) ∧
      ((x.w.bar br).arrived.getLsbD x.f = false →
      (∀ e, x.leaves bop lty a = .error e → exec i s = .next (s.raise x.core x.f x.sp.id x.sp.pc e 0)) ∧
      (∀ ls e, x.leaves bop lty a = .ok ls → x.s.arrive x.w x.f br red ls lanes = .fault e →
        exec i s = .next (s.raise x.core x.f x.sp.id x.sp.pc e 0)) ∧
      (∀ ls, x.leaves bop lty a = .ok ls → x.s.arrive x.w x.f br red ls lanes = .again → exec i s = .next x.s) ∧
      (∀ ls s' w', x.leaves bop lty a = .ok ls → x.s.arrive x.w x.f br red ls lanes = .ok s' w' → x.w.mapstore = true →
        exec i s = .next (x.s.finalFault x.w ⟨.mapstore, 16, 0, 0⟩)))) ∧
    (∀ ls s' w', s.issueF (.bar c bop lty rel acq vec dst a br sd sn) = .go x → x.sp.st ≠ .acquire → rel = false ∨ x.sp.isResumed = true →
      (x.w.bar br).arrived.getLsbD x.f = false →
      x.leaves bop lty a = .ok ls → x.s.arrive x.w x.f br red ls lanes = .ok s' w' → x.w.mapstore = false →
      exec (.bar c bop lty rel acq vec dst a br sd sn) s = .next (waits s' w' acq vec sd)) ∧
    (∀ ls s' w', s.issueF (.bara c bop lty rel a br sn) = .go x → x.sp.st ≠ .acquire → rel = false ∨ x.sp.isResumed = true →
      (x.w.bar br).arrived.getLsbD x.f = false →
      x.leaves bop lty a = .ok ls → x.s.arrive x.w x.f br red ls lanes = .ok s' w' → x.w.mapstore = false →
      ∃ t fr, exec (.bara c bop lty rel a br sn) s = .next t ∧ t = s'.setCore x.core ((w'.setFrame x.f fr).count x.c) ∧
        Has Result.none x.act x.c.wbs 0 7 x.fr fr ∧ Went x fr (x.sp.pc + 16#64) (fun _ => True)) ∧
    (∀ i, (i = .bar c bop lty true acq vec dst a br sd sn ∨ i = .bara c bop lty true a br sn) → s.issueF i = .go x → x.sp.st ≠ .acquire →
      x.sp.isResumed = false → exec i s = .next (x.commit (match br with | .grid _ => .package | _ => .die) false)) ∧
    (∀ i, (i = .bar c bop lty rel acq vec dst a br sd sn ∨ i = .barw c acq vec dst br sd sn) → s.issueF i = .go x → x.sp.st = .acquire →
      ∃ t fr, exec i s = .next t ∧ Has Result.none x.act c.wbs 0 7 x.fr fr ∧ Went x fr (x.sp.pc + 16#64) (fun _ => True) ∧
        t = (x.s.refresh x.w.grid x.w.idx).setCore x.core
          (((((x.s.refresh x.w.grid x.w.idx).onCore x.core).getD x.w).setFrame x.f fr).count x.c)) ∧
    (s.issueF (.barw c acq vec dst br sd sn) = .go x → x.sp.st ≠ .acquire →
      (x.s.barAdmits x.w br = true → exec (.barw c acq vec dst br sd sn) s = .next (waits x.s x.w acq vec sd)) ∧
      (x.s.barAdmits x.w br = false → exec (.barw c acq vec dst br sd sn) s = .next (s.raise x.core x.f x.sp.id x.sp.pc .barmember 0))) ∧
    (∀ mask count n, s.issueF (.barset c mask count n) = .go x → x.act = 0#32 →
      ∃ t fr, exec (.barset c mask count n) s = .next t ∧ Retired x t fr ∧ Has Result.none x.act c.wbs 0 7 x.fr fr ∧
        Went x fr (x.sp.pc + 16#64) (fun _ => True)) ∧
    (∀ mask count n, s.issueF (.barset c mask count n) = .go x → x.act ≠ 0#32 →
      let b := x.w.bar (.core n)
      (b.arrived = 0#17 → b.waiters = [] → b.copies = [] →
        ∃ t fr, exec (.barset c mask count n) s = .next t ∧ Has Result.none x.act x.c.wbs 0 7 x.fr fr ∧ Went x fr (x.sp.pc + 16#64) (fun _ => True) ∧
          t = x.s.setCore x.core (((x.w.setBar (.core n) { b with members := mask, count := count.toNat, red := none }).setFrame x.f fr).count x.c)) ∧
      (b.arrived ≠ 0#17 ∨ b.waiters ≠ [] ∨ b.copies ≠ [] →
        exec (.barset c mask count n) s = .next (s.raise x.core x.f x.sp.id x.sp.pc .barbusy 0))))

/-- R199, R211, R337: the U forms: BAR.u arrives and the reckoner waits, with the refresh of `.acq` as an action of its place; BARA.u
arrives and passes; BARW.u waits. With `.rel` the commit is an action, and the reckoner waits at the instruction for it; when it goes on it
arrives, with its entry placed already. U actions begin one at a time, the model's choice (log 53). -/
def Obligations.BarrierReckoner : Prop :=
  ∀ (s : State) (x : RCtx) (c : Ctl) (bop : Option Lop) (lty : LTy) (acq sd : Bool) (a : Option Src) (br : BarRef) (sn : BitVec 6),
    x.on = true →
    let ls := if bop.isSome then [(512, x.val32 (a.getD noSrc))] else []
    let red := bop.map (fun op => (op, lty))
    let refresh := fun (id : Nat) => if acq then [(⟨id, x.w.place, .barAcq, x.w.rpc, false, 0#64⟩ : Act)] else []
    let waits := fun (i : Instr) (s' : State) (w' : Wg) =>
      let b := w'.bar br
      ∃ t w1, exec i s = .next t ∧
        OnlyCore { s' with ids := s'.ids + 1 } x.core { w1 with rst := .barrier br b.gen, rdbg := x.w.rdbg, rstep := x.w.rstep } t ∧
        HasU { UOut.nop with late := if sd then [(sn.toNat, .bar br x.w.rpc)] else [] } (x.w.rpc + 16#64)
          { w'.setBar br { b with waiters := b.waiters ++ [⟨16, 0, b.gen, 0#32, none, acq⟩],
                                  sregs := if sd && !b.sregs.contains sn.toNat then b.sregs ++ [sn.toNat] else b.sregs } with acts := x.w.acts ++ refresh s'.ids } w1
    (∀ s' w', x.w.rst.isResumed = false → s.issueR (.barU c bop lty false acq a br sd sn) = .go x → x.s.arrive x.w 16 br red ls 0#32 = .ok s' w' → x.w.mapstore = false →
      waits (.barU c bop lty false acq a br sd sn) s' w') ∧
    (∀ s' w', x.w.rst.isResumed = false → sd = false → s.issueR (.baraU c bop lty false a br sn) = .go x → x.s.arrive x.w 16 br red ls 0#32 = .ok s' w' → x.w.mapstore = false →
      ∃ t, exec (.baraU c bop lty false a br sn) s = .next t ∧ CompletesU x t s' w' UOut.nop (x.w.rpc + 16#64)) ∧
    (s.issueR (.barwU c acq br sd sn) = .go x →
      (x.s.barAdmits x.w br = true → waits (.barwU c acq br sd sn) x.s x.w) ∧
      (x.s.barAdmits x.w br = false → exec (.barwU c acq br sd sn) s = .next (s.raise x.core reckParty 0 x.w.rpc .barmember 0))) ∧
    (∀ i (acq' : Bool), (i = .barU c bop lty true acq a br sd sn ∧ acq' = acq ∨ i = .baraU c bop lty true a br sn ∧ acq' = false ∧ sd = false) →
      x.w.rst.isResumed = false → s.issueR i = .go x →
      ∃ w1, exec i s = .next (({ x.s with ids := x.s.ids + 2 } : State).setCore x.core w1) ∧ w1.rst = .commit x.s.ids ∧ w1.rpc = x.w.rpc ∧
        w1.acts = x.w.acts ++ ⟨x.s.ids, x.w.place, .barRel (match br with | .grid _ => .package | _ => .die), x.w.rpc, false, 0#64⟩ ::
          (if acq' then [⟨x.s.ids + 1, x.w.place, .barAcq, x.w.rpc, false, 0#64⟩] else []) ∧
        w1.s = x.w.s ∧ w1.q = x.w.q ∧ w1.frames = x.w.frames) ∧
    (∀ s' w', x.w.rst.isResumed = true → s.issueR (.barU c bop lty true acq a br sd sn) = .go x → x.s.arrive x.w 16 br red ls 0#32 = .ok s' w' →
      x.w.mapstore = false →
      let b := w'.bar br
      ∃ w1, exec (.barU c bop lty true acq a br sd sn) s = .next (({ s' with ids := s'.ids + 1 } : State).setCore x.core w1) ∧
        w1.rst = .barrier br b.gen ∧ w1.acts = w'.acts ∧ w1.dq = w'.dq ∧ w1.s = w'.s ∧ w1.frames = w'.frames ∧
        w1.bar br = (w'.setBar br { b with waiters := b.waiters ++ [⟨16, 0, b.gen, 0#32, none, acq⟩],
                                           sregs := if sd && !b.sregs.contains sn.toNat then b.sregs ++ [sn.toNat] else b.sregs }).bar br) ∧
    (∀ s' w', x.w.rst.isResumed = true → s.issueR (.baraU c bop lty true a br sn) = .go x → x.s.arrive x.w 16 br red ls 0#32 = .ok s' w' →
      x.w.mapstore = false →
      ∃ w1, exec (.baraU c bop lty true a br sn) s = .next (s'.setCore x.core w1) ∧ w1.acts = w'.acts ∧ w1.dq = w'.dq ∧ w1.s = w'.s ∧
        w1.frames = w'.frames ∧ ((x.w.code.word (x.w.rpc + 16#64)).getLsbD 119 = true → w1.rpc = x.w.rpc + 16#64 ∧ w1.rst = .run))

/-- R208, R210 to R214: a core barrier releases when its arrivals reach its count less the members that have ended without arriving, and
every registered copy has arrived: its next generation is empty, its waiting splits go on with BARRIER in %wake, VEC's registers hold the
result, the s-registers it names are written, and the lanes that gave a leaf have the flags. A split whose `.acq` refresh may not be made
yet (R256, R337) waits at its instruction for that. A cluster or grid barrier does so in every workgroup of the gang or grid, once the
workgroups whose frames have all arrived or ended have arrived. That a workgroup which arrives so after a failed fill stops with party 16 is
the model's choice (log 24). An .acq waiter refreshes after the release, by log 69, and the party of MAPSTORE is by log 24. -/
def Obligations.BarrierReleases : Prop :=
  (∀ (w : Wg) (b : Bar),
    let count := fun (p : Nat → Bool) => ((List.range 17).filter p).length
    ∀ ended : Nat → Bool, (∀ p, p < 17 → (ended p = true ↔ Ended w p)) →
      (w.coreReleases b = true ↔
        b.count - count (fun p => b.members.getLsbD p && !b.arrived.getLsbD p && ended p) ≤ count (fun p => b.arrived.getLsbD p) ∧
        (∀ c ∈ b.copies, c.2 = true) ∧ (b.arrived ≠ 0#17 ∨ b.waiters ≠ []))) ∧
  (∀ (s : State) (core n : Nat) (w : Wg), n < 16 → s.onCore core = some w →
    let br := BarRef.core (BitVec.ofNat 4 n)
    let b := w.bar br
    HasBar w br → GoodWaiters b →
    (w.coreReleases b = true → ∃ t w', exec (.barrierRelease (.core core n)) s = .next t ∧ t.onCore core = some w' ∧
      Released w w' br b.red (barTree b.red 513 b.leaves).1 (barTree b.red 513 b.leaves).2) ∧
    (w.coreReleases b = false → exec (.barrierRelease (.core core n)) s = .next s)) ∧
  (∀ (s : State) (w : Wg) (ws : List Wg) (br : BarRef), br ≠ .core 0#4 → (∀ n, br ≠ .core n) →
    let b := w.bar br
    let late := b.made = false ∧ b.arrived ≠ 0#17 ∧ ∀ p < 16, b.arrived.getLsbD p = true ∨ Ended w p
    s.lateArrivals (w :: ws) br = (s.lateArrivals [w] br).lateArrivals ws br ∧
    (¬late → s.lateArrivals [w] br = s) ∧
    (late → w.mapstore = true → s.lateArrivals [w] br = s.finalFault w ⟨.mapstore, 16, 0, 0⟩) ∧
    (∀ s' w', late → w.mapstore = false → s.arriveWg w br = .ok s' w' → s.lateArrivals [w] br = s'.setWg w')) ∧
  (∀ (s : State) (gr : Grid) (gang n : Nat) (whole : Bool), s.grid? gr.id = some gr → (if whole then n < 4 ∧ gr.coop = true else n < 8) →
    let br := if whole then BarRef.grid (BitVec.ofNat 2 n) else BarRef.cluster (BitVec.ofNat 3 n)
    let i := Instr.barrierRelease (if whole then .grid gr.id n else .cluster gr.id gang n)
    let mine := fun (s : State) => s.wgs.filter (fun w => decide (w.grid = gr.id) && (whole || decide (w.gang = gang)))
    let s1 := s.lateArrivals (mine s) br
    ∀ w0 rest, mine s1 = w0 :: rest →
      let x := s1.gbar w0 br
      let size := if whole then gr.count else gr.lrec.gang
      let gone := (if whole then gr.ended else (List.range size).map (fun p => gr.lrec.gang * gang + p)).filter
        (fun k => gr.ended.contains k && !x.arrived.contains k)
      let met := size - gone.length ≤ x.arrived.length ∧ (x.arrived ≠ [] ∨ ∃ w ∈ mine s1, (w.bar br).waiters ≠ [])
      (¬met → exec i s = .next s1) ∧
      (met → ((mine s1).map (·.idx)).Nodup → (∀ w ∈ mine s1, s1.wg? w.grid w.idx = some w ∧ HasBar w br ∧ GoodWaiters (w.bar br)) →
        ∃ t, exec i s = .next t ∧
          (∀ w ∈ mine s1, ∃ w', t.wg? w.grid w.idx = some w' ∧
            Released w w' br x.red (barTree x.red size x.leaves).1 (x.flags ||| (barTree x.red size x.leaves).2)) ∧
          (∀ g1, s1.grid? gr.id = some g1 → (if whole then n < g1.gbars.length else ∃ k, g1.gang? w0.gang = some k ∧ n < k.cbars.length) →
            t.gbar w0 br = { GBar.start with gen := x.gen + 1 })))

/-- R352 to R356: FENCE with an active lane goes on only when its party's accesses in scope are performed; FRAME and CORE then pass; an
acquire refreshes the snapshot, with PACKAGE or wider scope once the frontier has reached the last stamp; a release commits, and the split
waits for the commit, and passes when that is complete. What a commit waits for is read by log 54. -/
def Obligations.FenceResults : Prop :=
  ∀ (s : State) (x : FCtx) (c : Ctl) (sc : Scope) (ord : Order), s.issueF (.fence c sc ord) = .go x →
    let i := Instr.fence c sc ord
    let passes := fun (u : State) (w : Wg) => ∃ t fr, exec i s = .next t ∧ t = u.setCore x.core ((w.setFrame x.f fr).count x.c) ∧
      Has Result.none x.act x.c.wbs 0 7 x.fr fr ∧ Went x fr (x.sp.pc + 16#64) (fun ch => ch = none)
    let fresh : Wg := { x.w with phase := { x.w.phase with s := max x.w.phase.s (x.s.frontier (dieOf x.w.core)) } }
    let rank := match sc with | .frame => 0 | .core => 1 | .cluster => 2 | .die => 3 | .package => 4 | .system => 5
    (x.act = 0#32 → passes x.s x.w) ∧
    (x.act ≠ 0#32 → x.sp.isResumed = false → ∀ r ∈ x.w.reqs, r.frame = x.f → r.wait &&& (x.sp.lanes ||| ~~~x.fr.live) ≠ 0#32 → r.drains sc = false) ∧
    (x.act ≠ 0#32 → x.sp.isResumed = false → rank < 2 → passes x.s x.w) ∧
    (x.act ≠ 0#32 → x.sp.isResumed = false → rank = 2 ∨ rank = 3 → ord = .acq → passes (x.s.refresh x.w.grid x.w.idx) fresh) ∧
    (x.act ≠ 0#32 → x.sp.isResumed = false → 4 ≤ rank → ord = .acq → exec i s = .next x.awaitLast) ∧
    (x.act ≠ 0#32 → x.sp.isResumed = false → 2 ≤ rank → ord ≠ .acq →
      exec i s = .next (x.commit (if sc = .system then .system else if sc = .package ∨ ord = .sc then .package else .die) (decide (ord ≠ .rel)))) ∧
    (x.act ≠ 0#32 → x.sp.isResumed = true → passes x.s x.w)

/-- R332, R334, R341, R342: the commit of a phase takes the next stamp T, makes every version of the phase on this package visible under T,
and opens the next phase, plain, at T; a transactional phase that meets a conflict is discarded instead, takes no stamp, and its next phase
opens at the die's frontier. R336, R343, R353, R263, R265: a commit is complete when the frontier that its reach names has come to its
stamp: its split goes on, or its action ends with its status, its copy is published, or its PUBLISH writes its status. Before that nothing
happens. The flags of ATOMN are applied by log 23. -/
def Obligations.Commits : Prop :=
  (∀ (s : State) (g i : Nat) (w : Wg), s.wg? g i = some w →
    let k := s.commitPhase g i
    let tag := w.core * 2 ^ 40 + Tab.get 0 s.seq w.core
    let bad := w.phase.tx && s.dev.conflicts w.phase.s (s.last + 1) (s.dev.written (.phase w.phase.tag))
    (bad = false → k.outcome = 0 ∧ k.stamp = s.last + 1 ∧ k.s.last = s.last + 1 ∧
      k.s.dev = { s.dev with vers := s.dev.vers.map (fun v => if v.owner = .phase w.phase.tag then { v with owner := .committed (s.last + 1), frozen := false } else v) } ∧
      ∃ w', k.s.wg? g i = some w' ∧ w' = { w with phase := ⟨tag, s.last + 1, false⟩ }) ∧
    (bad = true → k.outcome = 1 ∧ k.stamp = 0 ∧ k.s.last = s.last ∧
      k.s.dev = { s.dev with vers := s.dev.vers.filter (fun v => decide (v.owner ≠ .phase w.phase.tag)) } ∧
      ∃ w', k.s.wg? g i = some w' ∧ w' = { w with phase := ⟨tag, max w.phase.s (s.frontier (dieOf w.core)), false⟩ })) ∧
  (∀ (s : State) (k : Commit), s.commits.find? (fun c => decide (c.id = k.id)) = some k →
    let done := (match k.reach with
      | .die => k.stamp ≤ s.frontier k.die
      | .here | .front => (match s.commitWg k with
        | some w => (∃ v, s.onCore w.core = some v ∧ v.is w.grid w.idx = true) ∧ k.stamp ≤ s.frontier (dieOf w.core)
        | none => k.stamp ≤ s.frontier k.die)
      | _ => k.stamp ≤ s.pkgFrontier) ∧
      (k.reach = .system → ∀ n ∈ k.peers, ∀ p ∈ s.peerCms, p.id ≠ n)
    let rest := s.commits.filter (fun c => decide (c.id ≠ k.id))
    (¬done → exec (.commitComplete k.id) s = .next s) ∧
    (done → (∀ p acq w, k.who = .party p acq → p.frame ≠ 16 → s.wg? p.grid p.wg = some w → w.atomnFlags = [] → ∀ fr, w.frame? p.frame = some fr →
      exec (.commitComplete k.id) s = .next ((if acq = true then ({ s with commits := rest } : State).refresh p.grid p.wg else { s with commits := rest }).updWg p.grid p.wg (fun v => (v.committed k.reach).resumeParty p.frame k.id)) ∧
      ((w.committed k.reach).resumeParty p.frame k.id).frame? p.frame =
        some (fr.mapSplits (fun q => if q.st = .commit k.id then { q with st := .resumed k.id } else q)))) ∧
    (done → (∀ g i n w a dst, k.who = .act g i n → s.wg? g i = some w → w.atomnFlags = [] → w.acts.find? (fun b => decide (b.id = n)) = some a →
      a.kind = .txend dst false → ∃ t w', exec (.commitComplete k.id) s = .next t ∧ t.commits = rest ∧ t.wg? g i = some w' ∧
        w'.sreg dst = a.status ∧ w'.acts = w.acts.filter (fun b => decide (b.id ≠ n)) ∧ ∀ p ∈ w'.pend, p.src ≠ .act n)) ∧
    (done → (∀ g i reg v pos c n w, k.who = .publish g i reg v pos c n → s.wg? g i = some w → ∃ t w', exec (.commitComplete k.id) s = .next t ∧ t.commits = rest ∧
      t.wg? g i = some w' ∧ (c, n) ∉ w'.groups ∧ (reg = none → w'.s = w.s) ∧
      ∀ r, reg = some r → w'.sreg r = v ∧ (∀ m, m ≠ r → w'.sreg m = w.sreg m) ∧ ∀ p ∈ w'.pend, p.src ≠ .act k.id)) ∧
    (done → (∀ g i n w y, k.who = .copy g i n → s.wg? g i = some w → w.copies.find? (fun y => decide (y.id = n)) = some y →
      ∃ t w', exec (.commitComplete k.id) s = .next t ∧ t.commits = rest ∧ t.wg? g i = some w' ∧ (y.cluster, y.group) ∉ w'.groups ∧
        w'.copies = w.copies.map (fun z => if z.id = n then { y with st := .published, group := 0 } else z))) ∧
    (done → (∀ q n, k.who = .packet q n → exec (.commitComplete k.id) s = .next { s with commits := rest, pktCopies := s.pktCopies.map (fun y =>
      if y.pkt = some (q, n) then { y with st := .published, group := 0 } else y) })))

/-- R303, R337, R340, R341, R344, R355: FENCE.u, PHASE, TXBEGIN, TXEND, TXABORT, SNAP and LAUNCH pass at once, and leave an action that
takes effect once every frame has taken their entry; a status is pending until then. A LAUNCH record that is misaligned or beyond the extent
faults. R341, R344: the first action of a workgroup takes effect when it is ready: TXABORT discards a transaction, takes no stamp and leaves
the snapshot; SNAP pins the snapshot and writes it, or 0 where eight pins are held; an acquiring fence of CLUSTER or DIE scope refreshes the
snapshot. PHASE, TXBEGIN and TXEND commit the phase (R334, R340 to R343): the next one opens at the commit's stamp, transactional after
TXBEGIN, and a transaction that conflicts is discarded; the action waits for the commit, TXEND with the status of the transaction, or of the
one that the core kept. LAUNCH checks its record and is accepted, or not (R303, R304). U actions begin one at a time, the model's choice
(log 53); EARLY of outcome 2 and the clearing of the kept outcome are its readings (log 40), and the stamp at which LAUNCH finds its code is
log 35. -/
def Obligations.UActions : Prop :=
  (∀ (s : State) (x : RCtx) (c : Ctl) (dst : BitVec 7), x.on = true →
    let leaves := fun (i : Instr) (k : ActKind) (late : Bool) =>
      ∃ t, exec i s = .next t ∧
        CompletesU x t { x.s with ids := x.s.ids + 1 }
          { x.w with acts := x.w.acts ++ [⟨x.s.ids, x.w.place, k, x.w.rpc, false, 0#64⟩], rends := stepEnds x.w x.s.ids }
          { UOut.nop with late := if late && !x.c.wbs then [(dst.toNat, .act x.s.ids)] else [] } (x.w.rpc + 16#64)
    (∀ sc ord, s.issueR (.fenceU c sc ord) = .go x → leaves (.fenceU c sc ord) (.fence sc ord) false) ∧
    (s.issueR (.phase c) = .go x → leaves (.phase c) .phase false) ∧
    (s.issueR (.txbegin c) = .go x → leaves (.txbegin c) .txbegin false) ∧
    (s.issueR (.txend c dst) = .go x → leaves (.txend c dst) (.txend dst.toNat x.c.wbs) true) ∧
    (s.issueR (.txabort c) = .go x → leaves (.txabort c) .txabort false) ∧
    (s.issueR (.snap c dst) = .go x → leaves (.snap c dst) (.snap dst.toNat x.c.wbs) true) ∧
    (∀ a, s.issueR (.launch c dst a) = .go x → let off := (x.val true a).toNat
      (off % 64 ≠ 0 → exec (.launch c dst a) s = .next (s.raise x.core reckParty 0 x.w.rpc .align 0)) ∧
      (off % 64 = 0 → x.w.code.extent < off + 192 → exec (.launch c dst a) s = .next (s.raise x.core reckParty 0 x.w.rpc .addr 0)) ∧
      (off % 64 = 0 → off + 192 ≤ x.w.code.extent → leaves (.launch c dst a) (.launch dst.toNat off x.c.wbs) true)) ∧
    (∀ a, s.issueR (.unsnap c a) = .go x → (∀ k ∈ x.w.acts, ∀ d b, k.kind ≠ .snap d b) →
      ∃ t, exec (.unsnap c a) s = .next t ∧
        CompletesU x t x.s { x.w with pins := x.w.pins.erase (x.val true a).toNat } UOut.nop (x.w.rpc + 16#64))) ∧
  (∀ (s : State) (core : Nat) (w : Wg) (a : Act) (rest : List Act), s.onCore core = some w → w.halt = false → w.acts = a :: rest → s.actReady w a = true →
    (∀ b ∈ rest, b.id ≠ a.id) → s.wg? w.grid w.idx = some w →
    (∀ dst, a.kind = .snap dst false → ∃ w', (s.settleCore core).wg? w.grid w.idx = some w' ∧ w'.acts = rest ∧
      (w.pins.length < 8 → w'.pins = w.pins ++ [w.phase.s] ∧ w'.sreg dst = BitVec.ofNat 64 w.phase.s) ∧
      (8 ≤ w.pins.length → w'.pins = w.pins ∧ w'.sreg dst = 0#64) ∧ ∀ p ∈ w'.pend, p.src ≠ .act a.id) ∧
    (a.kind = .txabort → w.phase.tx = true → ∃ w', (s.settleCore core).wg? w.grid w.idx = some w' ∧ w'.acts = rest ∧
      w'.phase = ⟨w.core * 2 ^ 40 + Tab.get 0 s.seq w.core, w.phase.s, false⟩ ∧ (s.settleCore core).last = s.last ∧
      ∀ v ∈ (s.settleCore core).dev.vers, v.owner ≠ .phase w.phase.tag) ∧
    (a.kind = .txabort → w.phase.tx = false → ∃ w', (s.settleCore core).wg? w.grid w.idx = some w' ∧ w' = { w with acts := rest }) ∧
    (∀ sc, sc = .cluster ∨ sc = .die → a.kind = .fence sc .acq → ∃ w', (s.settleCore core).wg? w.grid w.idx = some w' ∧
      w' = { w with acts := rest, phase := { w.phase with s := max w.phase.s (s.frontier (dieOf w.core)) } }) ∧
    (a.kind = .txbegin → w.phase.tx = true → ∃ w', (s.settleCore core).wg? w.grid w.idx = some w' ∧ w' = { w with acts := rest }) ∧
    (let t := s.settleCore core
      let T := s.last + 1
      let tag := w.core * 2 ^ 40 + Tab.get 0 s.seq w.core
      let bad := w.phase.tx && s.dev.conflicts w.phase.s T (s.dev.written (.phase w.phase.tag))
      let n := s.phaseBytes w.phase.tag
      let status : Nat := if w.phase.tx then 2 ^ 63 + (if bad then 2 ^ 56 else 0) + n
        else match w.kept with | some (o, m) => 2 ^ 63 + o * 2 ^ 56 + (if o = 2 then 0 else 2 ^ 55) + m | none => 2 ^ 63 + 3 * 2 ^ 56
      let ends := ∃ d b, a.kind = .txend d b
      a.kind = .phase ∨ (a.kind = .txbegin ∧ w.phase.tx = false) ∨ ends → (∀ c, s.ctx? (s.ctxOfWg w) = some c → c.replay = none) →
      ∃ w', t.wg? w.grid w.idx = some w' ∧
        (∃ c ∈ t.commits, c.who = .act w.grid w.idx a.id ∧ c.reach = .package ∧ c.stamp = if bad then 0 else T) ∧
        (bad = false → t.last = T ∧ t.dev = s.dev.reown (.phase w.phase.tag) (.committed T) ∧ w'.phase = ⟨tag, T, decide (a.kind = .txbegin)⟩) ∧
        (bad = true → t.last = s.last ∧ t.dev = s.dev.discard (.phase w.phase.tag) ∧ w'.phase = ⟨tag, max w.phase.s (s.frontier (dieOf w.core)), false⟩) ∧
        (ends → w'.kept = none ∧ w'.acts = { a with begun := true, status := BitVec.ofNat 64 status } :: rest) ∧
        (¬ends → w'.kept = (if w.phase.tx then some (if bad then 1 else 0, n) else w.kept) ∧ w'.acts = { a with begun := true } :: rest)) ∧
    (∀ dst off g, a.kind = .launch dst off false → s.grid? w.grid = some g →
      let r := recordOf (Tab.readBytes w.slice off 192)
      let t := s.settleCore core
      let measured := ∃ q, s.queue? g.queue = some q ∧ q.desc.measured = true
      let place := s.checkPlace r (partAdmits g.ptop (recChild g.lrec) r) (s.ctxOf g) (dieOf w.core) s.last
      let denied := fun (e : Nat) => t.grids = s.grids ∧ ∃ w', t.wg? w.grid w.idx = some w' ∧ w'.acts = rest ∧ (∀ p ∈ w'.pend, p.src ≠ .act a.id) ∧
        w'.sreg dst = BitVec.ofNat 64 (2 ^ 63 + e * 2 ^ 56)
      let right := launchBad (s.feature 4) r = false ∧ (r.flags.testBit 2 = false ∨ g.system = true) ∧ ¬measured
      (launchBad (s.feature 4) r = true → denied 0x01) ∧
      (launchBad (s.feature 4) r = false → (r.flags.testBit 2 = true ∧ g.system = false) ∨ measured → denied 0x02) ∧
      (right → g.prio < recPrio r → denied 0x03) ∧
      (∀ e, right → recPrio r ≤ g.prio → place = .error e → denied e) ∧
      (∀ o, right → recPrio r ≤ g.prio → place = .ok o → ∃ g' w', t.grids = s.grids ++ [g'] ∧ g'.lrec = r ∧ g'.code = o ∧ g'.st = .pending ∧ g'.queue = g.queue ∧
        g'.packet = none ∧ g'.placed = 0 ∧ g'.die = dieOf w.core ∧ t.lastGrid = g'.id ∧ t.wg? w.grid w.idx = some w' ∧ w'.acts = rest ∧
        w'.sreg dst = BitVec.ofNat 64 (2 ^ 63 + g'.id) ∧ ∀ p ∈ w'.pend, p.src ≠ .act a.id)))

/-- R330, R346, R426, R427, R429: an entry of the phase table reaches a die; the remote package gives a phase its own stamp and makes it
visible there, and the commit is acknowledged, or lost where no port leads there; the commit of another package's phase takes a stamp of the
package that it reaches, and makes that phase visible there, where a port of that package is ready (R424); the collector folds what no
snapshot can tell apart, so that every snapshot at or above the limit reads as before. R348: pool relief begins below 1/64 of a stack's pool
and ends above 1/32 of every one; it expires the program pin with the least stamp first, then host pins, checkpoints and transactions, and
then stalls stores; a stall of 1 ms faults VPOOL in the plain phase with the least snapshot. The fold limit is read by log 44, and the party
of VPOOL is the model's choice (log 24); the commits of other packages enter as events (log 71); an acknowledgement that can no longer come
loses the commit (log 45). -/
def Obligations.PhaseEvents : Prop :=
  ((∀ (s : State) (die stamp : Nat), die < 64 → ∃ t, exec (.phaseEntryArrival die stamp) s = .next t ∧ t = { s with phaseTab := t.phaseTab } ∧
    (∀ e, e ∈ t.phaseTab ↔ e.missing ≠ 0#64 ∧
      ((e ∈ s.phaseTab ∧ e.stamp ≠ stamp) ∨ ∃ e0 ∈ s.phaseTab, e0.stamp = stamp ∧
        e = { e0 with missing := e0.missing &&& ~~~(BitVec.ofNat 64 (2 ^ die)) }))) ∧
  (∀ (s : State) (k : PeerCm), s.peerCms.find? (fun p => decide (p.id = k.id) && p.tr.isNone) = some k → s.pkgLive k.pkg = true → k.pkg ≠ s.pkg →
    ∀ r, Assoc.at s.remotes k.pkg = some r → ∃ t, exec (.peerCommit (.ours k.id)) s = .next t ∧
      t.peerCms = s.peerCms.map (fun p => if p.id = k.id then { p with tr := some (r.last + 1) } else p) ∧
      Assoc.at t.remotes k.pkg = some ⟨r.mem.reown (.phase k.tag) (.committed (r.last + 1)), r.last + 1⟩ ∧ t.dev = s.dev ∧ t.last = s.last) ∧
  (∀ (s : State) (k : PeerCm), s.peerCms.find? (fun p => decide (p.id = k.id) && p.tr.isNone) = some k → s.pkgLive k.pkg = false →
    exec (.peerCommit (.ours k.id)) s = .next (s.loseCommit k)) ∧
  (∀ (s : State) (src tag : Nat), src ≠ s.pkg → s.pkgLive src = true → ∃ t, exec (.peerCommit (.theirs (.commit src s.pkg tag))) s = .next t ∧ t.last = s.last + 1 ∧
    t = { s with last := t.last, phaseTab := t.phaseTab, dev := s.dev.reown (.peer src tag) (.committed (s.last + 1)) }) ∧
  (∀ (s : State) (src tag : Nat), s.pkgLive src = false →
    exec (.peerCommit (.theirs (.commit src s.pkg tag))) s = .next s ∧ exec (.peerCommit (.theirs (.discard src s.pkg tag))) s = .next s) ∧
  (∀ (s : State) (src pkg tag : Nat) (r : Remote), src ≠ s.pkg → pkg ≠ s.pkg → Assoc.at s.remotes pkg = some r →
    ∃ t, exec (.peerCommit (.theirs (.commit src pkg tag))) s = .next t ∧ t = { s with remotes := t.remotes } ∧
      Assoc.at t.remotes pkg = some ⟨r.mem.reown (.peer src tag) (.committed (r.last + 1)), r.last + 1⟩) ∧
  (∀ (s : State) (src pkg tag : Nat), (pkg = s.pkg → s.pkgLive src = true) →
    exec (.peerCommit (.theirs (.discard src pkg tag))) s = .next (s.setMemOf pkg ((s.memOf pkg).discard (.peer src tag)))) ∧
  (∀ (s : State) (k : PeerCm), s.peerCms.find? (fun p => decide (p.id = k.id) && p.tr.isSome) = some k →
    exec (.peerFrontierAck k.id) s =
      .next (if s.pkgLive k.pkg = true then { s with peerCms := s.peerCms.filter (fun p => decide (p.id ≠ k.id)) } else s.loseCommit k)) ∧
  (∀ (s : State) (gran : Nat), ∃ t, exec (.collector gran) s = .next t ∧ t = { s with dev := { t.dev with beads := s.dev.beads } } ∧
    (∀ v, v ∈ t.dev.vers → v ∈ s.dev.vers) ∧
    (∀ v ∈ s.dev.vers, v.gran ≠ gran ∨ (∀ n, v.owner ≠ .committed n) ∨ (∃ n, v.owner = .committed n ∧ s.foldLimit < n) → v ∈ t.dev.vers) ∧
    ∀ lim pa, s.foldLimit ≤ lim → t.dev.byteAt (some lim) pa = s.dev.byteAt (some lim) pa)) ∧
  ((∀ (s : State), s.lowPool = true → s.poolHigh = true → exec .poolRelief s = .next { s with lowPool := false, relief := none }) ∧
  (∀ (s : State), s.lowPool = false → s.poolLow = false → exec .poolRelief s = .next s) ∧
  (∀ (s : State) (P : Nat) (w : Wg), (s.lowPool = true ∧ s.poolHigh = false ∨ s.lowPool = false ∧ s.poolLow = true) → minOf s.livePins = some P →
    s.wgs.find? (fun w => w.pins.contains P) = some w →
    exec .poolRelief s = .next (({ s with lowPool := true } : State).updWg w.grid w.idx (fun w => { w with pins := w.pins.erase P, expired := w.expired + 1 }))) ∧
  (∀ (s : State) (P : Nat), (s.lowPool = true ∧ s.poolHigh = false ∨ s.lowPool = false ∧ s.poolLow = true) → s.livePins = [] →
    minOf s.liveHostPins = some P →
      exec .poolRelief s = .next (({ s with lowPool := true } : State).expireHostPin P) ∧
      ∃ pre p post, s.hostPins = pre ++ p :: post ∧ p.stamp = P ∧ p.expired = false ∧ (∀ q ∈ pre, q.stamp = P → q.expired = true) ∧
        exec .poolRelief s = .next { s with lowPool := true, hostPins := pre ++ { p with expired := true } :: post }) ∧
  (∀ (s : State) (ck : Nat), (s.lowPool = true ∧ s.poolHigh = false ∨ s.lowPool = false ∧ s.poolLow = true) → s.livePins = [] → s.liveHostPins = [] →
    minOf s.liveCkpts = some ck → exec .poolRelief s = .next (({ s with lowPool := true } : State).expireCkpt ck)) ∧
  (∀ (s : State) (n ck : Nat) (c : Ctx) (pre post : List Ckpt) (k : Ckpt), Assoc.at s.ctxs n = some c → (∀ p ∈ s.ctxs, p.1 ≠ n → ∀ c', p.2 = some c' →
      ∀ q ∈ c'.ckpts, q.ck = ck → q.expired = true) → c.ckpts = pre ++ k :: post → k.ck = ck → k.expired = false → (∀ q ∈ pre, q.ck = ck → q.expired = true) →
    (s.ctxs.map (·.1)).Nodup →
    ∃ c', Assoc.at (s.expireCkpt ck).ctxs n = some c' ∧ DbgReport.expired ck ∈ c'.reports ∧
      c'.ckpts = pre ++ { k with expired := true, wgs := [], parked := [], held := [], grids := [], frozen := [] } :: post) ∧
  (∀ (s : State) (w : Wg), (s.lowPool = true ∧ s.poolHigh = false ∨ s.lowPool = false ∧ s.poolLow = true) → s.livePins = [] → s.liveHostPins = [] →
    s.liveCkpts = [] → s.lowestPhase (fun w => w.phase.tx) = some w →
    exec .poolRelief s = .next (({ s with lowPool := true } : State).abortTx w.grid w.idx true)) ∧
  (∀ (s : State), (s.lowPool = true ∧ s.poolHigh = false ∨ s.lowPool = false ∧ s.poolLow = true) → s.livePins = [] → s.liveHostPins = [] →
    s.liveCkpts = [] → (∀ w ∈ s.wgs, w.phase.tx = false) → s.relief = none →
    exec .poolRelief s = .next { s with lowPool := true, relief := some s.tick }) ∧
  (∀ (s : State) (n : Nat) (w : Wg), s.relief = some n → n + 1000000 ≤ s.tick → s.poolHigh = false → s.lowestPhase (fun w => !w.phase.tx) = some w →
    exec .vpoolTimeout s = .next (({ s with relief := some s.tick } : State).finalFault w ⟨.vpool, 0xFF, 0, 0⟩)) ∧
  (∀ (s : State) (n : Nat), s.relief = some n → s.tick < n + 1000000 → exec .vpoolTimeout s = .next s))

/-! ### System instructions and the debugger -/

/-- R188 to R190, R253, R345: SRD gives each active lane the register that it names, a wide one in a pair, tagged INT, and a read of %wake,
%pins or of the core's %sigin clears what the rule says; SRD.u gives the reckoner's view in an s-register. %cycle and %tick are inputs of
the replay log (R190, R410): their reads wait for room in it: one that an active lane makes does not issue before there is, and a replay
gives the logged value, which for the reckoner is found by its place in the program (the model's choice, log 63). With no active lane SRD
reads and clears nothing. R191, R108: SWR writes %fpst in its active lanes, or %prio from its lowest active lane, and ignores every other
register. A replay finds the logged value of %cycle and %tick by the place in the program (log 63). -/
def Obligations.SpecialRegisters : Prop :=
  ((∀ (s : State) (x : FCtx) (c : Ctl) (dst : BitVec 7) (num : BitVec 8), WellFormed (.srd c dst num) = true →
    s.issueF (.srd c dst num) = .go x → x.act ≠ 0#32 →
    let ctx := s.ctxOfWg x.w
    let logged := num = 0x21#8 ∨ num = 0x22#8
    let wide := num = 0x10#8 ∨ num = 0x11#8 ∨ 0x20 ≤ num.toNat
    let v := fun l => match (if logged then s.expects ctx (LogEntry.isInputOf x.w.home false x.w.retired 32) else none) with
      | some (.input _ _ _ _ _ vs) => vs.getD 0 0
      | _ => x.specialAt num.toNat l
    let r := Result.many (if wide then 2 else 1) .int (fun j l => BitVec.ofNat 32 (v l / 2 ^ (32 * j))) (fun _ => flagNone)
    let fr0 := if num = 0x1A#8 then { x.fr with wake := 0#7 } else x.fr
    let w0 : Wg := { x.w with expired := if num = 0x12#8 then 0 else x.w.expired }
    (logged → s.logRoom ctx = true) ∧
    (∃ t fr, exec (.srd c dst num) s = .next t ∧ t = { x.s.setCore x.core ((w0.setFrame x.f fr).count x.c) with
        ctxs := t.ctxs, hostMem := t.hostMem, sigin := if num = 0x13#8 then Tab.set 0#32 x.s.sigin x.core 0#32 else x.s.sigin } ∧
      (¬logged ∨ (∀ k, s.ctx? ctx = some k → k.recording = false ∧ k.replay = none) → t.ctxs = x.s.ctxs ∧ t.hostMem = x.s.hostMem) ∧
      Has r x.act x.c.wbs dst.toNat 7 fr0 fr ∧ Went x fr (x.sp.pc + 16#64) (Chained x r))) ∧
  (∀ (s : State) (x : FCtx) (c : Ctl) (dst : BitVec 7) (num : BitVec 8), WellFormed (.srd c dst num) = true →
    s.issueF (.srd c dst num) = .go x → x.act = 0#32 →
    ∃ t fr, exec (.srd c dst num) s = .next t ∧ Retired x t fr ∧ Has Result.none x.act x.c.wbs 0 7 x.fr fr ∧
      Went x fr (x.sp.pc + 16#64) (Chained x Result.none)) ∧
  (∀ (s t : State) (c : Ctl) (dst : BitVec 7) (num : BitVec 8), s.issueF (.srd c dst num) = .wait t → exec (.srd c dst num) s = .next t) ∧
  (∀ (s : State) (x : RCtx) (c : Ctl) (dst : BitVec 7) (num : BitVec 8), WellFormed (.srdU c dst num) = true →
    s.issueR (.srdU c dst num) = .go x → x.on = true →
    let ctx := s.ctxOfWg x.w
    let logged := num = 0x21#8 ∨ num = 0x22#8
    let v := match (if logged then s.expects ctx (LogEntry.isInputOf x.w.home true x.w.place 32) else none) with
      | some (.input _ _ _ _ _ vs) => vs.getD 0 0
      | _ => if num = 0x1A#8 then x.w.rwake.toNat else x.s.special x.core x.w num.toNat
    let w0 : Wg := { x.w with rwake := if num = 0x1A#8 then 0#7 else x.w.rwake, expired := if num = 0x12#8 then 0 else x.w.expired }
    (logged → s.logRoom ctx = false → exec (.srdU c dst num) s = .next x.s) ∧
    ((logged → s.logRoom ctx = true) → ∃ t, exec (.srdU c dst num) s = .next t ∧
      (¬logged ∨ (∀ k, s.ctx? ctx = some k → k.recording = false ∧ k.replay = none) → t.ctxs = x.s.ctxs ∧ t.hostMem = x.s.hostMem) ∧
      CompletesU x t { x.s with ctxs := t.ctxs, hostMem := t.hostMem, sigin := if num = 0x13#8 then Tab.set 0#32 x.s.sigin x.core 0#32 else x.s.sigin } w0
        (outU x.c.wbs dst.toNat (BitVec.ofNat 64 v)) (x.w.rpc + 16#64))) ∧
  (∀ (x : FCtx) (l n : Nat), n ∉ [0x00, 0x01, 0x02, 0x03, 0x18, 0x19, 0x1A, 0x1B] → x.specialAt n l = x.s.special x.core x.w n) ∧
  (∀ (x : FCtx) (l : Nat) (g : Grid), x.s.grid? x.w.grid = some g → x.specialAt 0x0B l = g.placed ∧
    (∀ k, g.gang? x.w.gang = some k → x.specialAt 0x0C l < 2 ^ 28 ∧
      ∀ p, p < 4 → x.specialAt 0x0C l / 2 ^ (7 * p) % 128 = (match k.cores[p]? with | some c => c % 96 | none => 0x7F))) ∧
  (∀ (x : FCtx) (l : Nat), [(0x00, l), (0x01, l / 4), (0x02, x.f), (0x03, x.f % 4), (0x04, x.core % 96), (0x05, x.core % 96 / 4), (0x06, x.core / 96),
      (0x07, x.s.pkg), (0x08, x.w.idx), (0x09, x.w.gang), (0x0A, x.w.pos), (0x10, x.w.phase.s), (0x11, (if x.w.phase.tx then 2 ^ 63 else 0) + x.w.phase.tag % 2 ^ 53),
      (0x12, min 255 x.w.expired * 256 + x.w.pins.length),
      (0x13, (Tab.get 0#32 x.s.sigin x.core).toNat), (0x18, (x.fr.flagsOf l).toNat), (0x19, x.fr.fmask.toNat), (0x1A, x.fr.wake.toNat), (0x1B, x.fr.prio.toNat),
      (0x20, x.w.retired), (0x21, x.s.tick * 4 / 5), (0x22, x.s.tick)].all (fun p => decide (x.specialAt p.1 l = p.2)) = true)) ∧
  (∀ (s : State) (x : FCtx) (c : Ctl) (a : Src) (num : BitVec 8), WellFormed (.swr c a num) = true → s.issueF (.swr c a num) = .go x →
    ∃ t fr, exec (.swr c a num) s = .next t ∧ Retired x t fr ∧ Went x fr (x.sp.pc + 16#64) (Chained x Result.none) ∧
      { fr.regs with fpst := x.fr.fpst, prio := x.fr.prio } = x.fr.regs ∧
      (∀ l, l < 32 → fr.flagsOf l = if num = 0x18#8 ∧ x.act.getLsbD l = true then (x.raw a 0 l).setWidth 5 else x.fr.flagsOf l) ∧
      fr.prio = (match (lanesOf x.act).head? with | some l => if num = 0x1B#8 then (x.raw a 0 l).setWidth 2 else x.fr.prio | none => x.fr.prio))

/-- R299 to R302: TFETCH holds the reckoner; TILE_GRANT writes the index that the dispenser grants, the lowest of the die's own range where
it has one, else of the upper half that it takes from the die with the most indices left, and its coordinates, or all ones when the space is
exhausted. In a replay it writes the tile that the log gives (R412), and while the log has none for it the grant waits, where a tile is left
that no logged grant takes (log 87). COORD gives every index coordinates inside the space. R403 to R405, R409: TRACEMARK puts a record of
its code and its value into the context's ring; CKPT asks for a checkpoint where one may be taken; with no active lane both pass. The
indexes of a trace ring are the model's choice (log 27). -/
def Obligations.TileAndMarkResults : Prop :=
  ((∀ (s : State) (x : RCtx) (c : Ctl) (dst : BitVec 7), s.issueR (.tfetch c dst) = .go x → x.on = true →
    exec (.tfetch c dst) s = .next (({ x.s with ids := x.s.ids + 1 } : State).setCore x.core { x.w with rst := .commit x.s.ids })) ∧
  (∀ (s : State) (core : Nat) (w : Wg) (g : Grid) (c : Ctl) (dst : BitVec 7), s.onCore core = some w → s.grid? w.grid = some g →
    w.tfetchAt = some (c, dst) → (∀ k, s.ctx? (s.ctxOf g) = some k → k.replay = none) → s.logRoom (s.ctxOf g) = true →
    let r := g.grant (dieOf core)
    let vs := match r.1 with
      | some n => [BitVec.ofNat 64 n, BitVec.ofNat 64 (coord g.lrec n).1, BitVec.ofNat 64 (coord g.lrec n).2.1, BitVec.ofNat 64 (coord g.lrec n).2.2]
      | none => [0xFFFFFFFFFFFFFFFF#64, 0xFFFFFFFFFFFFFFFF#64, 0xFFFFFFFFFFFFFFFF#64, 0xFFFFFFFFFFFFFFFF#64]
    ∃ t w', exec (.tileGrant core) s = .next t ∧ t.onCore core = some w' ∧ t.grid? g.id = some r.2 ∧
      HasU { UOut.nop with regs := if c.wbs then [] else (vs.zipIdx dst.toNat).map (fun p => (p.2, p.1)) } (w.rpc + 16#64) w w') ∧
  (∀ (s : State) (core : Nat) (w : Wg) (g : Grid), s.onCore core = some w → s.grid? w.grid = some g → s.logRoom (s.ctxOf g) = false →
    exec (.tileGrant core) s = .next s) ∧
  (∀ (s : State) (core : Nat) (w : Wg) (g : Grid) (c : Ctl) (dst : BitVec 7) (k : Ctx) (r : ReplaySt), s.onCore core = some w → s.grid? w.grid = some g →
    w.tfetchAt = some (c, dst) → s.ctx? (s.ctxOf g) = some k → k.replay = some r → s.logRoom (s.ctxOf g) = true →
    (∀ n gr, s.expects (s.ctxOf g) (LogEntry.isGrantOf w.home) = some (.grant w.home gr n) → ∃ t w', exec (.tileGrant core) s = .next t ∧ t.onCore core = some w' ∧
      HasU { UOut.nop with regs := if c.wbs then [] else (([BitVec.ofNat 64 n, BitVec.ofNat 64 (coord g.lrec n).1, BitVec.ofNat 64 (coord g.lrec n).2.1,
        BitVec.ofNat 64 (coord g.lrec n).2.2] : List Word64).zipIdx dst.toNat).map (fun p => (p.2, p.1)) } (w.rpc + 16#64) w w') ∧
    (s.expects (s.ctxOf g) (LogEntry.isGrantOf w.home) = none → r.left ≠ [] → (∀ e ∈ r.left, ∀ a b n, e ≠ .grant a b n) → (g.grant (dieOf core)).1 ≠ none →
      exec (.tileGrant core) s = .next s)) ∧
  (∀ (g : Grid) (die lo hi : Nat), g.ranges.find? (fun p => decide (p.1 = die) && decide (p.2.1 < p.2.2)) = some (die, lo, hi) →
    (g.grant die).1 = some lo) ∧
  (∀ (g : Grid) (die : Nat), (∀ p ∈ g.ranges, p.2.2 ≤ p.2.1) → (g.grant die).1 = none) ∧
  (∀ (g : Grid) (die v : Nat),
    let left := fun (rs : List (Nat × Nat × Nat)) (d : Nat) => ((rs.filter (fun p => decide (p.1 = d))).map (fun p => p.2.2 - p.2.1)).sum
    let n := left g.ranges v
    left g.ranges die = 0 → 0 < n → (∀ d, left g.ranges d < n ∨ (left g.ranges d = n ∧ v ≤ d)) →
      (g.grant die).1 ≠ none ∧ left (g.grant die).2.ranges die = (n + 1) / 2 - 1 ∧ left (g.grant die).2.ranges v = n / 2 ∧
      ∀ d, d ≠ die → d ≠ v → left (g.grant die).2.ranges d = left g.ranges d) ∧
  (∀ (r : LaunchRec) (n : Nat), 0 < r.x → 0 < r.y → n < r.x * r.y * r.z →
    (r.order = 0 → n = (coord r n).1 + r.x * ((coord r n).2.1 + r.y * (coord r n).2.2)) ∧
    (r.order = 0 ∨ 0 < r.g → (coord r n).1 < r.x ∧ (coord r n).2.1 < r.y ∧ (coord r n).2.2 < r.z))) ∧
  ((∀ (s : State) (x : FCtx) (c : Ctl) (a : Src) (code : BitVec 16), WellFormed (.tracemark c a code) = true → s.issueF (.tracemark c a code) = .go x →
    ∃ t fr u, exec (.tracemark c a code) s = .next t ∧ t = u.setCore x.core ((x.w.setFrame x.f fr).count x.c) ∧
      Has Result.none x.act x.c.wbs 0 7 x.fr fr ∧ Went x fr (x.sp.pc + 16#64) (Chained x Result.none) ∧
      (x.act = 0#32 → u = x.s) ∧
      (∀ l, (lanesOf x.act).head? = some l → u = x.s.traceRecord (x.s.ctxOfWg x.w)
        (x.s.recordHead (x.s.ctxOfWg x.w) 1 x.f x.w.home x.w.retired x.sp.pc.toNat x.act.toNat ++ natToBytes 2 code.toNat ++ natToBytes 2 0 ++
          natToBytes 4 (x.raw a 0 l).toNat ++ natToBytes 28 0))) ∧
  (∀ (s : State) (x : FCtx) (c : Ctl), WellFormed (.ckpt c) = true → s.issueF (.ckpt c) = .go x →
    ∃ t fr u, exec (.ckpt c) s = .next t ∧ t = u.setCore x.core ((x.w.setFrame x.f fr).count x.c) ∧
      Has Result.none x.act x.c.wbs 0 7 x.fr fr ∧ Went x fr (x.sp.pc + 16#64) (Chained x Result.none) ∧ u = { x.s with ctxs := u.ctxs } ∧
      (x.act = 0#32 → u = x.s) ∧
      (∀ k, x.act ≠ 0#32 → s.ctx? (s.ctxOfWg x.w) = some k →
        u.ctx? (s.ctxOfWg x.w) = some { k with asked := k.asked || (decide (k.interval ≠ 0) && k.replay.isNone) })) ∧
  (∀ (s : State) (ctx : Nat) (bs : List Byte) (k : Ctx) (r : Ring), s.ctx? ctx = some k → k.ring = some r → bs.length = 64 →
    let h := r.func * 2 ^ 20
    let wr := s.hostLE h r.base 8
    let rd := s.hostLE h (r.base + 8) 8
    let slots := (2 ^ r.log2 - 64) / 64
    let put := fun (m : Tab Byte) (a : Nat) (v : List Byte) => storeBytes m (hostKey h a) v
    (wr < rd + slots →
      s.traceRecord ctx bs = { s with hostMem := put (put s.hostMem (r.base + 64 + 64 * (wr % slots)) bs) r.base (natToBytes 8 (wr + 1)) }) ∧
    (rd + slots ≤ wr →
      s.traceRecord ctx bs = { s with hostMem := put s.hostMem (r.base + 16) (natToBytes 8 (s.hostLE h (r.base + 16) 8 + 1)) })))

/-- R322, R393, R394, R419: TLBINV removes the entries that it names, those of every package tag that cover its address mod 2^48, with no
check of R309 (the model's choice, log 82), and waits for walks that had begun; CSAVE and CREST write their status, and wait while a
checkpoint of the context of the workgroup that they name is pending, their split marked as one that waits (log 49); SIGNAL posts an event
to a core, sets INTR in the %wake of each of its waiting parties and ends their SLEEPs, and is dropped where no workgroup stands. R394:
CSAVE of a core without a workgroup reports 1, of the caller's own grid 2, of a gang or a COOP grid 3; any other workgroup leaves its core
and is held with its image at the save area. CREST of an area that holds no image reports 6, onto a core that is out of service or busy 4,
and outside the grid's partition 5; any other image is restored on the core, with the slice and the registers that the image holds. What
lands in the slice of a saved workgroup, parked or held, is in its image (R313, R389). Corners of the image and of TLBINV are the model's
readings (log 38, log 39, log 65, log 82), and that CSAVE and CREST wait for a pending checkpoint is log 49. -/
def Obligations.PrivilegedResults : Prop :=
  (∀ (s : State) (x : FCtx) (c : Ctl) (a : Src),
    let passes := fun (i : Instr) (u : State) => ∃ t fr, exec i s = .next t ∧ t = u.setCore x.core ((x.w.setFrame x.f fr).count x.c) ∧
      Has Result.none x.act x.c.wbs 0 7 x.fr fr ∧ Went x fr (x.sp.pc + 16#64) (fun _ => True)
    (∀ scope, let i := Instr.tlbinv c a scope
      s.issueF i = .go x →
      let ctx := x.s.ctxOfWg x.w
      let cut : State := { x.s with tlb := x.s.tlb.filter (fun e => !tlbNamed scope.toNat x.core ctx ((x.addrLow a).toNat % 2 ^ 48) e) }
      (x.act = 0#32 ∨ x.sp.isResumed = true → passes i x.s) ∧
      (x.act ≠ 0#32 → x.sp.isResumed = false → x.s.walks.any (walkNamed scope.toNat x.core ctx) = false → passes i cut) ∧
      (x.act ≠ 0#32 → x.sp.isResumed = false → x.s.walks.any (walkNamed scope.toNat x.core ctx) = true →
        let late : State := { cut with ids := x.s.ids + 1, walks := x.s.walks.map (fun k =>
                                if walkNamed scope.toNat x.core ctx k then { k with stale := x.s.ids :: k.stale } else k) }
        exec i s = .next (late.setCore x.core (x.w.setFrame x.f (x.fr.setSplit { x.sp with st := .blocked x.s.ids }))))) ∧
    (∀ (f : State → Wg → Nat → Nat × State) (v : Nat → Option Wg) i,
      (i = .csave c a ∧ f = State.csave ∧ v = (fun pa => x.s.onCore (x.s.dev.newestLE (pa + 0x20) 4 % 2 ^ 13)) ∨
        i = .crest c a ∧ f = State.crest ∧ v = (fun pa => Assoc.at x.s.saved pa)) → s.issueF i = .go x →
      (x.act = 0#32 → passes i x.s) ∧
      (∀ l p ps, (lanesOf x.act).head? = some l →
        ({ x with act := maskOf [l] } : FCtx).check [0] 4096 (x.raw64 true a) true false false plainVmode = .ok (p :: ps) →
        let r := f x.s x.w p.2.2.2
        let taken := r.2.last + 1
        ((∀ b, v p.2.2.2 = some b → x.s.ckptPending (x.s.ctxOfWg b) = false) → ∃ u, passes i u ∧
          u.dev = r.2.dev.put (.committed taken) (p.2.2.2 + 0x24) (natToBytes 4 r.1) ∧ u.last = taken ∧
          (∀ k, r.2.ctx? (r.2.ctxOfWg x.w) = some k → Tab.get 0 u.taker taken = r.2.ctxOfWg x.w + 1) ∧ { u with dev := r.2.dev, last := r.2.last, taker := r.2.taker, phaseTab := r.2.phaseTab } = r.2) ∧
        (∀ b, v p.2.2.2 = some b → x.s.ckptPending (x.s.ctxOfWg b) = true →
          exec i s = .next (x.s.updSplit x.core x.f x.sp.id (fun q => { q with stalled := true })))) ∧
      (∀ l e, (lanesOf x.act).head? = some l →
        ({ x with act := maskOf [l] } : FCtx).check [0] 4096 (x.raw64 true a) true false false plainVmode = .fault e →
        exec i s = .next (s.raise x.core x.f x.sp.id x.sp.pc e 0))) ∧
    (∀ ev, let i := Instr.signal c a ev
      WellFormed i = true → s.issueF i = .go x →
      ∃ u fr, u = x.s.setCore x.core ((x.w.setFrame x.f fr).count x.c) ∧ Has Result.none x.act x.c.wbs 0 7 x.fr fr ∧
        Went x fr (x.sp.pc + 16#64) (Chained x Result.none) ∧
        (x.act = 0#32 → exec i s = .next u) ∧
        (∀ l, (lanesOf x.act).head? = some l → let core := (x.raw a 0 l).toNat % 2 ^ 13
          (u.onCore core = none → exec i s = .next u) ∧
          (∀ w, u.onCore core = some w → ∃ w', exec i s = .next { u.setCore core w' with
              sigin := Tab.set 0#32 u.sigin core (Tab.get 0#32 u.sigin core ||| BitVec.ofNat 32 (2 ^ ev.toNat)) } ∧
            w' = { w with frames := w'.frames, rwake := w'.rwake, rst := w'.rst } ∧
            (∀ f fr, w.frame? f = some fr → ∃ fr', w'.frame? f = some fr' ∧
              (fr.splits.any (fun q => !fr.isParked q.id && u.splitBlocks w f fr q) = false → fr' = fr) ∧
              (fr.splits.any (fun q => !fr.isParked q.id && u.splitBlocks w f fr q) = true →
                fr' = { fr with wake := fr.wake ||| 64#7, splits := fr.splits.map (fun p => match p.st with | .sleep _ => { p with st := .run } | _ => p) })) ∧
            (u.reckWaits w = true → w'.rwake = w.rwake ||| 64#7 ∧ w'.rst = (match w.rst with | .sleep _ => .run | st => st)) ∧
            (u.reckWaits w = false → w'.rwake = w.rwake ∧ w'.rst = w.rst))))) ∧
  (∀ (s : State) (w : Wg) (pa : Nat),
    let n := s.dev.newestLE (pa + 0x20) 4 % 2 ^ 13
    (s.onCore n = none → s.csave w pa = (1, s)) ∧
    (∀ v g, s.onCore n = some v → s.grid? v.grid = some g →
      (v.grid = w.grid → s.csave w pa = (2, s)) ∧
      (v.grid ≠ w.grid → 1 < g.lrec.gang ∨ g.coop = true → s.csave w pa = (3, s)) ∧
      (v.grid ≠ w.grid → g.lrec.gang ≤ 1 → g.coop = false →
        (s.csave w pa).1 = 0 ∧ (s.csave w pa).2.onCore n = none ∧ ∃ v' img, Assoc.at (s.csave w pa).2.saved pa = some v' ∧
          v'.grid = v.grid ∧ v'.idx = v.idx ∧ v'.halt = true ∧
          (s.csave w pa).2.dev = (s.haltCore n).dev.put (.committed ((s.haltCore n).last + 1)) pa
            (v'.header 2 n 0 (Tab.get 0 (s.haltCore n).gen n) ++ img))) ∧
    (Assoc.at s.saved pa = none → s.crest w pa = (6, s)) ∧
    (∀ v, Assoc.at s.saved pa = some v → s.dev.newestLE pa 4 = 0x4E435458 → s.dev.newestLE (pa + 4) 2 = 1 → s.dev.newestLE (pa + 8) 8 = v.imgSize →
      s.dev.newestLE (pa + 6) 2 = 2 → (6144 ≤ n ∨ s.coreIn n = false ∨ n ∈ s.busyCores → s.crest w pa = (4, s)) ∧
      (∀ g, n < 6144 → s.coreIn n = true → n ∉ s.busyCores → s.grid? v.grid = some g →
        let inside := ∃ d, s.part? g.ptop (recChild g.lrec) = some d ∧ d.clusters.testBit (clusterOf n) = true
        (¬inside → s.crest w pa = (5, s)) ∧
        (inside → v.reqs = [] → (s.crest w pa).1 = 0 ∧ Assoc.at (s.crest w pa).2.saved pa = none ∧
          ∃ w', (s.crest w pa).2.onCore n = some w' ∧ w'.grid = v.grid ∧ w'.idx = v.idx ∧ w'.core = n ∧ w'.halt = false ∧ w'.s = v.s ∧ w'.rpc = v.rpc ∧
            w'.frames.length = v.frames.length ∧
            (∀ k, k < v.code.extent → Tab.get 0#8 w'.slice k = s.dev.byteAt none (pa + v.offsets.getD 7 0 + k)) ∧
            ∀ f fr l r, w'.frame? f = some fr → l < 32 → r < v.code.regs → v.code.regs ≤ 128 → fr.vreg l r =
              BitVec.ofNat 32 (s.dev.newestLE (pa + v.offsets.getD 4 0 + 128 * v.code.regs * f + 4 * (v.code.regs * l + r)) 4)))) ∧
    (∀ v sl, s.imageAt v.grid v.idx = some (v, pa) → (∀ k ∈ s.dev.vers, ∀ n, k.owner = .committed n → n ≤ s.last) →
      let t := s.setWg { v with slice := sl }
      let at_ := pa + v.offsets.getD 7 0
      ∀ k, k < v.code.extent → s.dev.byteAt none (at_ + k) = Tab.get 0#8 v.slice k → t.dev.byteAt none (at_ + k) = Tab.get 0#8 sl k))

/-- R13, R28, R29, R40, R168, R173, R197: a frame at a U word that gives way does so here too, and a yield is used up by a turn that the
frame was ready for, or is over with the entry taken; one of two or more splits faults DQMISMATCH; one split takes the entry at its read
position where the entry's word is the one it stands at: it goes to the branch's target, ends, or goes on, or faults ILLEGAL inside a chain;
another word, or none once the reckoner has stopped, faults DQMISMATCH; until there is one it waits. That the chain is tested after the
entry is the model's reading (log 7). A U word inside a chain is read by log 7. -/
def Obligations.EntryTaken : Prop :=
  ∀ (s : State) (core f id : Nat) (w : Wg) (fr : Frame) (sp : Split), s.cur = some (.frame core f id) → s.onCore core = some w →
    w.frame? f = some fr → fr.split? id = some sp → w.goes = true → sp.dbg = false → fr.isParked id = false → sp.st = .run → w.storage = none →
    s.ckptDue (s.ctxOfWg w) = false → s.replayStop w = false →
    let gives := fr.givesWay s.tick (s.splitReady core w f fr sp) (s.rivals core w f false) (s.rivals core w f true)
    (∀ fr', gives = some fr' → exec .dqEntryTake s = .next (s.setCore core (w.setFrame f fr'))) ∧
    (gives = none → 2 ≤ fr.splits.length → exec .dqEntryTake s = .next (s.raise core f id sp.pc .dqmismatch 0)) ∧
    (gives = none → fr.splits.length ≤ 1 →
    (w.entryAt fr.taken = none → w.rst ≠ .stopped → exec .dqEntryTake s = .next s) ∧
    (w.entryAt fr.taken = none → w.rst = .stopped → exec .dqEntryTake s = .next (s.raise core f id sp.pc .dqmismatch 0)) ∧
    (∀ e, w.entryAt fr.taken = some e → e.pc ≠ sp.pc → exec .dqEntryTake s = .next (s.raise core f id sp.pc .dqmismatch 0)) ∧
    (∀ e, w.entryAt fr.taken = some e → e.pc = sp.pc → sp.chain ≠ none → exec .dqEntryTake s = .next (s.raise core f id sp.pc .illegal 0)) ∧
    (∀ e, w.entryAt fr.taken = some e → e.pc = sp.pc → sp.chain = none → ∃ t w' fr', exec .dqEntryTake s = .next t ∧ t = s.setCore core w' ∧
      w' = { w with frames := w.frames.set f fr', dq := w'.dq, dqBase := w'.dqBase, maxst := w'.maxst, nz := w'.nz } ∧
      fr'.taken = fr.taken + 1 ∧ fr'.yielded = false ∧ { fr'.regs with taken := fr.taken, live := fr.live } = fr.regs ∧
      (∀ st, e.kind = .exit true st → fr'.live = 0#32 ∧ w'.maxst = ((lanesOf fr.live).map (fun _ => st.toNat)).foldl max w.maxst) ∧
      ((∀ st, e.kind ≠ .exit true st) → fr'.live = fr.live ∧ w'.maxst = w.maxst ∧ w'.nz = w.nz ∧
        ∀ l, sp.lanes.getLsbD l = true → LaneAt fr' l (match e.kind with | .branch true g => g | _ => sp.pc + 16#64))))

/-- R28, R81, R181, R189, R209, R218, R237: each of a frame's deferrals ends after its clocks; splits that all stand at one gathering
instruction merge into one, as does one that the others have left alone; a wait of 2^20 cycles faults REGANG, at the first of the frame's
splits where several have waited so long (the model's choice, log 75); a SLEEP whose count has run out ends, with TIMEOUT in %wake; a gated
core whose parties no longer all wait issues again. Time decides only by log 43, and which split faults REGANG after the time is log 75. -/
def Obligations.PartyEvents : Prop :=
  ∀ (s : State) (core f : Nat) (w : Wg) (fr : Frame), s.onCore core = some w → w.frame? f = some fr →
    (∀ ds, ds = fr.defer.filter (fun d => decide (s.tick < d.clocks)) →
      exec (.stallDeferralEnd core f) s = .next (s.setCore core (w.setFrame f { fr with defer := ds }))) ∧
    (∀ pc, w.goes = true → fr.splits ≠ [] → fr.parked = [] → fr.live ≠ 0#32 →
      (∀ p ∈ fr.splits, (∃ n, p.st = .gather n) ∧ p.pc = pc ∧ p.dbg = false) →
      (∀ l, fr.live.getLsbD l = true → ∃ p ∈ fr.splits, p.lanes.getLsbD l = true) →
      ∃ t fr', exec (.rejoinMerge core f) s = .next t ∧ t = s.setCore core (w.setFrame f fr') ∧ fr'.regs = fr.regs ∧
        ∃ p, fr'.splits = [p] ∧ p.lanes = fr.live ∧ p.pc = pc ∧ p.st = .run) ∧
    (∀ p n, w.goes = true → (∀ q ∈ fr.splits, q.dbg = false) → fr.splits.head? = some p → p.st = .gather n → 2 ^ 20 ≤ (s.tick - n) * 4 / 5 →
      exec (.gatherTimeout core f) s = .next (s.raise core f p.id p.pc .regang 0)) ∧
    (∀ id p n, fr.split? id = some p → p.st = .sleep (some n) → n ≤ s.tick * 4 / 5 →
      exec (.sleepTimeout (.frame core f id)) s =
        .next (s.setCore core (w.setFrame f { fr.setSplit { p with st := .run } with wake := fr.wake ||| 8#7 }))) ∧
    (∀ n, w.rst = .sleep (some n) → n ≤ s.tick * 4 / 5 →
      exec (.sleepTimeout (.reck core)) s = .next (s.setCore core { w with rst := .run, rwake := w.rwake ||| 8#7 })) ∧
    (w.gated = true → s.idle w = false → exec (.clockWake core) s = .next (s.setCore core { w with gated := false }))

/-- R92, R93, R181, R280, R400, R402: the debugger attaches, which ends every SLEEP with DEBUG in %wake, reads a register or a service flag
word, lets a stopped party issue one instruction, which wakes one that sleeps, lets a context go on, and detaches; a breakpoint stops a
split with an active lane before its instruction. R408, R410, R411: when an interval ends, or CKPT has asked, the gangs of the context halt
and the checkpoint's stamp is fixed, once more when what had left their cores has been performed and every final commit in progress has
ended with its record (log 49); it is taken once the package frontier has reached that and no commit of the gangs is on its way; a rollback
to a checkpoint that has expired is refused, and one over another context's commits on its pages too; nothing that had left the cores of a
context that is rolled back is still on its way (log 86); the read index of the log moves up. Corners of checkpoints are the model's
readings (log 49), and a request of the debugger wakes sleepers by log 70. -/
def Obligations.DebuggerEvents : Prop :=
  ((∀ (s : State) (ctx : Nat) (k : Ctx), s.ctx? ctx = some k → ∃ t, exec (.debugAttach ctx) s = .next t ∧ t.ctx? ctx = some { k with attached := true } ∧
    t = ({ s with ctxs := t.ctxs } : State).debugWake ctx ∧
    ∀ core w, s.onCore core = some w → s.ctxOfWg w = ctx → t.onCore core = some (w.wakeAll 32#7)) ∧
  (∀ (s : State) (core f id : Nat) (w : Wg) (fr : Frame) (p : Split), s.onCore core = some w → w.frame? f = some fr → fr.split? id = some p →
    (s.attached w = true → w.stopped p = true →
      exec (.debugStep (.frame core f id)) s =
        .next (s.setCore core (w.setFrame f ((fr.setSplit { p with dbg := false, step := true, ends := none }).unhold s.tick)))) ∧
    (∀ n, p.st = .sleep n → s.attached w = true →
      let p' : Split := { p with st := .run }
      let fr' : Frame := { fr.setSplit p' with wake := fr.wake ||| 32#7 }
      exec (.debugStep (.frame core f id)) s = .next (s.setCore core (w.setFrame f
        (if w.stopped p' then (fr'.setSplit { p' with dbg := false, step := true, ends := none }).unhold s.tick else fr')))) ∧
    (∀ e, w.breakAt p.pc = some e → s.attached w = true → w.goes = true → p.dbg = false → p.pc.toNat ∉ p.skipB → fr.isParked id = false → p.st = .run →
      w.standsActive fr p = true →
      exec (.breakpointHit (.frame core f id)) s =
        .next (s.debugStop core f { p with skipB := p.pc.toNat :: p.skipB } 0x10 0xFFFF (e.getLsbD 1)))) ∧
  (∀ (s : State) (core : Nat) (w : Wg), s.onCore core = some w → s.attached w = true →
    let ended := ∀ id, w.rends = some id → (∀ a ∈ w.acts, a.id ≠ id) ∧ (∀ o ∈ w.slotOps, o.id ≠ id) ∧ (∀ k ∈ w.copies, k.id ≠ id) ∧ ∀ k ∈ s.commits, k.id ≠ id
    ((∀ n, w.rst ≠ .sleep n) →
      (w.rdbg = true → ended → exec (.debugStep (.reck core)) s = .next (s.setCore core { w with rdbg := false, rstep := true, rends := none })) ∧
      (w.rdbg = false ∨ ¬ended → exec (.debugStep (.reck core)) s = .next (s.setCore core w))) ∧
    (∀ n, w.rst = .sleep n →
      let w1 := { w with rst := .run, rwake := w.rwake ||| 32#7 }
      exec (.debugStep (.reck core)) s = .next (s.setCore core
        (if s.reckStopped w1 = true then { w1 with rdbg := false, rstep := true, rends := none } else w1)))) ∧
  (∀ (s : State) (ctx core : Nat) (w : Wg), s.onCore core = some w → s.ctxOfWg w = ctx →
    ∃ t w', exec (.debugResume ctx) s = .next t ∧ t.onCore core = some w' ∧ w'.rdbg = false ∧ w'.slice = w.slice ∧ w'.s = w.s ∧
      (∀ n, w'.rst ≠ .sleep n) ∧ ∀ fr ∈ w'.frames, ∀ p ∈ fr.splits, p.dbg = false) ∧
  (∀ (s : State) (ctx core n : Nat) (w : Wg) (k : Ctx), s.onCore core = some w → s.ctx? ctx = some k → k.attached = true → s.ctxOfWg w = ctx →
    ∃ t, exec (.debugRead ctx (.sreg core n)) s = .next t ∧ t = { s with ctxs := t.ctxs } ∧
      t.ctx? ctx = some { k with reports := k.reports ++ [.value (w.sreg n).toNat (w.pend.any (fun p => decide (p.reg = n))) true] }) ∧
  (∀ (s : State) (ctx cl part : Nat) (k : Ctx), s.ctx? ctx = some k → cl < 1536 → part < 16 →
    ∃ t, exec (.debugRead ctx (.serviceFlags cl part)) s = .next t ∧ t = { s with ctxs := t.ctxs } ∧
      t.ctx? ctx = some { k with reports := k.reports ++ [.value (Tab.get 0#5 s.svcFlags (16 * cl + part)).toNat false true] }) ∧
  (∀ (s : State) (ctx : Nat) (k : Ctx), s.ctx? ctx = some k → ∃ t k', exec (.debugDetach ctx) s = .next t ∧ t.ctx? ctx = some k' ∧
    k'.attached = false ∧ k'.replay = none ∧ (∀ v ∈ t.dev.vers, ∀ n, v.owner ≠ .aside ctx n) ∧
    (∀ core w, s.onCore core = some w → s.ctxOfWg w = ctx → ∃ w', t.onCore core = some w' ∧ w'.rdbg = false ∧
      ∀ fr ∈ w'.frames, ∀ p ∈ fr.splits, p.dbg = false))) ∧
  ((∀ (s : State) (ctx : Nat) (k : Ctx), s.ctx? ctx = some k → k.pending = none → k.replay = none → k.interval ≠ 0 →
    k.asked = true ∨ 1000 * k.interval ≤ s.tick - k.since →
    exec (.ckptInterval ctx) s = .next ((s.haltCtx ctx).updCtx ctx (fun x => { x with pending := some (s.haltCtx ctx).last, asked := false
                                                                                      settled := (s.haltCtx ctx).ctxDrained ctx
                                                                                      halted := (s.live.filter (fun p => s.inCtx ctx p.2 && !p.2.halt)).map
                                                                                        (fun p => (p.2.grid, p.2.idx)) }))) ∧
  (∀ (s : State) (ctx ck : Nat) (k : Ctx), s.ctx? ctx = some k → k.pending = some ck → k.settled = true → ck ≤ s.pkgFrontier → s.logRoom ctx = true →
    (∀ w ∈ s.wgs, s.ctxOfWg w = ctx → w.drained = true ∧ s.committing w = false) → exec (.ckptInterval ctx) s = .next (s.takeCkpt ctx k ck)) ∧
  (∀ (s : State) (ctx : Nat) (k : Ctx), s.ctx? ctx = some k → k.pending = none → k.interval = 0 ∨ k.replay.isSome = true →
    exec (.ckptInterval ctx) s = .next s) ∧
  (∀ (s : State) (ctx ck : Nat) (k : Ctx), s.ctx? ctx = some k → k.pending = some ck →
    (s.ctxDrained ctx = true ↔ ∀ w ∈ s.wgs, s.ctxOfWg w = ctx → w.drained = true ∧ ∀ c ∈ s.commits, c.who ≠ .final w.grid w.idx) ∧
    (∀ w : Wg, w.drained = true ↔ (∀ c ∈ w.copies, c.st ≠ .publishing) ∧ ∀ r ∈ w.reqs,
      (∃ fl, r.kind = .atom fl 5) ∨ (∃ p, r.kind = .load p ∧ ∀ l < 32, r.wait.getLsbD l = true → r.keep.getLsbD l = true → ∃ v, (l, v) ∈ r.got) ∨
      (∃ a b c, r.kind = .service a b c ∧ ∀ l < 32, r.wait.getLsbD l = true → ∃ k ∈ w.replays, k.req = r.id ∧ k.lane = l)) ∧
    (s.ctxDrained ctx = false → exec (.ckptInterval ctx) s = .next s) ∧
    (s.ctxDrained ctx = true → k.settled = false → exec (.ckptInterval ctx) s = .next (s.updCtx ctx (fun x => { x with pending := some s.last, settled := true }))) ∧
    (k.settled = true → s.pkgFrontier < ck → exec (.ckptInterval ctx) s = .next s)) ∧
  (∀ (s : State) (ctx ck core count : Nat) (k : Ctx) (p : Ckpt), s.ctx? ctx = some k → k.ckpts.find? (fun p => decide (p.num = ck)) = some p →
    (p.expired = true → exec (.rollback ctx ck core count) s = .next (s.report ctx .refusedExpired)) ∧
    (p.expired = false → (∃ v ∈ s.dev.vers, ∃ n, v.owner = .committed n ∧ p.ck < n ∧ onPages (tablePages s.dev k.root) v.gran = true ∧
        Tab.get 0 s.taker n ≠ ctx + 1) → exec (.rollback ctx ck core count) s = .next (s.report ctx .refusedShared)) ∧
    (p.expired = false → s.dev.vers = [] → k.attached = true → s.live = [] → s.parked = [] → s.saved = [] → s.grids = [] → p.wgs = [] →
      p.parked = [] → p.held = [] → p.grids = [] → p.frozen = [] →
      ∃ t, exec (.rollback ctx ck core count) s = .next t ∧ t.ctx? ctx = some
        { k with log := logUpTo p.num k.log, read := min k.read (logUnits (logUpTo p.num k.log)),
                 order := ((logUpTo p.num k.log).filter LogEntry.isStamp).length, halted := [],
                 num := p.num, since := s.tick, pending := none, settled := false, asked := false, ckpts := k.ckpts.filter (fun c => decide (c.num ≤ p.num)),
                 replay := some ⟨logFrom p.num k.log, some (core, count)⟩ })) ∧
  (∀ (s : State) (ws : List Wg), let t := s.finishLeft ws
    let mine := fun (r : Source) => r.ofAny ws = true
    (∀ r ∈ t.mesh, ¬mine r.src) ∧ (∀ p ∈ t.acks, ¬mine p.2.src) ∧ (∀ r ∈ t.hostq, ¬mine r.src) ∧ (∀ r ∈ t.peerq, ¬mine r.src) ∧
    (∀ p ∈ t.replies, ¬mine p.2.src) ∧ ∀ k l, (k, some l) ∈ t.svcQ → ∀ r ∈ l, ¬mine r.src) ∧
  (∀ (s : State) (ctx idx : Nat) (k : Ctx), s.ctx? ctx = some k → k.rring = none → k.read ≤ idx → idx ≤ logUnits k.log → s.waits = [] →
    ∃ t, exec (.replayLogReadIndex ctx idx) s = .next t ∧ t = { s with ctxs := t.ctxs } ∧ t.ctx? ctx = some { k with read := idx }))

/-! ### Grids -/

/-- R12, R79, R195, R208, R223: a workgroup before its first instruction: s0 to s3 hold grid, index, count and gang and the argument words
follow; v0 holds the lane's number in the workgroup and every other register is zero and tagged INT; every lane stands at the start of TEXT
in one split. R294, R295, R297: a pending grid starts with every gang that fits, up to GMAX, and its workgroups stand on their cores; the
gangs that GMIN needs and that fail to be placed begin to age, each for itself; a running grid gains its next gang. After 200 µs of aging a
cluster is reserved for each of them, and the gangs on it are pre-empted if the grid's PRIO is above them all; after 50 ms the queue reports
GANGPLACE, once. While parked gangs of its partition go first (R386) its gangs stand on no cluster but the reserved ones, by log 36; another
grid of its die comes first where it can be placed itself and has the higher PRIO, or the same and was accepted earlier, a running one that
grows among them by log 36, and then no gang is placed but on a cluster that is reserved for one of the grid, with, where these let it
start, as many more as fit beside what the grids before it would take; and while a checkpoint of the context is pending none is placed (log
49). Corners of placement are the model's readings (log 36). -/
def Obligations.GridsPlaced : Prop :=
  (∀ (grid idx gang pos core count : Nat) (o : CodeObj) (args : List Word64) (ph : Phase),
    let w := Wg.start grid idx gang pos core count o args ph
    w.sreg 0 = BitVec.ofNat 64 grid ∧ w.sreg 1 = BitVec.ofNat 64 idx ∧ w.sreg 2 = BitVec.ofNat 64 count ∧ w.sreg 3 = BitVec.ofNat 64 gang ∧
    (∀ k, k < 12 → w.sreg (4 + k) = args.getD k 0#64) ∧ (∀ n, 16 ≤ n → w.sreg n = 0#64) ∧ (∀ p, w.qpred p = decide (p = 7)) ∧
    w.rpc = BitVec.ofNat 64 o.text ∧ w.frames.length = o.frames ∧ w.dq = [] ∧ w.phase = ph ∧ w.retired = 0 ∧
    (∀ n, n < 16 → w.bars[n]? = some (Bar.start o.frames)) ∧ (∀ q k, w.slot q k = Slot.start) ∧
    ∀ f fr, w.frame? f = some fr → fr.live = 0xFFFFFFFF#32 ∧ fr.fmask = 0#32 ∧ fr.prio = 0#2 ∧ fr.wake = 0#7 ∧
      (∃ p, fr.splits = [p] ∧ p.lanes = 0xFFFFFFFF#32 ∧ p.pc = BitVec.ofNat 64 o.text ∧ p.st = .run) ∧
      (∀ l n, l < 32 → n < 128 → fr.vreg l n = if n = 0 then BitVec.ofNat 32 (32 * f + l) else 0#32) ∧
      (∀ k n, fr.tagOf k n = .int) ∧ (∀ l n, fr.sideOf l n = 0#8) ∧ (∀ l p, fr.pred l p = decide (p = 7)) ∧ (∀ l, fr.flagsOf l = 0#5) ∧
      ∀ l e, fr.residOf l e = 0#32) ∧
  (∀ (s : State) (g : Grid), s.grid? g.id = some g →
    let openAt := fun (h : Grid) (busy : List Nat) => if s.parkedFirst h = true then (s.spots h true busy).filter (fun p => h.reserved.contains p.1) else s.spots h true busy
    let open_ := fun (h : Grid) => openAt h s.busyCores
    let spots := s.turnSpots g s.busyCores
    let mine := (open_ g).filter (fun p => g.reserved.contains p.1)
    (spots = if s.placedFirst g s.busyCores = true then
        mine ++ (if g.st = .pending ∧ g.lrec.gmin ≤ mine.length then
          (openAt g (s.busyCores ++ s.claimed g s.busyCores)).filter (fun p => !g.reserved.contains p.1) else [])
      else open_ g) ∧
    (∀ h, s.grids = [h, g] → h.id ≠ g.id → h.die = g.die → h.hungry = true → s.ckptPending (s.ctxOf h) = false → h.need ≤ (open_ h).length → g.prio ≤ h.prio →
      s.claimed g s.busyCores = ((open_ h).take (h.lrec.gmax - h.placed)).flatMap (fun p => p.2)) ∧
    (∀ h ∈ s.grids, h.die = g.die → h.id ≠ g.id → h.hungry = true → s.ckptPending (s.ctxOf h) = false → h.need ≤ (open_ h).length → g.prio < h.prio →
      s.placedFirst g s.busyCores = true) ∧
    (∀ pre h mid post, s.grids = pre ++ h :: mid ++ g :: post → (∀ x ∈ pre ++ h :: mid, x.id ≠ g.id) → h.die = g.die → h.hungry = true →
      s.ckptPending (s.ctxOf h) = false → h.need ≤ (open_ h).length → g.prio = h.prio → s.placedFirst g s.busyCores = true) ∧
    ((∀ h ∈ s.grids, h.die = g.die → h.id ≠ g.id → h.hungry = true → g.prio ≤ h.prio → s.ckptPending (s.ctxOf h) = false → (open_ h).length < h.need) →
      s.placedFirst g s.busyCores = false) ∧
    (s.featOn = true → s.ckptPending (s.ctxOf g) = false →
      (g.st = .pending → g.lrec.gmin ≤ spots.length → ∃ t g', exec (.gangPlace g.id) s = .next t ∧ t.grid? g.id = some g' ∧ g'.st = .running ∧
        g'.total = (spots.take g.lrec.gmax).length ∧ (0 < (spots.take g.lrec.gmax).length → g'.placed = g.placed + (spots.take g.lrec.gmax).length) ∧
        ∀ p ∈ spots.take g.lrec.gmax, ∀ core ∈ p.2, ∃ w, t.onCore core = some w ∧ w.grid = g.id) ∧
      (∀ p rest, g.st ≠ .pending → g.hungry = true → spots = p :: rest → ∃ t g', exec (.gangPlace g.id) s = .next t ∧ t.grid? g.id = some g' ∧
        g'.placed = g.placed + 1 ∧ ∀ core ∈ p.2, ∃ w, t.onCore core = some w ∧ w.grid = g.id ∧ w.gang = g.placed)) ∧
    (s.featOn = true → s.ckptPending (s.ctxOf g) = false → g.hungry = true → spots.length < g.need →
      exec (.gangPlace g.id) s = .next (s.updGrid g.id (fun x => x.ages (g.failing (open_ g).length) s.tick))) ∧
    (∀ n k, g.since = [] → g.ages n k = { g with since := List.replicate n k }) ∧
    (∀ n, g.st = .pending → g.failing n = g.lrec.gmin - n) ∧
    (∀ n, g.st ≠ .pending → g.failing n = 0) ∧
    (s.featOn = false ∨ g.hungry = false ∨ s.ckptPending (s.ctxOf g) = true → exec (.gangPlace g.id) s = .next s) ∧
    (∀ n d c, g.since[g.reserved.length]? = some n → s.part? g.ptop (recChild g.lrec) = some d → g.st = .pending → n + 200000 ≤ s.tick →
      s.agingCluster d s.busyCores = some c →
      let t := s.updGrid g.id (fun x => { x with reserved := x.reserved ++ [c] })
      ((∀ p ∈ s.gangsOn c, p.2.prio p.1 < g.prio) → exec (.gangAging g.id) s = .next (t.haltAll (s.gangsOn c))) ∧
      ((∃ p ∈ s.gangsOn c, g.prio ≤ p.2.prio p.1) → exec (.gangAging g.id) s = .next t)) ∧
    (∀ n, g.since[g.reserved.length]? = some n → s.tick < n + 200000 → exec (.gangAging g.id) s = .next s) ∧
    (∀ n, g.since.head? = some n → g.st = .pending → g.reported = false → n + 50000000 ≤ s.tick → s.qGangplace g.queue = false →
      exec (.gangplaceReport g.id) s = .next ((s.updGrid g.id (fun x => { x with reported := true })).signalQueue g.queue)) ∧
    (g.reported = true → exec (.gangplaceReport g.id) s = .next s))

/-- R174, R219, R298, R377: a workgroup whose last lane has left, with nothing outstanding, closes its open groups and makes its final
commit; with the commit complete its record is written under a stamp of its own and its bead put with the commit's stamp, and the workgroup
has ended, where an area that cannot be used is kept with its lowest index. A bead at a package to which no port leads is given up (log 42),
and the stop that a grid's end asks for waits for the packet's bead; the packet whose own bead page is bad stops the queue with BEADPAGE
(log 13). A grid whose placed workgroups have all ended puts the beads of the indices it never placed and ends; its packet is complete with
the grid's id: it leaves, or first puts its bead; and the queue stops once, with a report of kind 3, for an area that could not be used.
That the queue stops once the packet's bead has been put, and what a packet whose own bead page is bad gives, are the model's readings (log
13). -/
def Obligations.Endings : Prop :=
  (∀ (s : State) (w : Wg), s.wg? w.grid w.idx = some w → s.mayEnd w = true → s.mayStamp (s.ctxOfWg w) w none = true → w.storage = none →
    s.stillExpects (s.ctxOfWg w) (LogEntry.isInputAt w.home) = false → w.mapstore = false → w.phase.tx = false → ∃ t w', exec (.workgroupEnd w.grid w.idx) s = .next t ∧ t.last = s.last + 1 ∧
      t.wg? w.grid w.idx = some w' ∧ w'.run = .ending ∧ w'.rst = .stopped ∧ w'.groups = [] ∧
      ∃ k ∈ t.commits, k.who = .final w.grid w.idx ∧ k.stamp = s.last + 1) ∧
  (∀ (s : State) (w : Wg), s.wg? w.grid w.idx = some w → s.mayEnd w = true → s.mayStamp (s.ctxOfWg w) w none = true → w.storage = none →
    s.stillExpects (s.ctxOfWg w) (LogEntry.isInputAt w.home) = true →
    exec (.workgroupEnd w.grid w.idx) s = .next (s.inputMissed (s.ctxOfWg w) w.home (LogEntry.isInputAt w.home))) ∧
  (∀ (s : State) (k : Commit) (w : Wg) (g : Grid), s.commits.find? (fun c => decide (c.id = k.id)) = some k → k.who = .final w.grid w.idx → s.commitDone k = true →
    s.wg? w.grid w.idx = some w → s.grid? w.grid = some g → w.atomnFlags = [] → k.stamp ≠ 0 →
    ∃ t g', exec (.commitComplete k.id) s = .next t ∧ t.wg? w.grid w.idx = none ∧ t.grid? w.grid = some g' ∧ w.idx ∈ g'.ended ∧
      (∀ p, g.lrec.carea ≠ 0 → s.areaPage g (g.lrec.carea + 128 * w.idx) false = .ok p → t.last = s.last + 1 ∧
        t.dev.vers = (s.dev.put (.committed (s.last + 1)) (p.phys (g.lrec.carea + 128 * w.idx)) (recordBytes w w.gang k.stamp)).vers) ∧
      (∀ e, g.lrec.carea ≠ 0 → s.areaPage g (g.lrec.carea + 128 * w.idx) false = .error e → g'.dropRec = keepLowest g.dropRec w.idx e ∧ t.last = s.last) ∧
      (g.lrec.carea = 0 → t.last = s.last ∧ g'.dropRec = g.dropRec ∧
        (∀ p, g.lrec.beads ≠ 0 → s.areaPage g (g.lrec.beads + 8 * w.idx) true = .ok p →
          (∀ b ∈ s.waits, ¬(b.pkg = s.pkg ∧ b.pa = p.phys (g.lrec.beads + 8 * w.idx))) →
          t.dev.bead (p.phys (g.lrec.beads + 8 * w.idx)) = ⟨BitVec.ofNat 64 k.stamp, true⟩) ∧
        (∀ e, g.lrec.beads ≠ 0 → s.areaPage g (g.lrec.beads + 8 * w.idx) true = .error e → g'.dropBead = keepLowest g.dropBead w.idx e))) ∧
  (∀ (s : State) (g : Grid) (i v : Nat),
    (g.lrec.beads = 0 → s.putEndBead g i v = s) ∧
    (∀ p, g.lrec.beads ≠ 0 → s.areaPage g (g.lrec.beads + 8 * i) true = .ok p →
      (∀ b ∈ s.waits, ¬(b.pkg = s.pkg ∧ b.pa = p.phys (g.lrec.beads + 8 * i))) →
      (s.putEndBead g i v).dev.bead (p.phys (g.lrec.beads + 8 * i)) = ⟨BitVec.ofNat 64 v, true⟩ ∧ (s.putEndBead g i v).grids = s.grids) ∧
    (∀ e, g.lrec.beads ≠ 0 → s.areaPage g (g.lrec.beads + 8 * i) true = .error e →
      s.putEndBead g i v = s.updGrid g.id (fun x => { x with dropBead := keepLowest x.dropBead i e }))) ∧
  (∀ (s : State) (g : Grid), s.grid? g.id = some g → g.st ≠ .pending → g.ended.length = g.lrec.gang * g.placed →
    let u := g.unplaced.foldl (fun (s : State) i => s.putEndBead g i 0xFFFFFFFFFFFFFFFF) s
    let area := ((u.grid? g.id).getD g).areaStop
    let rest : State := { u with grids := u.grids.filter (fun x => decide (x.id ≠ g.id)) }
    (g.packet = none → area = none → exec (.gridEnd g.id) s = .next rest) ∧
    (∀ code r, g.packet = none → area = some (code, r) → exec (.gridEnd g.id) s = .next ((rest.addReport g.queue r).stopQueue g.queue code)) ∧
    (∀ id q p, g.packet = some id → u.queue? g.queue = some q → q.pkts.find? (fun k => decide (k.id = id)) = some p →
      let gone := { q with pkts := q.pkts.filter (fun k => decide (k.id ≠ id)) }
      (p.put = none → area = none → ∃ t, exec (.gridEnd g.id) s = .next t ∧ t.grids = rest.grids ∧ t.queue? g.queue = some gone ∧
        (p.intr = true → t.msiSent = (u.signal q.desc.func q.desc.vector).msiSent)) ∧
      (∀ code r, p.put = none → area = some (code, r) → code ≠ 0 → ∃ t, exec (.gridEnd g.id) s = .next t ∧ t.grids = rest.grids ∧
        t.queue? g.queue = some { gone with reports := q.reports ++ [r], stop := code }) ∧
      (∀ a, p.put = some a → s.beadCut a = true → area = none → ∃ t, exec (.gridEnd g.id) s = .next t ∧ t.grids = rest.grids ∧ t.queue? g.queue = some gone) ∧
      (∀ a code r, p.put = some a → s.beadCut a = true → area = some (code, r) → code ≠ 0 → ∃ t, exec (.gridEnd g.id) s = .next t ∧ t.grids = rest.grids ∧
        t.queue? g.queue = some { gone with reports := q.reports ++ [r], stop := code }) ∧
      (∀ a pkg pa, p.put = some a → s.beadCut a = false → rest.beadAt q.desc a = some (pkg, pa) → ∃ t, exec (.gridEnd g.id) s = .next t ∧ t.grids = rest.grids ∧
        t.queue? g.queue = some { q with pkts := q.pkts.map (fun k => if k.id = id then
          { k with stop := area.elim 0 (fun x => x.1), reports := area.elim [] (fun x => [x.2]), res := some g.id, wait := .bead u.ids } else k) } ∧
        ∃ r ∈ (Assoc.at t.svcQ (homeKey pkg (u.homeOf pkg pa))).getD [], r.id = u.ids ∧ r.src = .packet g.queue u.ids ∧ r.pkg = pkg ∧ r.pa = pa ∧
          r.op = .bput (BitVec.ofNat 64 g.id)) ∧
      (∀ a, p.put = some a → s.beadCut a = false → rest.beadAt q.desc a = none → area = none → ∃ t, exec (.gridEnd g.id) s = .next t ∧ t.grids = rest.grids ∧
        t.queue? g.queue = some { gone with stop := 0x14 }))) ∧
  (∀ (s : State) (g : Grid), s.grid? g.id = some g → g.st = .pending ∨ g.ended.length ≠ g.lrec.gang * g.placed → exec (.gridEnd g.id) s = .next s)

/-- R181, R189, R387, R388: the halt of a pre-empted workgroup: it issues no more, its chains are back at their heads, its passes have
landed, its sleepers wake with PREEMPT in their %wake, its bead requests that can wait and that no home has performed are withdrawn to be
made again in the order of their issue (R282), while a BPEEK and an atomic stay on their way, the answers to its loads are dropped, and the
core's generation counts up. A LAUNCH or SNAP in flight completes first, and a CANCEL in flight completes into the saved s-register. R384 to
R386, R390 to R392: a slice ends and the next entry with work begins; a grid that cannot place its gangs pre-empts the set that is chosen
for it; a halted workgroup is saved and leaves its core, its image in its save area under a header with STATE 1, and a parked one is
restored with PREEMPT in %wake and STATE 3 in its area. TARGET, STATUS and GEN in the header of a scheduler's save are the model's readings
(log 38); the halt in one step and the slice of entry 0 are the model's (log 56, log 37), and sections of the image without a layout are
free values (log 65). -/
def Obligations.Preemption : Prop :=
  (∀ (s : State) (core : Nat) (w : Wg), s.onCore core = some w →
    let cancels := w.copies.filter (fun c => c.over && w.cancelled c)
    (∃ w', (s.haltNow core).onCore core = some w' ∧ w'.halt = true ∧ w'.passes = [] ∧ w'.grid = w.grid ∧ w'.idx = w.idx ∧ w'.phase = w.phase ∧
      (cancels = [] → w'.dq = w.dq) ∧ w'.acts = w.acts ∧ Tab.get 0 (s.haltNow core).gen core = Tab.get 0 s.gen core + 1 ∧
      (∀ fr ∈ w'.frames, fr.defer = [] ∧ fr.yielded = false ∧ ∀ p ∈ fr.splits, (∀ til, p.st ≠ .sleep til)) ∧
      (∀ c, cancels = [c] → w.slotOps = [] → c.wbs = false →
        w'.sreg c.reg = c.status ∧ (∀ k ∈ w'.copies, k.id ≠ c.id) ∧ ∀ p ∈ w'.pend, p.src ≠ .copy c.id) ∧
      (∀ til, cancels = [] → w.slotOps = [] → w.rst = .sleep til → w'.rst = .run ∧ w'.rwake = w.rwake ||| 16#7) ∧
      (cancels = [] → w.slotOps = [] → w.passes = [] → w'.slots = w.slots ∧ w'.s = w.s ∧ ∀ f fr, w.frame? f = some fr → ∃ fr', w'.frame? f = some fr' ∧
        fr'.v = fr.v ∧ fr'.preds = fr.preds ∧ fr'.live = fr.live ∧
        (∀ p ∈ fr.splits, ∀ ch, p.chain = some ch → p.st = .run → { p with pc := ch.head, chain := none } ∈ fr'.splits) ∧
        (∀ p ∈ fr.splits, ∀ ch t, p.chain = some ch → p.st = .gather t → { p with pc := ch.head, chain := none, st := .run } ∈ fr'.splits) ∧
        (∀ p ∈ fr.splits, ∀ til, p.st = .sleep til → { p with st := .run } ∈ fr'.splits ∧ fr'.wake = fr.wake ||| 16#7) ∧
        ((∀ p ∈ fr.splits, ∀ til, p.st ≠ .sleep til) → fr'.wake = fr.wake)) ∧
      (∀ k ∈ s.waits, ∀ n l, (∃ v, k.req.op = .bput v) ∨ k.req.op = .btake ∨ k.req.op = .bwait → k.req.src = .lane w.grid w.idx n l →
        k ∉ (s.haltNow core).waits ∧ (⟨n, l, k.req.op, k.req.pkg, k.req.pa⟩ : Replay) ∈ w'.replays) ∧
      (∀ h l k, (h, some l) ∈ s.svcQ → k ∈ l → ∀ n lane, (∃ v, k.op = .bput v) ∨ k.op = .btake ∨ k.op = .bwait → k.src = .lane w.grid w.idx n lane →
        (∀ h l, (h, some l) ∈ (s.haltNow core).svcQ → k ∉ l) ∧ (⟨n, lane, k.op, k.pkg, k.pa⟩ : Replay) ∈ w'.replays) ∧
      (∃ gone : List SReq, gone.Pairwise (fun a b => a.id ≤ b.id) ∧ w'.replays = w.replays ++ gone.filterMap (fun k => match k.src with
        | .lane _ _ n l => some (⟨n, l, k.op, k.pkg, k.pa⟩ : Replay)
        | _ => none))) ∧
    (∀ h l k, (h, some l) ∈ s.svcQ → k ∈ l → (∀ v, k.op ≠ .bput v) → k.op ≠ .btake → k.op ≠ .bwait → ∃ l', (h, some l') ∈ (s.haltNow core).svcQ ∧ k ∈ l') ∧
    (∀ p ∈ (s.haltNow core).acks, ∀ r ∈ w.reqs, ∀ l m, p.2.src = .lane w.grid w.idx r.id l → r.kind = .load m → r.keep.getLsbD l = true) ∧
    (∀ k, k ≠ core → (s.haltNow core).onCore k = s.onCore k) ∧
    (w.tfetchAt = none → (∀ a, w.acts.head? = some a → (∀ dst wbs, a.kind ≠ .snap dst wbs) ∧ ∀ dst off wbs, a.kind ≠ .launch dst off wbs) →
      s.haltCore core = s.haltNow core) ∧
    (∀ a rest, w.tfetchAt = none → w.acts = a :: rest → (∃ dst wbs, a.kind = .snap dst wbs) ∨ (∃ dst off wbs, a.kind = .launch dst off wbs) →
      s.haltCore core = if s.actReady w a = true then ((s.beginAct w a).settleQuick core rest.length).haltNow core else s.haltNow core)) ∧
  ((∀ (s : State) (top n : Nat) (k : Sched), s.children top ≠ [] → Assoc.at s.scheds top = some k → s.nextEntry top k.entry = some n →
    (s.sliceOf top k.entry * 1000 ≤ s.tick - k.since → ∃ t, exec (.sliceEnd top) s = .next t ∧ Assoc.at t.scheds top = some ⟨n, s.tick⟩) ∧
    (s.tick - k.since < s.sliceOf top k.entry * 1000 → exec (.sliceEnd top) s = .next s)) ∧
  (∀ (s : State) (h : Grid) (rest : List Grid) (v : List Victim) (g : Grid) (ks : List Gang) (k : Gang), s.grids = h :: rest → s.victimSet h = some v →
    (g, ks) ∈ v → k ∈ ks → exec (.preemptRequest g.id k.idx) s = .next (s.haltAll (v.flatMap (fun p => p.2.map (fun k => (p.1, k)))))) ∧
  (∀ (s : State) (core : Nat) (w : Wg), s.live.find? (fun p => p.2.is w.grid w.idx) = some (core, w) →
    s.onCore core = some w → w.halt = true → s.inCkpt w = false →
    ∃ t img, exec (.contextSave w.grid w.idx) s = .next t ∧ t.onCore core = none ∧
      t.parked = s.parked ++ [{ w with imgSize := w.imageSize }] ∧
      t.dev = s.dev.put (.committed s.last) w.savearea (w.header 1 w.core 0 (Tab.get 0 s.gen w.core) ++ img) ∧ ∀ k, k ≠ core → t.onCore k = s.onCore k) ∧
  (∀ (s : State) (g : Grid) (k : Gang) (w : Wg) (core cl : Nat) (cs : List Nat) (rest : List (Nat × List Nat)), s.grid? g.id = some g → g.gangs = [k] →
    k.parked = true → s.waitsSlice g k = false → g.coop = false → s.parked = [w] → w.grid = g.id → w.gang = k.idx → w.pos = 0 → w.reqs = [] → w.replays = [] →
    s.ckptPending (s.ctxOf g) = false → s.spots g false s.busyCores = (cl, core :: cs) :: rest →
    ∃ t w', exec (.contextRestore g.id k.idx) s = .next t ∧ t.onCore core = some w' ∧ t.parked = [] ∧ w'.halt = false ∧ w'.core = core ∧
      w'.s = w.s ∧ w'.q = w.q ∧ w'.rpc = w.rpc ∧ w'.slice = w.slice ∧ w'.phase = w.phase ∧ w'.rwake = w.rwake ||| 16#7 ∧
      t.dev = s.dev.put (.committed s.last) (w.savearea + 6) (natToBytes 2 3) ∧
      ∀ f fr, w.frame? f = some fr → w'.frame? f = some { fr with wake := fr.wake ||| 16#7 }))

/-- R321 to R324: a walk that ends installs its page for the cores that asked and their clusters, or leaves its failure; one that a TLBINV
named does neither; an uncorrectable error in its data stops those that asked with STORAGE at their next issue and sets ENDFLAGS bit 4, as
does, with bit 5, a table at a package that no port leads to (R429); a corrected one sets bit 6. A resolved XLATE lets the workgroup run on,
held with its grid where that is held as a whole, and a refused one is final. No entry is evicted, the model's choice (log 21). -/
def Obligations.TranslationEvents : Prop :=
  (∀ (s : State) (k : Walk), s.walks.find? (fun w => decide (w.id = k.id) && !w.failed) = some k →
    let rest := s.walks.filter (fun w => decide (w.id ≠ k.id))
    (∀ p, s.pkgLive k.pkg = true → k.stale = [] → s.walkNow k.ctx k.pkg k.va = some p → exec (.pageWalk ⟨k.id, false, false⟩) s =
      .next { s with walks := rest, tlb := s.tlb ++ k.places.map (fun t => ⟨t, k.ctx, k.pkg, p⟩) }) ∧
    (∀ a ∈ k.asks, TlbAt.core a.core ∈ k.places ∧ TlbAt.cluster (a.core / 4) ∈ k.places) ∧
    (s.pkgLive k.pkg = true → k.stale = [] → s.walkNow k.ctx k.pkg k.va = none → exec (.pageWalk ⟨k.id, false, false⟩) s =
      .next { s with walks := s.walks.map (fun w => if w.id = k.id then { w with failed := true } else w) }) ∧
    (∀ err corrected, k.stale ≠ [] ∨ err = true ∨ s.pkgLive k.pkg = false → ∃ t, exec (.pageWalk ⟨k.id, err, corrected⟩) s = .next t ∧ t.tlb = s.tlb ∧ t.walks = rest) ∧
    (∀ a w, k.stale = [] → a ∈ k.asks → s.wg? a.grid a.wg = some w →
      (∀ err corrected, err = true ∨ s.pkgLive k.pkg = false →
        ∃ t w', exec (.pageWalk ⟨k.id, err, corrected⟩) s = .next t ∧ t.wg? a.grid a.wg = some w' ∧
        w'.endflags.testBit (if s.pkgLive k.pkg = true then 4 else 5) = true ∧
        (w.storage = none → ∃ b ∈ k.asks, b.grid = a.grid ∧ b.wg = a.wg ∧ w'.storage = some ⟨.storage, b.frame, b.pc, 0⟩)) ∧
      (s.pkgLive k.pkg = true → ∃ t w', exec (.pageWalk ⟨k.id, false, true⟩) s = .next t ∧ t.wg? a.grid a.wg = some w' ∧ w'.endflags.testBit 6 = true ∧ w'.storage = w.storage))) ∧
  (∀ (s : State) (w : Wg) (party split pc : Nat), s.wg? w.grid w.idx = some w → w.run = .xlate party split pc →
    (∀ g, s.grid? w.grid = some g → ∃ t, exec (.xlateResolved w.grid w.idx true) s = .next t ∧
      t.wg? w.grid w.idx = some { w with run := if g.st = .held ∧ g.contain = false then .held else .running }) ∧
    exec (.xlateResolved w.grid w.idx false) s = .next (s.finalFault w ⟨.xlate, party, pc, 0⟩))

/-! ### Queues and the package -/

/-- R4, R370 to R372, R376, R377: what the notify page reads, where RESUME and GRIDCTL give zero; a write of WRIDX notifies the queue, which
is mapped while fewer than 32 are, and stops it when the ring overruns; RESUME clears a stop; the packet at RDIDX is read again and a bead
wait of it withdrawn; GRID_RESUME lets a held grid run on; GRID_ABORT tears it down and stops the queue with FAULT, at once or, where the
grid's packet has its bead to put first, with the packet's completion. What RESUME clears and GRID_ABORT reports is the model's reading (log
13), and that RESUME withdraws a bead wait of the packet is log 47. -/
def Obligations.QueueRegisters : Prop :=
  ∀ (s : State) (q : Nat) (x : Queue), s.queue? q = some x →
    (∀ val : Word32, x.mapped = false → s.waitMap = [] → s.mappedCount < 32 → ({ x with wridx := val.toNat } : Queue).overrun = false →
      ∃ t, exec (.wridx q val) s = .next t ∧ t.queue? q = some { x with wridx := val.toNat, mapped := true } ∧ t = { s with queues := t.queues }) ∧
    (∀ val : Word32, x.mapped = true → x.stop = 0 → 2 ^ x.desc.sizeLog2 < (val.toNat + 2 ^ 32 - x.rdidx) % 2 ^ 32 →
      ∃ t, exec (.wridx q val) s = .next t ∧ t.queue? q = some { x with wridx := val.toNat, stop := 0x13 }) ∧
    (s.notifyRead q 0 = x.wridx ∧ s.notifyRead q 4 = x.rdidx ∧ ∀ off, off ∉ [0x000, 0x004, 0x008, 0x010, 0x014, 0x018, 0x020] → s.notifyRead q off = 0) ∧
    (x.stop < 256 → s.notifyRead q 8 = 2 ^ 24 * x.stop + (if s.qHeld q then 8 else 0) + (if s.qWaitres q then 4 else 0) + (if s.qGangplace q then 2 else 0) +
      (if x.since.isSome then 1 else 0)) ∧
    (x.reports = [] → s.notifyRead q 0x10 = 0 ∧ s.notifyRead q 0x14 = 0 ∧ s.notifyRead q 0x18 = 0 ∧ s.notifyRead q 0x20 = 0) ∧
    (∀ r, x.reports = [r] → r.grid < 2 ^ 32 → r.wg < 2 ^ 32 → r.pc < 2 ^ 64 → r.kind < 256 → r.trap < 2 ^ 16 →
      s.notifyRead q 0x10 = r.grid ∧ s.notifyRead q 0x14 = r.wg ∧ s.notifyRead q 0x20 = r.pc ∧
      s.notifyRead q 0x18 = r.code % 256 + 2 ^ 8 * r.kind + 2 ^ 16 * r.trap) ∧
    (∀ val : Word32, val ≠ 1#32 ∨ x.stop = 0 → exec (.resume q val) s = .next s) ∧
    (x.stop ≠ 0 → ∃ t x', exec (.resume q 1#32) s = .next t ∧
      t = { s with queues := t.queues, svcQ := t.svcQ, waits := s.waits.filter (fun k => decide (¬(x.pre = .bead k.req.id ∨ x.op = .bead k.req.id))),
                   returned := s.returned.filter (fun r => decide (¬(x.pre = .bead r.id ∨ x.op = .bead r.id))) } ∧
      (∀ k l, (k, some l) ∈ t.svcQ → ∀ r ∈ l, ¬(x.pre = .bead r.id ∨ x.op = .bead r.id)) ∧
      t.queue? q = some x' ∧ x'.stop = 0 ∧ x'.rdidx = x.rdidx ∧ x'.pkts = x.pkts ∧ (x.op = .fresh → x'.now = none ∧ x'.pre = .fresh ∧ x'.op = .fresh) ∧
      x'.reports = if x.stop = 0x14 ∨ x.stop = 0x15 ∨ x.stop = 0x16 then x.reports.filter (fun r => decide (r.kind = 1)) else x.reports) ∧
    (∀ g, s.grid? g.id = some g →
      (g.queue ≠ q ∨ g.st ≠ .held → exec (.gridResume q g.id) s = .next s ∧ exec (.gridAbort q g.id) s = .next s) ∧
      (g.queue = q → g.st = .held →
        (∃ t, exec (.gridResume q g.id) s = .next t ∧ t.grid? g.id = some { g with st := .running } ∧
          (∀ core w, s.onCore core = some w → t.onCore core = some (if w.grid = g.id ∧ w.run = .held then { w with run := .running } else w)) ∧
          t.queue? q = some { x with reports := x.reports.filter (fun r => !(decide (r.grid = g.id ∧ r.kind = 1))) }) ∧
        (∀ r, x.reports.find? (fun r => decide (r.grid = g.id ∧ r.kind = 1)) = some r → (∀ id, g.packet = some id → ∃ p ∈ x.pkts, p.id = id) →
          ∃ t x', exec (.gridAbort q g.id) s = .next t ∧ t.grid? g.id = none ∧ (∀ v ∈ t.wgs, v.grid ≠ g.id) ∧ t.queue? q = some x' ∧
            ((x'.stop = 0x15 ∧ ⟨2, g.id, r.wg, r.code, r.trap, rpcOf r.code r.pc⟩ ∈ x'.reports) ∨
             ∃ p ∈ x'.pkts, g.packet = some p.id ∧ p.stop = 0x15 ∧ p.res = some g.id ∧ ⟨2, g.id, r.wg, r.code, r.trap, rpcOf r.code r.pc⟩ ∈ p.reports))))

/-- R372, R373, R377, R380: a packet whose header waits for a bead asks for it, and blocks; one of a package to which no port leads is
passed (log 42); a completion bead is put with the packet's result, and a signal follows; the queue stops with BEADPAGE where the bead's
address is none, and with what its grid's end asks for. R348, R349, R373, R374: FENCE, SNAPSHOT and its release, TIMESTAMP and the bead
packets issue, have their effect and are complete; an INDIRECT packet opens its buffer once the first 256-byte unit of it is read. A bead of
a package to which no port leads is passed with value 0 (log 42). The release of a pin that pool relief has let expire gives SNAPEXPIRED.
The die of TIMESTAMP's stamp is the model's choice (log 48), RDIDX passes an INDIRECT once its first unit is read, by log 47, and an expired
pin's status is shown by log 72. -/
def Obligations.QueuePackets : Prop :=
  ((∀ (s : State) (q : Nat) (h : PktHdr) (x : Queue) (pkg pa : Nat), s.queue? q = some x → x.mapped = true → x.stop = 0 → h.waitBead = true →
    x.pre = .fresh → s.beadCut h.wbead = false → s.beadAt x.desc h.wbead = some (pkg, pa) →
    ∃ t, exec (.pktFence q h) s = .next t ∧ t.queue? q = some { x with pre := .bead s.ids, since := some s.tick } ∧
      (∃ r ∈ (Assoc.at t.svcQ (homeKey pkg (s.homeOf pkg pa))).getD [], r.id = s.ids ∧ r.op = .bwait ∧ r.pa = pa ∧ r.pkg = pkg)) ∧
  (∀ (s : State) (q : Nat) (h : PktHdr) (x : Queue), s.queue? q = some x → x.mapped = true → x.stop = 0 → h.waitBead = true →
    x.pre = .fresh → s.beadCut h.wbead = false → s.beadAt x.desc h.wbead = none →
    ∃ t x', exec (.pktFence q h) s = .next t ∧ t.queue? q = some x' ∧ x'.stop = 0x14 ∧ x'.rdidx = x.rdidx) ∧
  (∀ (s : State) (q : Nat) (h : PktHdr) (x : Queue), s.queue? q = some x → x.mapped = true → x.stop = 0 → h.waitBead = true →
    x.pre = .fresh → s.beadCut h.wbead = true → exec (.pktFence q h) s = .next (s.updQueue q (fun x => { x with pre := .past 0 }))) ∧
  (∀ (s : State) (a : Nat), s.beadCut a = true ↔ bitsOf a 60 4 = 8 ∧ (∃ e ∈ s.fabric, e.1 = bitsOf a 48 8) ∧ s.pkgLive (bitsOf a 48 8) = false) ∧
  (∀ (s : State) (q id res : Nat) (x : Queue) (p : OpenPkt), s.queue? q = some x → x.pkts.find? (fun k => decide (k.id = id)) = some p →
    (∀ a, p.put = some a → s.beadCut a = true → p.stop = 0 → p.intr = false →
      (s.packetDone q id res).queue? q = some { x with pkts := x.pkts.filter (fun k => decide (k.id ≠ id)) }) ∧
    (∀ a pkg pa, p.put = some a → s.beadCut a = false → s.beadAt x.desc a = some (pkg, pa) →
      (s.packetDone q id res).queue? q = some { x with pkts := x.pkts.map (fun k => if k.id = id then { k with res := some res, wait := .bead s.ids } else k) } ∧
      ∃ r ∈ (Assoc.at (s.packetDone q id res).svcQ (homeKey pkg (s.homeOf pkg pa))).getD [], r.id = s.ids ∧ r.op = .bput (BitVec.ofNat 64 res)) ∧
    (∀ a, p.put = some a → s.beadCut a = false → s.beadAt x.desc a = none → p.stop = 0 →
      (s.packetDone q id res).queue? q = some { x with pkts := x.pkts.filter (fun k => decide (k.id ≠ id)), stop := 0x14 }) ∧
    (p.put = none → p.stop ≠ 0 → (s.packetDone q id res).queue? q =
      some { x with pkts := x.pkts.filter (fun k => decide (k.id ≠ id)), reports := x.reports ++ p.reports, stop := p.stop }) ∧
    (p.put = none → p.stop = 0 → p.intr = false → (s.packetDone q id res).queue? q = some { x with pkts := x.pkts.filter (fun k => decide (k.id ≠ id)) }) ∧
    (p.put = none → p.stop = 0 → p.intr = true → 0 < Tab.get 0 s.coalesce x.desc.func →
      (s.packetDone q id res).msiSent = s.msiSent ∧ (x.desc.func, x.desc.vector) ∈ (s.packetDone q id res).msiPend) ∧
    (p.put = none → p.stop = 0 → p.intr = true → Tab.get 0 s.coalesce x.desc.func = 0 →
      (s.packetDone q id res).msiSent = s.msiSent ++ [(x.desc.func, x.desc.vector)]))) ∧
  (∀ (s : State) (q : Nat) (h : PktHdr) (x : Queue), MayRun s q h x →
    (x.pkts = [] → ∃ t, exec (.pktFence q h) s = .next t ∧ Passes s q h x s s.pkgFrontier t) ∧
    (x.pkts ≠ [] → x.since.isSome = true → exec (.pktFence q h) s = .next s) ∧
    (x.pkts ≠ [] → x.since = none → exec (.pktFence q h) s = .next (s.setQueue q { x with since := some s.tick })) ∧
    (s.liveHostPins.length < 64 → ∃ t, exec (.snapshot q h) s = .next t ∧
      Passes s q h x { s with hostPins := s.hostPins ++ [⟨s.pkgFrontier, false⟩] } s.pkgFrontier t) ∧
    (64 ≤ s.liveHostPins.length → ∃ t, exec (.snapshot q h) s = .next t ∧ Passes s q h x s 0 t) ∧
    (∀ P, ∃ t, exec (.snapshotRelease q h P) s = .next t ∧ Passes s q h x { s with hostPins := dropPin P s.hostPins }
      (match s.hostPins.find? (fun p => decide (p.stamp = P)) with | some p => (if p.expired = true then 0x12 else 0) | none => 0) t) ∧
    (∀ addr, addr / 2 ^ 60 % 16 = 12 → 3 ≤ s.hostPage (ctxOfDesc x.desc) (addr % 2 ^ 57) → ∃ t, exec (.timestamp q h addr) s = .next t ∧
      Passes s q h x { s with hostMem := storeBytes s.hostMem (hostKey (ctxOfDesc x.desc) (addr % 2 ^ 57)) (natToBytes 8 s.tick) } s.tick t) ∧
    (∀ addr, (addr / 2 ^ 60 % 16 = 12 ∧ s.hostPage (ctxOfDesc x.desc) (addr % 2 ^ 57) < 3) ∨ (addr / 2 ^ 60 % 16 ≠ 12 ∧ s.packetPage x.desc addr = none) →
      ∃ t x', exec (.timestamp q h addr) s = .next t ∧ t.queue? q = some x' ∧ x'.stop = 0x12 ∧ x'.rdidx = x.rdidx) ∧
    (∀ addr pa, addr / 2 ^ 60 % 16 ≠ 12 → s.packetPage x.desc addr = some pa → ∃ t, exec (.timestamp q h addr) s = .next t ∧
      ∃ u, Passes s q h x u s.tick t ∧
        (∀ k, s.ctx? (ctxOfDesc x.desc) = some k → Tab.get 0 u.taker (s.last + 1) = ctxOfDesc x.desc + 1) ∧
        u = { s with tlb := u.tlb, last := s.last + 1, phaseTab := u.phaseTab, taker := u.taker, dev := s.dev.put (.committed (s.last + 1)) pa (natToBytes 8 s.tick) }) ∧
    (∀ addr units bs, s.queueBytes x.desc (256 * (addr / 256)) 256 = some bs → ∃ t, exec (.indirect q h addr units) s = .next t ∧
      t = { s with ids := s.ids + 1, tlb := t.tlb, queues := t.queues } ∧
      t.queue? q = some { passed x h.len with ind := some ⟨addr, units, 0, [(addr / 256, bs)], s.ids⟩, pkts := x.pkts ++ [opened s h] }) ∧
    (∀ addr units, s.queueBytes x.desc (256 * (addr / 256)) 256 = none →
      ∃ t x', exec (.indirect q h addr units) s = .next t ∧ t.queue? q = some x' ∧ x'.stop = 0x12 ∧ x'.rdidx = x.rdidx ∧ x'.ind = none) ∧
    (∀ i a op, ((i = .waitbead q h a ∧ op = SOp.bwait) ∨ (∃ v, i = .putbead q h a v ∧ op = SOp.bput (BitVec.ofNat 64 v)) ∨ (i = .takebead q h a ∧ op = SOp.btake)) →
      (∀ v, x.op = .past v → ∃ t, exec i s = .next t ∧ Passes s q h x s v t) ∧
      (x.op = .fresh → s.beadCut a = true → exec i s = .next (s.updQueue q (fun x => { x with op := .past 0 }))) ∧
      (x.op = .fresh → s.beadCut a = false → s.beadAt x.desc a = none → ∃ t x', exec i s = .next t ∧ t.queue? q = some x' ∧ x'.stop = 0x14 ∧ x'.rdidx = x.rdidx) ∧
      (∀ pkg pa, x.op = .fresh → s.beadCut a = false → s.beadAt x.desc a = some (pkg, pa) → ∃ t, exec i s = .next t ∧
        t.queue? q = some { x with op := .bead s.ids, since := some s.tick } ∧
        ∃ r ∈ (Assoc.at t.svcQ (homeKey pkg (s.homeOf pkg pa))).getD [], r.id = s.ids ∧ r.op = op ∧ r.pa = pa ∧ r.pkg = pkg)))

/-- R293, R294, R374, R375, R414 to R417: LAUNCH stops the queue with the code of the first check that fails, in their order (what is no
loaded code object beyond R379's layout is log 11 and log 10, and the stamp at which its code and an argument block stand is log 35), else
the grid is pending and the packet open, and the LAUNCH of a measured queue extends the chain by the code object and the argument block, or
stops with CODE where a byte of the container cannot be read (log 2); COPY starts its copy; MEASURE extends the chain by its buffers, and
RECEIPT takes a stamp and extends it likewise; both stop with LAYOUT where a read of theirs fails, or meets an uncorrectable error. The die
of a receipt's stamp is the model's choice (log 48), and the code that a LAUNCH names stands at the stamp of log 35. -/
def Obligations.WorkPackets : Prop :=
  ∀ (s : State) (q : Nat) (h : PktHdr) (x : Queue), MayRun s q h x →
    (∀ r, let r' := if recPrio r ≤ x.desc.ceiling then r else { r with flags := r.flags - (recPrio r - x.desc.ceiling) * 256 }
      let P := if x.desc.measured = true then s.pkgFrontier else s.last
      let stops := fun (code : Nat) => ∃ t x', exec (.pktLaunch q h r) s = .next t ∧ t.queue? q = some x' ∧ x'.stop = code ∧ x'.rdidx = x.rdidx ∧ t.grids = s.grids
      let right := launchBad (s.feature 4) r' = false ∧ (r'.flags.testBit 2 = false ∨ x.desc.fw = true)
      let dp := s.part? (recTop r') (recChild r')
      (launchBad (s.feature 4) r' = true → stops 0x01) ∧
      (launchBad (s.feature 4) r' = false → r'.flags.testBit 2 = true → x.desc.fw = false → stops 0x02) ∧
      (right → dp = none ∨ partAdmits x.desc.ptop x.desc.pchild r' = false → stops 0x04) ∧
      (∀ d, right → dp = some d → partAdmits x.desc.ptop x.desc.pchild r' = true →
        (s.loadCode (ctxOfDesc x.desc) r'.code P = none → stops 0x05) ∧
        (∀ o, s.loadCode (ctxOfDesc x.desc) r'.code P = some o →
          (s.partCores d < r'.gmin * r'.gang → stops 0x06) ∧
          (r'.gmin * r'.gang ≤ s.partCores d → 64 ≤ (s.grids.filter (fun g => decide (g.st = .pending ∧ g.die = s.acceptDie r'))).length → stops 0x07))) ∧
      (∀ o m, x.chain = some m → x.desc.measured = true → right →
        s.checkPlace r' (partAdmits x.desc.ptop x.desc.pchild r') (ctxOfDesc x.desc) (s.acceptDie r') s.pkgFrontier = .ok o →
        let ctx := ctxOfDesc x.desc
        let whole := (s.ctxBytes ctx (some P) (r'.code - 0x1000 + 8) 8).bind (fun z => s.ctxBytes ctx (some P) (r'.code - 0x1000) (bytesToNat z))
        (whole = none → stops 0x05) ∧
        (∀ cont, whole = some cont → ∃ t g x' m', exec (.pktLaunch q h r) s = .next t ∧ t.grids = s.grids ++ [g] ∧ g.lrec = r' ∧ g.code = o ∧ g.queue = q ∧ g.packet = some s.ids ∧
          g.st = .pending ∧ g.measured = some s.pkgFrontier ∧ g.opened = some s.pkgFrontier ∧ t.queue? q = some x' ∧ x'.chain = some m' ∧ m'.2 = m.2 + 2 ∧
          (∀ args, s.ctxBytes ctx (some P) r'.args o.args = some args → m' = extend (extend m 2 cont) 3 args ∧ g.argw = []) ∧
          (s.ctxBytes ctx (some P) r'.args o.args = none → ∃ args, m' = extend (extend m 2 cont) 3 args ∧
            g.argw = (List.range 12).map (fun k => BitVec.ofNat 64 (bytesToNat ((args.drop (8 * k)).take 8)))) ∧
          x'.rdidx = (x.rdidx + h.len) % 2 ^ 32 ∧ x'.pkts = x.pkts ++ [opened s h])) ∧
      (∀ o, x.chain = none → x.desc.measured = false → launchBad (s.feature 4) r' = false → (r'.flags.testBit 2 = false ∨ x.desc.fw = true) →
        s.checkPlace r' (partAdmits x.desc.ptop x.desc.pchild r') (ctxOfDesc x.desc) (s.acceptDie r') s.last = .ok o →
        ∃ t g, exec (.pktLaunch q h r) s = .next t ∧ t.grids = s.grids ++ [g] ∧ g.lrec = r' ∧ g.code = o ∧ g.queue = q ∧ g.packet = some s.ids ∧
          g.st = .pending ∧ g.placed = 0 ∧ t.lastGrid = g.id ∧
          t.queue? q = some { passed x h.len with pkts := x.pkts ++ [opened s h] })) ∧
    (∀ dst src r,
      copyStartErr true r (BitVec.ofNat 64 dst) (BitVec.ofNat 64 src) s.lowWater (s.frontier (s.copyCluster x.desc / 24)) = none →
      (∀ k ∈ s.pktCopies, k.id ≠ s.ids + 1) →
      ∃ t k, exec (.pktCopy q h dst src r) s = .next t ∧ k ∈ t.pktCopies ∧ k.st = .moving ∧ k.dst = dst ∧ k.src = src ∧ k.layout = r ∧
        k.pkt = some (q, s.ids) ∧ k.cluster = s.copyCluster x.desc ∧ ∃ x', t.queue? q = some x' ∧ x'.rdidx = (x.rdidx + h.len) % 2 ^ 32) ∧
    (∀ stamp bufs m C items, x.chain = some m → h.err = false → s.measureAll x false stamp bufs = some (C, items) → h.putBead = false → h.intr = false →
      ∃ t, exec (.measure q h stamp bufs) s = .next t ∧
        t.queue? q = some { passed x h.len with chain := some (items.foldl (fun m i => extend m 5 i) m) }) ∧
    (∀ i stamp bufs, x.chain = none ∨ h.err = true ∨ s.measureAll x false stamp bufs = none →
      (i = .measure q h stamp bufs ∨ ∃ dest, i = .receipt q h stamp dest bufs) →
      ∃ t x', exec i s = .next t ∧ t.queue? q = some x' ∧ x'.stop = 0x12 ∧ x'.rdidx = x.rdidx ∧ x'.chain = x.chain) ∧
    (∀ stamp dest bufs, s.packetPage x.desc dest = none ∨ s.packetPage x.desc (dest + 1567) = none →
      ∃ t x', exec (.receipt q h stamp dest bufs) s = .next t ∧ t.queue? q = some x' ∧ x'.stop = 0x12 ∧ x'.rdidx = x.rdidx ∧ x'.chain = x.chain) ∧
    (∀ stamp dest bufs m C items pa pb, x.chain = some m → h.err = false → s.measureAll x false stamp bufs = some (C, items) → s.packetPage x.desc dest = some pa →
      s.packetPage x.desc (dest + 1567) = some pb → h.putBead = false → h.intr = false →
      ∃ t, exec (.receipt q h stamp dest bufs) s = .next t ∧ t.last = s.last + 1 ∧
        t.queue? q = some { passed x h.len with chain := some (items.foldl (fun m i => extend m 4 i) m) })

/-- R366, R369 to R371, R380, R414: a queue is created under the lowest free number, with its measurement chain begun, of a function that
exists and is enabled; one that has blocked for 100 µs gives up its thread to the first queue that waits, and its bead requests that are not
performed are withdrawn; the coalescing timer sends each pending vector once. The number that a queue takes is the model's choice (log 47).
-/
def Obligations.QueueEvents : Prop :=
  (∀ (s : State) (d : QueueDesc), s.featOn = true → s.isReady 0x0C = true → s.freeQueue < 4096 → QueueDesc.ok d = true → s.funcOn d.func = true →
    (s.part? d.ptop d.pchild).isSome = true → ∃ t x, exec (.queueCreate d) s = .next t ∧ t.queue? s.freeQueue = some x ∧ x.desc = d ∧ x.wridx = 0 ∧
      x.rdidx = 0 ∧ x.stop = 0 ∧ x.mapped = false ∧ x.reports = [] ∧ x.chain.isSome = d.measured ∧ (t.ctx? (ctxOfDesc d)).isSome = true ∧
      Tab.get 0 t.created s.freeQueue = Tab.get 0 s.created s.freeQueue + 1 ∧ ∀ n, n ≠ s.freeQueue → t.queue? n = s.queue? n) ∧
  (∀ (s : State) (d : QueueDesc), s.featOn = false ∨ QueueDesc.ok d = false ∨ s.funcOn d.func = false ∨ (s.part? d.ptop d.pchild).isSome = false → exec (.queueCreate d) s = .next s) ∧
  (∀ (s : State) (q n : Nat) (x : Queue), s.queue? q = some x → x.since = some n → x.mapped = true → n + 100000 ≤ s.tick →
    Tab.wf none s.queues = true → s.mappedCount ≤ 32 →
    (∀ r rest y, s.waitMap = r :: rest → r ≠ q → s.queue? r = some y → ∃ t x', exec (.queueUnmap q) s = .next t ∧ t.queue? q = some x' ∧ x'.mapped = false ∧
      x'.since = none ∧ x'.rdidx = x.rdidx ∧ x'.now = x.now ∧ t.waitMap = rest ++ [q] ∧
      (∀ k l, (k, some l) ∈ t.svcQ → ∀ r ∈ l, ¬(x.pre = .bead r.id ∨ x.op = .bead r.id)) ∧ (∀ k ∈ t.waits, ¬(x.pre = .bead k.req.id ∨ x.op = .bead k.req.id)) ∧
      t.queue? r = some { y with mapped := true, since := if y.pre.blocks = true ∨ y.op.blocks = true then some s.tick else y.since }) ∧
    (s.waitMap = [] → ∃ t x', exec (.queueUnmap q) s = .next t ∧ t.waitMap = [] ∧ t.queue? q = some x' ∧ x'.mapped = true ∧ x'.rdidx = x.rdidx ∧ x'.now = x.now)) ∧
  (∀ (s : State) (q n : Nat) (x : Queue), s.queue? q = some x → x.since = some n → s.tick < n + 100000 → exec (.queueUnmap q) s = .next s) ∧
  (∀ (s : State) (func n : Nat), Assoc.at s.msiSince func = some n → n + 1000 * Tab.get 0 s.coalesce func ≤ s.tick →
    exec (.msiCoalesceExpiry func) s = .next { s with msiSent := s.msiSent ++ s.msiPend.filter (fun p => decide (p.1 = func)),
                                                      msiPend := s.msiPend.filter (fun p => decide (p.1 ≠ func)), msiSince := Assoc.drop s.msiSince func })

/-- R366 to R369, R418, R422, R327: power-up clears the package; one signed download configures it, and a bad signature is reported; each
function that has not reported does: firmware, host ports, the queue processor, stacks, dies and Perxus ports; features are written once
each, masked by the offer, and take effect with the last word; the write of bit 0, which cannot be declined, is ignored (R27); a 64-bit
write is that of its two words. R381 to R384, R398, R294, R367, R421, R422: a partition is made only by firmware that the boot ROM has
accepted, once the features have taken effect, and where the rules of the descriptors hold, and changed or removed where they allow it;
children leave entry 0 of the cycle its 100 µs (log 37); a core that firmware marks is out of service. What POWER_UP keeps and the default
pool are the model's choice (log 50, log 51), and corners of schedules by log 37. -/
def Obligations.BringUp : Prop :=
  ((∀ (s : State), ∃ t, exec .powerUp s = .next t ∧ t = { State.reset with agenda := s.agenda, free := s.free, hostMem := s.hostMem, hostPg := s.hostPg, msiSent := s.msiSent }) ∧
  (∀ (s : State) (fw : Firmware), s.fw.accepted = false → Tab.get 0#32 s.ready 0 = 0#32 →
    (fw.signatureOk = false → exec (.firmwareDownload fw) s = .next { s with ready := Tab.set 0#32 s.ready 0 (0x40000001#32) }) ∧
    (fw.signatureOk = true → fw.pufOk = true → ∃ t, exec (.firmwareDownload fw) s = .next t ∧ t = { s with fw := t.fw, pkg := fw.pkg % 256, fabric := fw.fabric.filter (fun e => decide (e.1 ≠ fw.pkg % 256)) } ∧
      t.fw.accepted = true ∧ t.fw.version = fw.version ∧ t.fw.keyed = true ∧ t.fw.pool = if fw.poolDenom = 16 ∨ fw.poolDenom = 4 then fw.poolDenom else 8) ∧
    (fw.signatureOk = true → fw.pufOk = false → ∃ t, exec (.firmwareDownload fw) s = .next t ∧ t.fw.accepted = true ∧ t.fw.keyed = false ∧
      Tab.get 0#32 t.ready 0 = 0x40000002#32)) ∧
  (∀ (s : State) (fw : Firmware), s.fw.accepted = true → exec (.firmwareDownload fw) s = .next s) ∧
  (∀ (s : State) (fn : Func) (off : Nat) (ok : Bool) (code : Nat),
    (fn = .firmware ∧ off = 0) ∨ (∃ n, n < 2 ∧ fn = .hostPort n ∧ off = 4 + 4 * n) ∨ (fn = .queueProc ∧ off = 0x0C) ∨
      (∃ n, n < 32 ∧ fn = .stack n ∧ off = 0x100 + 4 * n) ∨ (∃ n, n < 64 ∧ fn = .die n ∧ off = 0x200 + 4 * n) ∨
      (∃ n, n < 18 ∧ fn = .port n ∧ off = 0x300 + 4 * n) →
    let v := if ok then 0x80000000#32 else BitVec.ofNat 32 (2 ^ 30 + code % 2 ^ 16)
    (s.fw.accepted = true → Tab.get 0#32 s.ready off = 0#32 → exec (.functionReady fn ok code) s = .next { s with ready := Tab.set 0#32 s.ready off v }) ∧
    (s.fw.accepted = false ∨ Tab.get 0#32 s.ready off ≠ 0#32 → exec (.functionReady fn ok code) s = .next s)) ∧
  (∀ (s : State) (j : Nat) (val : Word64), j < 8 → s.fw.accepted = true → s.featOn = false → s.featSet.getLsbD j = false →
    ∃ t, exec (.featureWrite (0x420 + 4 * j) false val) s = .next t ∧
      Tab.get 0#32 t.feat j = (val.setWidth 32 ||| (if j = 0 then 1#32 else 0#32)) &&& (if j = 0 then (if s.fw.keyed then 0xFF3#32 else 0xEF3#32) else 0#32) ∧
      t.featSet = s.featSet ||| BitVec.ofNat 8 (2 ^ j) ∧ t.featOn = decide (j = 7)) ∧
  (∀ (s : State) (k : Nat) (val : Word64), k < 4 → ∃ u, exec (.featureWrite (0x420 + 8 * k) false val) s = .next u ∧
    exec (.featureWrite (0x420 + 8 * k) true val) s = exec (.featureWrite (0x424 + 8 * k) false (val >>> 32)) u) ∧
  (∀ (s : State) (j : Nat) (val : Word64), j < 8 → s.featOn = true ∨ s.featSet.getLsbD j = true → exec (.featureWrite (0x420 + 4 * j) false val) s = .next s) ∧
  (∀ (s : State) (off : Nat) (wide : Bool) (val : Word64), s.fw.accepted = false ∨ off < 0x420 ∨ 0x440 ≤ off ∨ off % 4 ≠ 0 ∨ (wide = true ∧ off % 8 ≠ 0) →
    exec (.featureWrite off wide val) s = .next s)) ∧
  ((∀ (s : State) (d : PartDesc), (∀ p ∈ s.partList, p.top ≠ d.top ∨ p.child ≠ d.child) → d.child = 0 ∨ s.feature 11 = true →
    (s.fw.accepted = false ∨ s.featOn = false → exec (.partitionCreate d) s = .next s) ∧
    (partsOk (d :: s.partList) = true → s.fw.accepted = true → s.featOn = true → exec (.partitionCreate d) s = .next { s with parts := Assoc.put s.parts (16 * d.top + d.child) d }) ∧
    (partsOk (d :: s.partList) = false → exec (.partitionCreate d) s = .next s)) ∧
  (∀ (s : State) (d : PartDesc), (∃ p ∈ s.partList, p.top = d.top ∧ p.child = d.child) ∨ (d.child ≠ 0 ∧ s.feature 11 = false) →
    exec (.partitionCreate d) s = .next s) ∧
  (∀ (ds : List PartDesc) (p : PartDesc), partsOk ds = true → p ∈ ds → p.child = 0 → (∃ k ∈ ds, k.top = p.top ∧ k.child ≠ 0) →
    (((ds.filter (fun k => decide (k.top = p.top ∧ k.child ≠ 0))).map (fun k => k.slice)).foldl (· + ·) 0) + 100 ≤ p.slice) ∧
  (∀ (s : State) (d old : PartDesc), s.part? d.top d.child = some old → d.child = 0 ∨ s.feature 11 = true → s.grids = [] →
    partsOk (d :: s.partList.filter (fun x => !samePartId d x)) = true →
    exec (.partitionChange d) s = .next { s with parts := Assoc.put s.parts (16 * d.top + d.child) d }) ∧
  (∀ (s : State) (top child : Nat), s.grids = [] → s.queues = [] → s.children top = [] →
    ∃ t, exec (.partitionRemove top child) s = .next t ∧ t.part? top child = none ∧ t = { s with parts := t.parts, scheds := t.scheds }) ∧
  (∀ (s : State) (core : Nat), core < 6144 → core ∉ s.oos → exec (.coreOutOfService core) s = .next { s with oos := s.oos ++ [core] }))

/-- R4, R280, R285, R315, R318, R367, R368, R371, R380, R400, R406, R408, R410, R419, R425: a write of a register without a row of its own:
service flags are cleared by ones, read-only words keep their value, and the debugger's and the host's registers take theirs, none of this
package's before its firmware has been accepted; firmware writes an entry of a page table in one committed step, and the beads of a page
that it maps as BEAD are down with value 0 from then on. The page entry and the checkpoint area are registers by log 71 and log 49, and the
register of a host page, its 4,096 bytes and its code are the model's choice (log 14). -/
def Obligations.RegisterWrites : Prop :=
  ∀ (s : State) (val : Word64),
    (∀ r, s.answers r = false → exec (.registerWrite r val) s = .next s) ∧
    (s.fw.accepted = false → ∀ r, (∀ ctx iova, r ≠ .hostMem ctx iova) → (∀ ctx page, r ≠ .hostPage ctx page) →
      (∀ pkg pa lvl, pkg ≠ s.pkg → r ≠ .pageEntry pkg pa lvl) → s.answers r = false) ∧
    (∀ ctx iova, exec (.registerWrite (.hostMem ctx iova) val) s =
      .next { s with hostMem := storeBytes s.hostMem (hostKey ctx iova) (natToBytes 8 val.toNat) }) ∧
    (∀ ctx page, ∃ t, exec (.registerWrite (.hostPage ctx page) val) s = .next t ∧ t = { s with hostPg := t.hostPg } ∧
      ∀ k, Tab.get 0 t.hostPg k = if k = hostKey ctx 0 / 4096 + page then val.toNat % 4 else Tab.get 0 s.hostPg k) ∧
    (s.fw.accepted = true →
    (∀ cluster part, cluster < 1536 → part < 16 → ∃ t, exec (.registerWrite (.serviceFlags cluster part) val) s = .next t ∧
      t = { s with svcFlags := t.svcFlags } ∧ ∀ k, Tab.get 0#5 t.svcFlags k =
        if k = 16 * cluster + part then Tab.get 0#5 s.svcFlags k &&& ~~~(val.setWidth 5) else Tab.get 0#5 s.svcFlags k) ∧
    (∀ off, exec (.registerWrite (.readiness off) val) s = .next s) ∧ (∀ q off, exec (.registerWrite (.notifyPage q off) val) s = .next s) ∧
    (∀ core n w, n < 16 → s.onCore core = some w → s.attached w = true → ∃ t w', exec (.registerWrite (.breakpoint core n) val) s = .next t ∧
      t = s.setCore core w' ∧ w' = { w with brk := w'.brk } ∧ Tab.get 0#64 w'.brk n = val &&& 0xFFFFFFFFFFFFFFF3#64) ∧
    (∀ core n w, n < 8 → s.onCore core = some w → s.attached w = true → ∃ t w', exec (.registerWrite (.watchBase core n) val) s = .next t ∧
      t = s.setCore core w' ∧ w' = { w with wbase := w'.wbase } ∧ Tab.get 0#64 w'.wbase n = val) ∧
    (∀ core n w, n < 8 → s.onCore core = some w → s.attached w = true → val.toNat / 8 % 32 ≤ 27 → ∃ t w', exec (.registerWrite (.watchCtl core n) val) s = .next t ∧
      t = s.setCore core w' ∧ w' = { w with wctl := w'.wctl } ∧ Tab.get 0#32 w'.wctl n = val.setWidth 32 &&& 0xFF#32) ∧
    (∀ core n, 27 < val.toNat / 8 % 32 → exec (.registerWrite (.watchCtl core n) val) s = .next s) ∧
    (∀ r core n, r = .breakpoint core n ∨ r = .watchBase core n ∨ r = .watchCtl core n → (∀ w, s.onCore core = some w → s.attached w = false) →
      exec (.registerWrite r val) s = .next s) ∧
    (∀ ctx k base log2 func, s.ctx? ctx = some k → base % 4096 = 0 → 12 ≤ log2 → log2 ≤ 30 →
      (∃ t, exec (.registerWrite (.traceRing ctx base log2 func) val) s = .next t ∧ t = { s with ctxs := t.ctxs } ∧
        t.ctx? ctx = some { k with ring := some ⟨base, log2, func⟩ }) ∧
      ∃ t, exec (.registerWrite (.replayRing ctx base log2 func) val) s = .next t ∧ t = { s with ctxs := t.ctxs } ∧
        t.ctx? ctx = some { k with rring := some ⟨base, log2, func⟩ }) ∧
    (∀ ctx base log2 func, base % 4096 ≠ 0 ∨ log2 < 12 ∨ 30 < log2 →
      exec (.registerWrite (.traceRing ctx base log2 func) val) s = .next s ∧ exec (.registerWrite (.replayRing ctx base log2 func) val) s = .next s) ∧
    (∀ ctx k r, s.ctx? ctx = some k → k.ring = some r → exec (.registerWrite (.traceReadIndex ctx) val) s =
      .next { s with hostMem := storeBytes s.hostMem (hostKey (r.func * 2 ^ 20) (r.base + 8)) (natToBytes 8 val.toNat) }) ∧
    (∀ ctx k, s.ctx? ctx = some k → ∃ t, exec (.registerWrite (.ckptArea ctx) val) s = .next t ∧
      t.ctx? ctx = some { k with area := val.toNat } ∧ t = { s with ctxs := t.ctxs }) ∧
    (∀ ctx k, s.ctx? ctx = some k → val.toNat ≤ 65536 → ∃ t, exec (.registerWrite (.sampling ctx) val) s = .next t ∧
      t.ctx? ctx = some { k with sampling := val.toNat } ∧ t = { s with ctxs := t.ctxs }) ∧
    (∀ ctx k, s.ctx? ctx = some k → 100 ≤ val.toNat → val.toNat ≤ 10000000 → ∃ t, exec (.registerWrite (.ckptInterval ctx) val) s = .next t ∧
      t.ctx? ctx = some { k with interval := val.toNat, since := s.tick } ∧ t = { s with ctxs := t.ctxs }) ∧
    (∀ func, val.toNat ≤ 1000 → exec (.registerWrite (.coalesce func) val) s = .next { s with coalesce := Tab.set 0 s.coalesce func val.toNat }) ∧
    (∀ ctx k, s.ctx? ctx = some k → ∃ t, exec (.registerWrite (.recording ctx) val) s = .next t ∧
      t.ctx? ctx = some { k with recording := val.getLsbD 0 } ∧ t = { s with ctxs := t.ctxs }) ∧
    (∀ ctx k, s.ctx? ctx = some k → ∃ t, exec (.registerWrite (.frameStop ctx) val) s = .next t ∧
      t.ctx? ctx = some { k with frameStop := val.getLsbD 0 } ∧ t = { s with ctxs := t.ctxs }) ∧
    (∀ ctx pkg root k, s.ctx? ctx = some k → ∃ t, exec (.registerWrite (.peerMap ctx pkg root) val) s = .next t ∧
      t.ctx? ctx = some { k with peers := (pkg, root) :: k.peers.filter (fun p => decide (p.1 ≠ pkg)) } ∧ t = { s with ctxs := t.ctxs }) ∧
    (∀ pa lvl, val.getLsbD 0 = true → val.getLsbD 3 = true → pteOk val.toNat lvl = true → (∃ k < 32, (Tab.get 0#32 s.ready (0x100 + 4 * k)).getLsbD 31 = false) →
      exec (.registerWrite (.pageEntry s.pkg pa lvl) val) s = .next s) ∧
    (∀ pa lvl, pa % 8 = 0 → lvl ≤ 3 → pa < 2 ^ 42 →
      (val.getLsbD 0 = true → val.getLsbD 3 = true → pteOk val.toNat lvl = true → ∀ k < 32, (Tab.get 0#32 s.ready (0x100 + 4 * k)).getLsbD 31 = true) → ∃ t, exec (.registerWrite (.pageEntry s.pkg pa lvl) val) s = .next t ∧
      t.dev.vers = (s.dev.put (.committed (s.last + 1)) pa (natToBytes 8 val.toNat)).vers ∧ t.last = s.last + 1 ∧
      (val.getLsbD 0 = true → val.getLsbD 3 = true → pteOk val.toNat lvl = true → val.toNat / 64 % 4 = 2 → Tab.wf Bead.fresh s.dev.beads = true →
        ∀ a, t.dev.bead a = if val.toNat / 2 ^ 16 % 2 ^ 32 * 2 ^ 16 ≤ a ∧ a < val.toNat / 2 ^ 16 % 2 ^ 32 * 2 ^ 16 + 2 ^ levelShift lvl then Bead.fresh
          else s.dev.bead a)) ∧
    (∀ core, s.onCore core = none → exec (.registerWrite (.firmwareEvent core) val) s = .next s) ∧
    (∀ core w, s.onCore core = some w → ∃ t w', exec (.registerWrite (.firmwareEvent core) val) s = .next t ∧
      t = { s.setCore core w' with sigin := Tab.set 0#32 s.sigin core (Tab.get 0#32 s.sigin core ||| BitVec.ofNat 32 (2 ^ (val.toNat % 32))) } ∧
      w' = { w with frames := w'.frames, rwake := w'.rwake, rst := w'.rst } ∧
      (s.reckWaits w = true → w'.rwake = w.rwake ||| 64#7) ∧ (s.reckWaits w = false → w'.rwake = w.rwake ∧ w'.rst = w.rst)))

/-- R324, R331, R429: a failed die is reported and leaves the frontier, the requests that it homes end with STORAGE and bit 4, and the
workgroups on its cores halt with STORAGE; a failed port is reported and logged, and a package that no port reaches any more loses its
requests, which end with STORAGE and bit 5, those too whose answers are on their way, and the versions of its phases here; an error that
nobody reads is logged, one in a TLB entry makes it a miss, and a corrected one that a workgroup met sets bit 6; a link that fails under a
request, an access, an answer or a page walk ends it with STORAGE and bit 5, at the workgroup's next issue, and under a copy ends that with
ERR STORAGE. That STORAGE of a failed die has party 0xFF and pc 0 is the model's choice (log 24); a lost acknowledgement is read by log 45,
and the value of a failed bead request is the model's choice (log 42). -/
def Obligations.Failures : Prop :=
  (∀ (s : State) (die code : Nat), die < 64 → s.isReady (0x200 + 4 * die) = true →
    let mine := fun (r : SReq) => r.pkg = s.pkg ∧ s.homeOf r.pkg r.pa / 24 = die
    ∃ u : State, u = { s with ready := u.ready, dieIn := u.dieIn, phaseTab := u.phaseTab, svcQ := u.svcQ, waits := u.waits, returned := u.returned, replies := u.replies, ids := u.ids } ∧
      Tab.get 0#32 u.ready (0x200 + 4 * die) = BitVec.ofNat 32 (2 ^ 30 + code % 2 ^ 16) ∧ u.dieIn = s.dieIn &&& ~~~(BitVec.ofNat 64 (2 ^ die)) ∧
      (∀ e ∈ u.phaseTab, e.missing.getLsbD die = false) ∧
      (∀ r, mine r → (∃ k l, (k, some l) ∈ s.svcQ ∧ r ∈ l) ∨ (∃ w ∈ s.waits, w.req = r) ∨ r ∈ s.returned →
        ∃ p ∈ u.replies, p.2.src = r.src ∧ p.2.pkg = r.pkg ∧ p.2.err = 16) ∧
      (∀ r, mine r → (∀ k l, (k, some l) ∈ u.svcQ → r ∉ l) ∧ (∀ w ∈ u.waits, w.req ≠ r) ∧ r ∉ u.returned) ∧
      exec (.dieFailed die code) s = .next ((u.live.filter (fun p => decide (p.1 / 96 = die))).foldl
        (fun s p => match s.wg? p.2.grid p.2.idx with | some w => s.finalFault w ⟨.storage, 0xFF, 0, 0⟩ | none => s) u)) ∧
  (∀ (s : State) (die code : Nat), s.isReady (0x200 + 4 * die) = false → exec (.dieFailed die code) s = .next s) ∧
  (∀ (s : State) (port code : Nat), port < 18 → s.isReady (0x300 + 4 * port) = true →
    ∃ u : State, u = { s with ready := u.ready, evlog := s.evlog ++ [.portDown port] } ∧
      Tab.get 0#32 u.ready (0x300 + 4 * port) = BitVec.ofNat 32 (2 ^ 30 + code % 2 ^ 16) ∧
      exec (.portDown port code) s = .next ((s.fabric.filter (fun e => e.2.contains port && !u.pkgLive e.1)).foldl (fun s e => s.losePkg e.1) u)) ∧
  (∀ (s : State) (pkg : Nat), pkg ≠ s.pkg → (∀ k ∈ s.peerCms, k.pkg ≠ pkg) →
    let t := s.losePkg pkg
    t.peerq = s.peerq.filter (fun r => decide (r.pkg ≠ pkg)) ∧ (∀ v ∈ t.dev.vers, ∀ tag, v.owner ≠ .peer pkg tag) ∧
    (∀ p ∈ s.replies, p.2.pkg = pkg → (p.1, { p.2 with err := Nat.lor p.2.err 32 }) ∈ t.replies) ∧
    (∀ r, r.pkg = pkg → (∀ n, r.src ≠ .peer n) → (∃ k l, (k, some l) ∈ s.svcQ ∧ r ∈ l) ∨ (∃ w ∈ s.waits, w.req = r) ∨ r ∈ s.returned →
      ∃ p ∈ t.replies, p.2.src = r.src ∧ p.2.pkg = pkg ∧ p.2.err = 32) ∧
    (∀ w r l a, s.wg? w.grid w.idx = some w → w.storage = none → w.req? r.id = some r → r.kind = .load 8 → (l, a) ∈ r.addrs → l < 32 →
      r.wait.getLsbD l = true → a / 2 ^ 48 = pkg →
      ∃ w' f, t.wg? w.grid w.idx = some w' ∧ w'.storage = some f ∧ f.code = .storage ∧ w'.endflags.testBit 5 = true)) ∧
  (∀ (s : State) (g i n l bits : Nat) (w : Wg) (q : Req), s.wg? g i = some w → w.req? n = some q →
    ∃ w', (s.failLane (.lane g i n l) bits).wg? g i = some w' ∧ w'.endflags = Nat.lor w.endflags bits ∧
      (w.storage = none → w'.storage = some ⟨.storage, q.frame, q.pc.toNat, 0⟩) ∧ ∀ q', w'.req? n = some q' → q'.wait.getLsbD l = false ∨ 32 ≤ l) ∧
  (∀ (s : State) (addr : Nat), exec (.scrubbing (.unread addr)) s = .next { s with evlog := s.evlog ++ [.storage addr] }) ∧
  (∀ (s : State) (n : Nat), exec (.scrubbing (.tlb n)) s = .next { s with tlb := s.tlb.eraseIdx n }) ∧
  (∀ (s : State) (core : Nat) (w : Wg), s.onCore core = some w → ∃ w', exec (.scrubbing (.corrected core)) s = .next (s.setCore core w') ∧
    w' = { w with endflags := w'.endflags } ∧ w'.endflags.testBit 6 = true) ∧
  (∀ (s : State) (id : Nat) (src : Source), s.svcQ = [] → s.waits = [] → s.returned = [] → (∀ w ∈ s.wgs, ∀ r ∈ w.reqs, r.id ≠ id) →
    (∀ k ∈ s.walks, k.id ≠ id) → (∀ w ∈ s.wgs, ∀ k ∈ w.copies, k.id ≠ id) → (∀ k ∈ s.pktCopies, k.id ≠ id) →
    (s.mesh.filter (fun r => decide (r.id = id))).map (fun r => r.src) ++ (s.acks.filter (fun p => decide (p.1 = id))).map (fun p => p.2.src) ++
      (s.hostq.filter (fun r => decide (r.id = id))).map (fun r => r.src) ++ (s.peerq.filter (fun r => decide (r.id = id))).map (fun r => r.src) = [src] →
    ∃ u : State, u = { s with mesh := s.mesh.filter (fun r => decide (r.id ≠ id)), acks := s.acks.filter (fun p => decide (p.1 ≠ id)), hostq := s.hostq.filter (fun r => decide (r.id ≠ id)), peerq := s.peerq.filter (fun r => decide (r.id ≠ id)), replies := u.replies } ∧
      exec (.vyhalLinkFailure [id]) s = .next ((u.failLane src 32).failService (fun r => decide (r.id = id)) 32)) ∧
  (∀ (s : State) (id : Nat) (r : SReq), r.id = id → (∃ k l, (k, some l) ∈ s.svcQ ∧ r ∈ l) ∨ (∃ w ∈ s.waits, w.req = r) ∨ r ∈ s.returned →
    ∃ t, exec (.vyhalLinkFailure [id]) s = .next t ∧ (∃ p ∈ t.replies, p.2.src = r.src ∧ p.2.pkg = r.pkg ∧ p.2.err = 32) ∧
      (∀ k l, (k, some l) ∈ t.svcQ → r ∉ l) ∧ (∀ w ∈ t.waits, w.req ≠ r) ∧ r ∉ t.returned) ∧
  (∀ (s : State) (id : Nat) (w : Wg) (r : Req) (l : Nat), (∀ m ∈ s.mesh, m.id ≠ id) → (∀ p ∈ s.acks, p.1 ≠ id) → (∀ h ∈ s.hostq, h.id ≠ id) → (∀ p ∈ s.peerq, p.id ≠ id) →
    s.svcQ = [] → s.waits = [] → s.returned = [] → s.wgs = [w] → w.req? id = some r → r.kind = .load 0 ∨ r.kind = .load 1 → r.wait.getLsbD l = true → w.storage = none →
    ∃ t w', exec (.vyhalLinkFailure [id]) s = .next t ∧ t.wg? w.grid w.idx = some w' ∧ w'.storage = some ⟨.storage, r.frame, r.pc.toNat, 0⟩ ∧ w'.endflags.testBit 5 = true) ∧
  (∀ (s : State) (id : Nat) (k : Walk), s.walks.find? (fun k => decide (k.id = id) && !k.failed) = some k →
    ∃ t, exec (.vyhalLinkFailure [id]) s = .next t ∧ (∀ v ∈ t.walks, v.id ≠ id) ∧
      ∀ a ∈ k.asks, ∀ w, s.wg? a.grid a.wg = some w → ∃ w' f, t.wg? a.grid a.wg = some w' ∧ (w'.storage = some f ∧ (w.storage = none → f.code = .storage)) ∧
        w'.endflags.testBit 5 = true) ∧
  (∀ (s : State) (id : Nat) (w : Wg) (k : Copy), s.copyOf id = some (w, k) → s.wg? w.grid w.idx = some w → k.st = .moving → w.halt = false →
    k.group = 0 ∨ k.layout.ctl.testBit 15 = false → k.pkt = none →
    ∃ t w', exec (.vyhalLinkFailure [id]) s = .next t ∧ t.copyOf id = some (w', { k with err := 0x0A, st := .finishing }) ∧ w'.endflags.testBit 5 = true) ∧
  (∀ (s : State) (id : Nat), (∀ m ∈ s.mesh, m.id ≠ id) → (∀ p ∈ s.acks, p.1 ≠ id) → (∀ h ∈ s.hostq, h.id ≠ id) → (∀ p ∈ s.peerq, p.id ≠ id) →
    s.svcQ = [] → s.waits = [] → s.returned = [] → (∀ w ∈ s.wgs, ∀ r ∈ w.reqs, r.id ≠ id) →
    (∀ k ∈ s.walks, k.id ≠ id) → (∀ w ∈ s.wgs, ∀ k ∈ w.copies, k.id ≠ id) → (∀ k ∈ s.pktCopies, k.id ≠ id) →
    exec (.vyhalLinkFailure [id]) s = .next { s with replies := s.replies.map (fun p => if p.1 = id then (p.1, { p.2 with err := Nat.lor p.2.err 32 }) else p) })
end

