-- ==== Sys2Proof/Laws/Tab.lean ====
section
/-!
SUPPORT. Laws of the sparse table: what a read answers after a write, and that every write keeps the canonical form.
-/
namespace Sys2Proof

variable {α : Type}

/-! ### Reads after writes -/

@[simp] theorem Tab.get_nil (d : α) (k : Nat) : Tab.get d [] k = d := rfl

theorem Tab.get_erase_same (d : α) (t : Tab α) (k : Nat) : Tab.get d (Tab.erase k t) k = d := by
  induction t with
  | nil => rfl
  | cons p t ih =>
    obtain ⟨a, b⟩ := p
    by_cases h : a = k <;> simp [Tab.erase, Tab.get, h, ih]

theorem Tab.get_erase_other (d : α) (t : Tab α) (k j : Nat) (h : j ≠ k) : Tab.get d (Tab.erase k t) j = Tab.get d t j := by
  induction t with
  | nil => rfl
  | cons p t ih =>
    obtain ⟨a, b⟩ := p
    by_cases h1 : a = k
    · subst h1; simp [Tab.erase, Tab.get, ih, Ne.symm h]
    · by_cases h2 : a = j
      · subst h2; simp [Tab.erase, Tab.get, h1]
      · simp [Tab.erase, Tab.get, h1, h2, ih]

theorem Tab.get_insert_same (d : α) (t : Tab α) (k : Nat) (v : α) (h : ∀ p ∈ t, p.1 ≠ k) : Tab.get d (Tab.insert k v t) k = v := by
  induction t with
  | nil => simp [Tab.insert, Tab.get]
  | cons p t ih =>
    obtain ⟨a, b⟩ := p
    have ha : a ≠ k := h (a, b) (by simp)
    by_cases h1 : k < a
    · simp [Tab.insert, Tab.get, h1]
    · simp [Tab.insert, Tab.get, h1, ha, ih (fun p hp => h p (by simp [hp]))]

theorem Tab.get_insert_other (d : α) (t : Tab α) (k j : Nat) (v : α) (h : j ≠ k) : Tab.get d (Tab.insert k v t) j = Tab.get d t j := by
  induction t with
  | nil => simp [Tab.insert, Tab.get, Ne.symm h]
  | cons p t ih =>
    obtain ⟨a, b⟩ := p
    by_cases h1 : k < a
    · simp [Tab.insert, Tab.get, h1, Ne.symm h]
    · by_cases h2 : a = j
      · subst h2; simp [Tab.insert, Tab.get, h1]
      · simp [Tab.insert, Tab.get, h1, h2, ih]

theorem Tab.erase_ne (t : Tab α) (k : Nat) : ∀ p ∈ Tab.erase k t, p.1 ≠ k := by
  induction t with
  | nil => simp [Tab.erase]
  | cons q t ih =>
    obtain ⟨a, b⟩ := q
    by_cases h : a = k
    · simpa [Tab.erase, h] using ih
    · intro p hp
      simp only [Tab.erase, h, if_false, List.mem_cons] at hp
      rcases hp with rfl | hp
      · exact h
      · exact ih p hp

/-- A read after a write to the same key gives what was written. -/
@[simp] theorem Tab.get_set_same [DecidableEq α] (d : α) (t : Tab α) (k : Nat) (v : α) : Tab.get d (Tab.set d t k v) k = v := by
  unfold Tab.set
  split
  · next h => rw [Tab.get_erase_same, h]
  · exact Tab.get_insert_same d _ k v (Tab.erase_ne t k)

/-- A write leaves every other key alone. -/
theorem Tab.get_set_other [DecidableEq α] (d : α) (t : Tab α) (k j : Nat) (v : α) (h : j ≠ k) :
    Tab.get d (Tab.set d t k v) j = Tab.get d t j := by
  unfold Tab.set
  split
  · exact Tab.get_erase_other d t k j h
  · rw [Tab.get_insert_other d _ k j v h, Tab.get_erase_other d t k j h]

theorem Tab.get_set [DecidableEq α] (d : α) (t : Tab α) (k j : Nat) (v : α) :
    Tab.get d (Tab.set d t k v) j = if j = k then v else Tab.get d t j := by
  by_cases h : j = k
  · subst h; simp
  · simp [h, Tab.get_set_other d t k j v h]

/-- A list of writes leaves a key that it does not name. -/
theorem Tab.get_setAll_other [DecidableEq α] (d : α) (kvs : List (Nat × α)) (t : Tab α) (j : Nat) (h : ∀ p ∈ kvs, p.1 ≠ j) :
    Tab.get d (Machine.Tab.setAll d t kvs) j = Tab.get d t j := by
  induction kvs generalizing t with
  | nil => rfl
  | cons p kvs ih =>
    have := ih (Tab.set d t p.1 p.2) (fun q hq => h q (by simp [hq]))
    simp only [Machine.Tab.setAll, List.foldl_cons] at this ⊢
    rw [this, Tab.get_set_other d t p.1 j p.2 (Ne.symm (h p (by simp)))]

/-- A list of writes with each key once gives each what it was written. -/
theorem Tab.get_setAll_mem [DecidableEq α] (d : α) (kvs : List (Nat × α)) (t : Tab α) (p : Nat × α) (hp : p ∈ kvs)
    (hn : (kvs.map (·.1)).Nodup) : Tab.get d (Machine.Tab.setAll d t kvs) p.1 = p.2 := by
  induction kvs generalizing t with
  | nil => simp at hp
  | cons q kvs ih =>
    simp only [List.map_cons, List.nodup_cons] at hn
    rcases List.mem_cons.mp hp with rfl | hp
    · have h := Tab.get_setAll_other d kvs (Tab.set d t p.1 p.2) p.1 (fun r hr e => hn.1 (e ▸ List.mem_map_of_mem hr))
      simp only [Machine.Tab.setAll, List.foldl_cons] at h ⊢
      rw [h, Tab.get_set_same]
    · exact ih (Tab.set d t q.1 q.2) hp hn.2

/-! ### The canonical form -/

theorem Tab.mem_erase {t : Tab α} {k : Nat} {p : Nat × α} (h : p ∈ Tab.erase k t) : p ∈ t := by
  induction t with
  | nil => simp [Tab.erase] at h
  | cons q t ih =>
    obtain ⟨a, b⟩ := q
    by_cases ha : a = k
    · simp only [Tab.erase, ha, if_true] at h
      exact List.mem_cons_of_mem _ (ih h)
    · simp only [Tab.erase, ha, if_false, List.mem_cons] at h
      rcases h with rfl | h
      · simp
      · exact List.mem_cons_of_mem _ (ih h)

theorem Tab.mem_insert {t : Tab α} {k : Nat} {v : α} {p : Nat × α} (h : p ∈ Tab.insert k v t) : p = (k, v) ∨ p ∈ t := by
  induction t with
  | nil => simpa [Tab.insert] using h
  | cons q t ih =>
    obtain ⟨a, b⟩ := q
    by_cases ha : k < a
    · simpa [Tab.insert, ha] using h
    · simp only [Tab.insert, ha, if_false, List.mem_cons] at h
      rcases h with rfl | h
      · simp
      · rcases ih h with h | h
        · exact .inl h
        · exact .inr (List.mem_cons_of_mem _ h)

variable [DecidableEq α]

theorem Tab.wf_cons {d : α} {a : Nat} {b : α} {t : Tab α} :
    Tab.wf d ((a, b) :: t) = true ↔ b ≠ d ∧ (∀ p ∈ t, a < p.1) ∧ Tab.wf d t = true := by
  simp [Tab.wf, Bool.and_eq_true, List.all_eq_true, and_assoc]

theorem Tab.wf_erase {d : α} {t : Tab α} (k : Nat) (h : Tab.wf d t = true) : Tab.wf d (Tab.erase k t) = true := by
  induction t with
  | nil => rfl
  | cons q t ih =>
    obtain ⟨a, b⟩ := q
    obtain ⟨h1, h2, h3⟩ := Tab.wf_cons.mp h
    by_cases ha : a = k
    · simpa [Tab.erase, ha] using ih h3
    · simp only [Tab.erase, ha, if_false]
      exact Tab.wf_cons.mpr ⟨h1, fun p hp => h2 p (Tab.mem_erase hp), ih h3⟩

theorem Tab.wf_insert {d : α} {t : Tab α} {k : Nat} {v : α} (h : Tab.wf d t = true) (hv : v ≠ d) (hk : ∀ p ∈ t, p.1 ≠ k) :
    Tab.wf d (Tab.insert k v t) = true := by
  induction t with
  | nil => exact Tab.wf_cons.mpr ⟨hv, by simp, rfl⟩
  | cons q t ih =>
    obtain ⟨a, b⟩ := q
    obtain ⟨h1, h2, h3⟩ := Tab.wf_cons.mp h
    by_cases ha : k < a
    · simp only [Tab.insert, ha, if_true]
      refine Tab.wf_cons.mpr ⟨hv, ?_, h⟩
      intro p hp
      rcases List.mem_cons.mp hp with rfl | hp
      · exact ha
      · exact Nat.lt_trans ha (h2 p hp)
    · simp only [Tab.insert, ha, if_false]
      refine Tab.wf_cons.mpr ⟨h1, ?_, ih h3 (fun p hp => hk p (List.mem_cons_of_mem _ hp))⟩
      intro p hp
      rcases Tab.mem_insert hp with rfl | hp
      · have : a ≠ k := hk (a, b) (by simp)
        simp only; omega
      · exact h2 p hp

/-- A write keeps the canonical form. -/
theorem Tab.wf_set {d : α} {t : Tab α} (k : Nat) (v : α) (h : Tab.wf d t = true) : Tab.wf d (Tab.set d t k v) = true := by
  unfold Tab.set
  split
  · exact Tab.wf_erase k h
  · next hv => exact Tab.wf_insert (Tab.wf_erase k h) hv (Tab.erase_ne t k)

theorem Tab.wf_setAll {d : α} (kvs : List (Nat × α)) {t : Tab α} (h : Tab.wf d t = true) : Tab.wf d (Machine.Tab.setAll d t kvs) = true := by
  induction kvs generalizing t with
  | nil => exact h
  | cons p kvs ih => exact ih (Tab.wf_set p.1 p.2 h)

theorem Tab.wf_writeLE {t : Tab Byte} (k x n : Nat) (h : Tab.wf 0 t = true) : Tab.wf 0 (Tab.writeLE t k x n) = true := by
  induction n generalizing t k x with
  | zero => exact h
  | succ n ih => exact ih (k + 1) (x / 256) (Tab.wf_set k _ h)

theorem Tab.wf_writeBytes {t : Tab Byte} (k : Nat) (bs : List Byte) (h : Tab.wf 0 t = true) : Tab.wf 0 (Tab.writeBytes t k bs) = true := by
  induction bs generalizing t k with
  | nil => exact h
  | cons b bs ih => exact ih (k + 1) (Tab.wf_set k b h)

theorem Tab.wf_poke {t : Tab Byte} (kvs : List (Nat × Byte)) (h : Tab.wf 0 t = true) : Tab.wf 0 (Machine.Tab.poke t kvs) = true :=
  Tab.wf_setAll kvs h

theorem Tab.wf_setMasked {d : α} {t : Tab α} (m : Word32) (key : Nat → Nat) (f : Nat → α) (n : Nat) (h : Tab.wf d t = true) :
    Tab.wf d (Tab.setMasked d t m key f n) = true := by
  induction n with
  | zero => exact h
  | succ n ih =>
    simp only [Tab.setMasked]
    split
    · exact Tab.wf_set _ _ ih
    · exact ih

end Sys2Proof
end

