-- ==== Sys2Proof/Laws/State.lean ====
section
/-!
SUPPORT. Laws of the state: for every update of a record, one lemma per field it leaves alone, and what it makes of the field it changes.
-/
namespace Sys2Proof.Machine

open Sys2Proof

/-! ### Changed fields -/

@[simp] theorem Assoc.at_put_same {α : Type} [DecidableEq α] (m : Assoc α) (k : Nat) (v : α) : (Assoc.put m k v).at k = some v :=
  Tab.get_set_same _ _ _ _

theorem Assoc.at_put_other {α : Type} [DecidableEq α] (m : Assoc α) (k j : Nat) (v : α) (h : j ≠ k) : (Assoc.put m k v).at j = m.at j :=
  Tab.get_set_other _ _ _ _ _ h

theorem Assoc.at_drop_same {α : Type} (m : Assoc α) (k : Nat) : (Assoc.drop m k).at k = none := Tab.get_erase_same _ _ _

theorem Assoc.at_drop_other {α : Type} (m : Assoc α) (k j : Nat) (h : j ≠ k) : (Assoc.drop m k).at j = m.at j :=
  Tab.get_erase_other _ _ _ _ h

@[simp] theorem State.onCore_setCore_same (s : State) (c : Nat) (w : Wg) : (s.setCore c w).onCore c = some w := Assoc.at_put_same _ _ _

theorem State.onCore_setCore_other (s : State) (c d : Nat) (w : Wg) (h : d ≠ c) : (s.setCore c w).onCore d = s.onCore d :=
  Assoc.at_put_other _ _ _ _ h

@[simp] theorem State.onCore_newId (s : State) (c : Nat) : s.newId.2.onCore c = s.onCore c := rfl

@[simp] theorem State.queue_setQueue_same (s : State) (q : Nat) (x : Queue) : (s.setQueue q x).queue? q = some x := Assoc.at_put_same _ _ _

theorem State.queue_setQueue_other (s : State) (q r : Nat) (x : Queue) (h : r ≠ q) : (s.setQueue q x).queue? r = s.queue? r :=
  Assoc.at_put_other _ _ _ _ h

@[simp] theorem State.queue_setCore (s : State) (c q : Nat) (w : Wg) : (s.setCore c w).queue? q = s.queue? q := rfl
@[simp] theorem State.grid_setCore (s : State) (c g : Nat) (w : Wg) : (s.setCore c w).grid? g = s.grid? g := rfl
@[simp] theorem State.onCore_setQueue (s : State) (q c : Nat) (x : Queue) : (s.setQueue q x).onCore c = s.onCore c := rfl
@[simp] theorem State.newId_ids (s : State) : s.newId.2.ids = s.ids + 1 := rfl
@[simp] theorem State.newId_num (s : State) : s.newId.1 = s.ids := rfl

@[simp] theorem Wg.frame_setFrame_same (w : Wg) (f : Nat) (fr : Frame) (h : f < w.frames.length) :
    (w.setFrame f fr).frame? f = some fr := by simp [Wg.setFrame, Wg.frame?, h]

theorem Wg.frame_setFrame_other (w : Wg) (f g : Nat) (fr : Frame) (h : g ≠ f) : (w.setFrame f fr).frame? g = w.frame? g := by
  simp [Wg.setFrame, Wg.frame?, Ne.symm h]

theorem Wg.frame_lt {w : Wg} {f : Nat} {fr : Frame} (h : w.frame? f = some fr) : f < w.frames.length := by
  unfold Wg.frame? at h
  exact (List.getElem?_eq_some_iff.mp h).1

@[simp] theorem Wg.sreg_setS_same (w : Wg) (n : Nat) (x : Word64) : (w.setS n x).sreg n = x := Tab.get_set_same _ _ _ _

theorem Wg.sreg_setS_other (w : Wg) (n m : Nat) (x : Word64) (h : m ≠ n) : (w.setS n x).sreg m = w.sreg m :=
  Tab.get_set_other _ _ _ _ _ h

theorem Wg.qpred_seven (w : Wg) : w.qpred 7 = true := rfl
theorem Frame.pred_seven (fr : Frame) (l : Nat) : fr.pred l 7 = true := rfl

/-! ### Fields left alone -/

@[simp] theorem State.setCore_agenda (s : State) (c : Nat) (w : Wg) : (s.setCore c w).agenda = s.agenda := rfl
@[simp] theorem State.setCore_cur (s : State) (c : Nat) (w : Wg) : (s.setCore c w).cur = s.cur := rfl
@[simp] theorem State.setCore_free (s : State) (c : Nat) (w : Wg) : (s.setCore c w).free = s.free := rfl
@[simp] theorem State.setCore_tick (s : State) (c : Nat) (w : Wg) : (s.setCore c w).tick = s.tick := rfl
@[simp] theorem State.setCore_ids (s : State) (c : Nat) (w : Wg) : (s.setCore c w).ids = s.ids := rfl
@[simp] theorem State.setCore_fw (s : State) (c : Nat) (w : Wg) : (s.setCore c w).fw = s.fw := rfl
@[simp] theorem State.setCore_ready (s : State) (c : Nat) (w : Wg) : (s.setCore c w).ready = s.ready := rfl
@[simp] theorem State.setCore_feat (s : State) (c : Nat) (w : Wg) : (s.setCore c w).feat = s.feat := rfl
@[simp] theorem State.setCore_featSet (s : State) (c : Nat) (w : Wg) : (s.setCore c w).featSet = s.featSet := rfl
@[simp] theorem State.setCore_featOn (s : State) (c : Nat) (w : Wg) : (s.setCore c w).featOn = s.featOn := rfl
@[simp] theorem State.setCore_pkg (s : State) (c : Nat) (w : Wg) : (s.setCore c w).pkg = s.pkg := rfl
@[simp] theorem State.setCore_fabric (s : State) (c : Nat) (w : Wg) : (s.setCore c w).fabric = s.fabric := rfl
@[simp] theorem State.setCore_remotes (s : State) (c : Nat) (w : Wg) : (s.setCore c w).remotes = s.remotes := rfl
@[simp] theorem State.setCore_dieIn (s : State) (c : Nat) (w : Wg) : (s.setCore c w).dieIn = s.dieIn := rfl
@[simp] theorem State.setCore_homeTab (s : State) (c : Nat) (w : Wg) : (s.setCore c w).homeTab = s.homeTab := rfl
@[simp] theorem State.setCore_oos (s : State) (c : Nat) (w : Wg) : (s.setCore c w).oos = s.oos := rfl
@[simp] theorem State.setCore_dev (s : State) (c : Nat) (w : Wg) : (s.setCore c w).dev = s.dev := rfl
@[simp] theorem State.setCore_last (s : State) (c : Nat) (w : Wg) : (s.setCore c w).last = s.last := rfl
@[simp] theorem State.setCore_phaseTab (s : State) (c : Nat) (w : Wg) : (s.setCore c w).phaseTab = s.phaseTab := rfl
@[simp] theorem State.setCore_taker (s : State) (c : Nat) (w : Wg) : (s.setCore c w).taker = s.taker := rfl
@[simp] theorem State.setCore_commits (s : State) (c : Nat) (w : Wg) : (s.setCore c w).commits = s.commits := rfl
@[simp] theorem State.setCore_peerCms (s : State) (c : Nat) (w : Wg) : (s.setCore c w).peerCms = s.peerCms := rfl
@[simp] theorem State.setCore_parked (s : State) (c : Nat) (w : Wg) : (s.setCore c w).parked = s.parked := rfl
@[simp] theorem State.setCore_seq (s : State) (c : Nat) (w : Wg) : (s.setCore c w).seq = s.seq := rfl
@[simp] theorem State.setCore_gen (s : State) (c : Nat) (w : Wg) : (s.setCore c w).gen = s.gen := rfl
@[simp] theorem State.setCore_samples (s : State) (c : Nat) (w : Wg) : (s.setCore c w).samples = s.samples := rfl
@[simp] theorem State.setCore_sigin (s : State) (c : Nat) (w : Wg) : (s.setCore c w).sigin = s.sigin := rfl
@[simp] theorem State.setCore_sgroup (s : State) (c : Nat) (w : Wg) : (s.setCore c w).sgroup = s.sgroup := rfl
@[simp] theorem State.setCore_svcQ (s : State) (c : Nat) (w : Wg) : (s.setCore c w).svcQ = s.svcQ := rfl
@[simp] theorem State.setCore_waits (s : State) (c : Nat) (w : Wg) : (s.setCore c w).waits = s.waits := rfl
@[simp] theorem State.setCore_beadOrd (s : State) (c : Nat) (w : Wg) : (s.setCore c w).beadOrd = s.beadOrd := rfl
@[simp] theorem State.setCore_returned (s : State) (c : Nat) (w : Wg) : (s.setCore c w).returned = s.returned := rfl
@[simp] theorem State.setCore_replies (s : State) (c : Nat) (w : Wg) : (s.setCore c w).replies = s.replies := rfl
@[simp] theorem State.setCore_svcFlags (s : State) (c : Nat) (w : Wg) : (s.setCore c w).svcFlags = s.svcFlags := rfl
@[simp] theorem State.setCore_mesh (s : State) (c : Nat) (w : Wg) : (s.setCore c w).mesh = s.mesh := rfl
@[simp] theorem State.setCore_acks (s : State) (c : Nat) (w : Wg) : (s.setCore c w).acks = s.acks := rfl
@[simp] theorem State.setCore_hostq (s : State) (c : Nat) (w : Wg) : (s.setCore c w).hostq = s.hostq := rfl
@[simp] theorem State.setCore_peerq (s : State) (c : Nat) (w : Wg) : (s.setCore c w).peerq = s.peerq := rfl
@[simp] theorem State.setCore_hostMem (s : State) (c : Nat) (w : Wg) : (s.setCore c w).hostMem = s.hostMem := rfl
@[simp] theorem State.setCore_hostPg (s : State) (c : Nat) (w : Wg) : (s.setCore c w).hostPg = s.hostPg := rfl
@[simp] theorem State.setCore_tlb (s : State) (c : Nat) (w : Wg) : (s.setCore c w).tlb = s.tlb := rfl
@[simp] theorem State.setCore_walks (s : State) (c : Nat) (w : Wg) : (s.setCore c w).walks = s.walks := rfl
@[simp] theorem State.setCore_grids (s : State) (c : Nat) (w : Wg) : (s.setCore c w).grids = s.grids := rfl
@[simp] theorem State.setCore_lastGrid (s : State) (c : Nat) (w : Wg) : (s.setCore c w).lastGrid = s.lastGrid := rfl
@[simp] theorem State.setCore_parts (s : State) (c : Nat) (w : Wg) : (s.setCore c w).parts = s.parts := rfl
@[simp] theorem State.setCore_scheds (s : State) (c : Nat) (w : Wg) : (s.setCore c w).scheds = s.scheds := rfl
@[simp] theorem State.setCore_queues (s : State) (c : Nat) (w : Wg) : (s.setCore c w).queues = s.queues := rfl
@[simp] theorem State.setCore_waitMap (s : State) (c : Nat) (w : Wg) : (s.setCore c w).waitMap = s.waitMap := rfl
@[simp] theorem State.setCore_created (s : State) (c : Nat) (w : Wg) : (s.setCore c w).created = s.created := rfl
@[simp] theorem State.setCore_pktCopies (s : State) (c : Nat) (w : Wg) : (s.setCore c w).pktCopies = s.pktCopies := rfl
@[simp] theorem State.setCore_hostPins (s : State) (c : Nat) (w : Wg) : (s.setCore c w).hostPins = s.hostPins := rfl
@[simp] theorem State.setCore_relief (s : State) (c : Nat) (w : Wg) : (s.setCore c w).relief = s.relief := rfl
@[simp] theorem State.setCore_lowPool (s : State) (c : Nat) (w : Wg) : (s.setCore c w).lowPool = s.lowPool := rfl
@[simp] theorem State.setCore_msiPend (s : State) (c : Nat) (w : Wg) : (s.setCore c w).msiPend = s.msiPend := rfl
@[simp] theorem State.setCore_msiSince (s : State) (c : Nat) (w : Wg) : (s.setCore c w).msiSince = s.msiSince := rfl
@[simp] theorem State.setCore_msiSent (s : State) (c : Nat) (w : Wg) : (s.setCore c w).msiSent = s.msiSent := rfl
@[simp] theorem State.setCore_coalesce (s : State) (c : Nat) (w : Wg) : (s.setCore c w).coalesce = s.coalesce := rfl
@[simp] theorem State.setCore_evlog (s : State) (c : Nat) (w : Wg) : (s.setCore c w).evlog = s.evlog := rfl
@[simp] theorem State.setCore_ctxs (s : State) (c : Nat) (w : Wg) : (s.setCore c w).ctxs = s.ctxs := rfl
@[simp] theorem State.setCore_saved (s : State) (c : Nat) (w : Wg) : (s.setCore c w).saved = s.saved := rfl
@[simp] theorem State.setQueue_agenda (s : State) (q : Nat) (x : Queue) : (s.setQueue q x).agenda = s.agenda := rfl
@[simp] theorem State.setQueue_cur (s : State) (q : Nat) (x : Queue) : (s.setQueue q x).cur = s.cur := rfl
@[simp] theorem State.setQueue_free (s : State) (q : Nat) (x : Queue) : (s.setQueue q x).free = s.free := rfl
@[simp] theorem State.setQueue_tick (s : State) (q : Nat) (x : Queue) : (s.setQueue q x).tick = s.tick := rfl
@[simp] theorem State.setQueue_ids (s : State) (q : Nat) (x : Queue) : (s.setQueue q x).ids = s.ids := rfl
@[simp] theorem State.setQueue_fw (s : State) (q : Nat) (x : Queue) : (s.setQueue q x).fw = s.fw := rfl
@[simp] theorem State.setQueue_ready (s : State) (q : Nat) (x : Queue) : (s.setQueue q x).ready = s.ready := rfl
@[simp] theorem State.setQueue_feat (s : State) (q : Nat) (x : Queue) : (s.setQueue q x).feat = s.feat := rfl
@[simp] theorem State.setQueue_featSet (s : State) (q : Nat) (x : Queue) : (s.setQueue q x).featSet = s.featSet := rfl
@[simp] theorem State.setQueue_featOn (s : State) (q : Nat) (x : Queue) : (s.setQueue q x).featOn = s.featOn := rfl
@[simp] theorem State.setQueue_pkg (s : State) (q : Nat) (x : Queue) : (s.setQueue q x).pkg = s.pkg := rfl
@[simp] theorem State.setQueue_fabric (s : State) (q : Nat) (x : Queue) : (s.setQueue q x).fabric = s.fabric := rfl
@[simp] theorem State.setQueue_remotes (s : State) (q : Nat) (x : Queue) : (s.setQueue q x).remotes = s.remotes := rfl
@[simp] theorem State.setQueue_dieIn (s : State) (q : Nat) (x : Queue) : (s.setQueue q x).dieIn = s.dieIn := rfl
@[simp] theorem State.setQueue_homeTab (s : State) (q : Nat) (x : Queue) : (s.setQueue q x).homeTab = s.homeTab := rfl
@[simp] theorem State.setQueue_oos (s : State) (q : Nat) (x : Queue) : (s.setQueue q x).oos = s.oos := rfl
@[simp] theorem State.setQueue_dev (s : State) (q : Nat) (x : Queue) : (s.setQueue q x).dev = s.dev := rfl
@[simp] theorem State.setQueue_last (s : State) (q : Nat) (x : Queue) : (s.setQueue q x).last = s.last := rfl
@[simp] theorem State.setQueue_phaseTab (s : State) (q : Nat) (x : Queue) : (s.setQueue q x).phaseTab = s.phaseTab := rfl
@[simp] theorem State.setQueue_taker (s : State) (q : Nat) (x : Queue) : (s.setQueue q x).taker = s.taker := rfl
@[simp] theorem State.setQueue_commits (s : State) (q : Nat) (x : Queue) : (s.setQueue q x).commits = s.commits := rfl
@[simp] theorem State.setQueue_peerCms (s : State) (q : Nat) (x : Queue) : (s.setQueue q x).peerCms = s.peerCms := rfl
@[simp] theorem State.setQueue_cores (s : State) (q : Nat) (x : Queue) : (s.setQueue q x).cores = s.cores := rfl
@[simp] theorem State.setQueue_parked (s : State) (q : Nat) (x : Queue) : (s.setQueue q x).parked = s.parked := rfl
@[simp] theorem State.setQueue_seq (s : State) (q : Nat) (x : Queue) : (s.setQueue q x).seq = s.seq := rfl
@[simp] theorem State.setQueue_gen (s : State) (q : Nat) (x : Queue) : (s.setQueue q x).gen = s.gen := rfl
@[simp] theorem State.setQueue_samples (s : State) (q : Nat) (x : Queue) : (s.setQueue q x).samples = s.samples := rfl
@[simp] theorem State.setQueue_sigin (s : State) (q : Nat) (x : Queue) : (s.setQueue q x).sigin = s.sigin := rfl
@[simp] theorem State.setQueue_sgroup (s : State) (q : Nat) (x : Queue) : (s.setQueue q x).sgroup = s.sgroup := rfl
@[simp] theorem State.setQueue_svcQ (s : State) (q : Nat) (x : Queue) : (s.setQueue q x).svcQ = s.svcQ := rfl
@[simp] theorem State.setQueue_waits (s : State) (q : Nat) (x : Queue) : (s.setQueue q x).waits = s.waits := rfl
@[simp] theorem State.setQueue_beadOrd (s : State) (q : Nat) (x : Queue) : (s.setQueue q x).beadOrd = s.beadOrd := rfl
@[simp] theorem State.setQueue_returned (s : State) (q : Nat) (x : Queue) : (s.setQueue q x).returned = s.returned := rfl
@[simp] theorem State.setQueue_replies (s : State) (q : Nat) (x : Queue) : (s.setQueue q x).replies = s.replies := rfl
@[simp] theorem State.setQueue_svcFlags (s : State) (q : Nat) (x : Queue) : (s.setQueue q x).svcFlags = s.svcFlags := rfl
@[simp] theorem State.setQueue_mesh (s : State) (q : Nat) (x : Queue) : (s.setQueue q x).mesh = s.mesh := rfl
@[simp] theorem State.setQueue_acks (s : State) (q : Nat) (x : Queue) : (s.setQueue q x).acks = s.acks := rfl
@[simp] theorem State.setQueue_hostq (s : State) (q : Nat) (x : Queue) : (s.setQueue q x).hostq = s.hostq := rfl
@[simp] theorem State.setQueue_peerq (s : State) (q : Nat) (x : Queue) : (s.setQueue q x).peerq = s.peerq := rfl
@[simp] theorem State.setQueue_hostMem (s : State) (q : Nat) (x : Queue) : (s.setQueue q x).hostMem = s.hostMem := rfl
@[simp] theorem State.setQueue_hostPg (s : State) (q : Nat) (x : Queue) : (s.setQueue q x).hostPg = s.hostPg := rfl
@[simp] theorem State.setQueue_tlb (s : State) (q : Nat) (x : Queue) : (s.setQueue q x).tlb = s.tlb := rfl
@[simp] theorem State.setQueue_walks (s : State) (q : Nat) (x : Queue) : (s.setQueue q x).walks = s.walks := rfl
@[simp] theorem State.setQueue_grids (s : State) (q : Nat) (x : Queue) : (s.setQueue q x).grids = s.grids := rfl
@[simp] theorem State.setQueue_lastGrid (s : State) (q : Nat) (x : Queue) : (s.setQueue q x).lastGrid = s.lastGrid := rfl
@[simp] theorem State.setQueue_parts (s : State) (q : Nat) (x : Queue) : (s.setQueue q x).parts = s.parts := rfl
@[simp] theorem State.setQueue_scheds (s : State) (q : Nat) (x : Queue) : (s.setQueue q x).scheds = s.scheds := rfl
@[simp] theorem State.setQueue_waitMap (s : State) (q : Nat) (x : Queue) : (s.setQueue q x).waitMap = s.waitMap := rfl
@[simp] theorem State.setQueue_created (s : State) (q : Nat) (x : Queue) : (s.setQueue q x).created = s.created := rfl
@[simp] theorem State.setQueue_pktCopies (s : State) (q : Nat) (x : Queue) : (s.setQueue q x).pktCopies = s.pktCopies := rfl
@[simp] theorem State.setQueue_hostPins (s : State) (q : Nat) (x : Queue) : (s.setQueue q x).hostPins = s.hostPins := rfl
@[simp] theorem State.setQueue_relief (s : State) (q : Nat) (x : Queue) : (s.setQueue q x).relief = s.relief := rfl
@[simp] theorem State.setQueue_lowPool (s : State) (q : Nat) (x : Queue) : (s.setQueue q x).lowPool = s.lowPool := rfl
@[simp] theorem State.setQueue_msiPend (s : State) (q : Nat) (x : Queue) : (s.setQueue q x).msiPend = s.msiPend := rfl
@[simp] theorem State.setQueue_msiSince (s : State) (q : Nat) (x : Queue) : (s.setQueue q x).msiSince = s.msiSince := rfl
@[simp] theorem State.setQueue_msiSent (s : State) (q : Nat) (x : Queue) : (s.setQueue q x).msiSent = s.msiSent := rfl
@[simp] theorem State.setQueue_coalesce (s : State) (q : Nat) (x : Queue) : (s.setQueue q x).coalesce = s.coalesce := rfl
@[simp] theorem State.setQueue_evlog (s : State) (q : Nat) (x : Queue) : (s.setQueue q x).evlog = s.evlog := rfl
@[simp] theorem State.setQueue_ctxs (s : State) (q : Nat) (x : Queue) : (s.setQueue q x).ctxs = s.ctxs := rfl
@[simp] theorem State.setQueue_saved (s : State) (q : Nat) (x : Queue) : (s.setQueue q x).saved = s.saved := rfl
@[simp] theorem State.updGrid_agenda (s : State) (g : Nat) (f : Grid → Grid) : (s.updGrid g f).agenda = s.agenda := rfl
@[simp] theorem State.updGrid_cur (s : State) (g : Nat) (f : Grid → Grid) : (s.updGrid g f).cur = s.cur := rfl
@[simp] theorem State.updGrid_free (s : State) (g : Nat) (f : Grid → Grid) : (s.updGrid g f).free = s.free := rfl
@[simp] theorem State.updGrid_tick (s : State) (g : Nat) (f : Grid → Grid) : (s.updGrid g f).tick = s.tick := rfl
@[simp] theorem State.updGrid_ids (s : State) (g : Nat) (f : Grid → Grid) : (s.updGrid g f).ids = s.ids := rfl
@[simp] theorem State.updGrid_fw (s : State) (g : Nat) (f : Grid → Grid) : (s.updGrid g f).fw = s.fw := rfl
@[simp] theorem State.updGrid_ready (s : State) (g : Nat) (f : Grid → Grid) : (s.updGrid g f).ready = s.ready := rfl
@[simp] theorem State.updGrid_feat (s : State) (g : Nat) (f : Grid → Grid) : (s.updGrid g f).feat = s.feat := rfl
@[simp] theorem State.updGrid_featSet (s : State) (g : Nat) (f : Grid → Grid) : (s.updGrid g f).featSet = s.featSet := rfl
@[simp] theorem State.updGrid_featOn (s : State) (g : Nat) (f : Grid → Grid) : (s.updGrid g f).featOn = s.featOn := rfl
@[simp] theorem State.updGrid_pkg (s : State) (g : Nat) (f : Grid → Grid) : (s.updGrid g f).pkg = s.pkg := rfl
@[simp] theorem State.updGrid_fabric (s : State) (g : Nat) (f : Grid → Grid) : (s.updGrid g f).fabric = s.fabric := rfl
@[simp] theorem State.updGrid_remotes (s : State) (g : Nat) (f : Grid → Grid) : (s.updGrid g f).remotes = s.remotes := rfl
@[simp] theorem State.updGrid_dieIn (s : State) (g : Nat) (f : Grid → Grid) : (s.updGrid g f).dieIn = s.dieIn := rfl
@[simp] theorem State.updGrid_homeTab (s : State) (g : Nat) (f : Grid → Grid) : (s.updGrid g f).homeTab = s.homeTab := rfl
@[simp] theorem State.updGrid_oos (s : State) (g : Nat) (f : Grid → Grid) : (s.updGrid g f).oos = s.oos := rfl
@[simp] theorem State.updGrid_dev (s : State) (g : Nat) (f : Grid → Grid) : (s.updGrid g f).dev = s.dev := rfl
@[simp] theorem State.updGrid_last (s : State) (g : Nat) (f : Grid → Grid) : (s.updGrid g f).last = s.last := rfl
@[simp] theorem State.updGrid_phaseTab (s : State) (g : Nat) (f : Grid → Grid) : (s.updGrid g f).phaseTab = s.phaseTab := rfl
@[simp] theorem State.updGrid_taker (s : State) (g : Nat) (f : Grid → Grid) : (s.updGrid g f).taker = s.taker := rfl
@[simp] theorem State.updGrid_commits (s : State) (g : Nat) (f : Grid → Grid) : (s.updGrid g f).commits = s.commits := rfl
@[simp] theorem State.updGrid_peerCms (s : State) (g : Nat) (f : Grid → Grid) : (s.updGrid g f).peerCms = s.peerCms := rfl
@[simp] theorem State.updGrid_cores (s : State) (g : Nat) (f : Grid → Grid) : (s.updGrid g f).cores = s.cores := rfl
@[simp] theorem State.updGrid_parked (s : State) (g : Nat) (f : Grid → Grid) : (s.updGrid g f).parked = s.parked := rfl
@[simp] theorem State.updGrid_seq (s : State) (g : Nat) (f : Grid → Grid) : (s.updGrid g f).seq = s.seq := rfl
@[simp] theorem State.updGrid_gen (s : State) (g : Nat) (f : Grid → Grid) : (s.updGrid g f).gen = s.gen := rfl
@[simp] theorem State.updGrid_samples (s : State) (g : Nat) (f : Grid → Grid) : (s.updGrid g f).samples = s.samples := rfl
@[simp] theorem State.updGrid_sigin (s : State) (g : Nat) (f : Grid → Grid) : (s.updGrid g f).sigin = s.sigin := rfl
@[simp] theorem State.updGrid_sgroup (s : State) (g : Nat) (f : Grid → Grid) : (s.updGrid g f).sgroup = s.sgroup := rfl
@[simp] theorem State.updGrid_svcQ (s : State) (g : Nat) (f : Grid → Grid) : (s.updGrid g f).svcQ = s.svcQ := rfl
@[simp] theorem State.updGrid_waits (s : State) (g : Nat) (f : Grid → Grid) : (s.updGrid g f).waits = s.waits := rfl
@[simp] theorem State.updGrid_beadOrd (s : State) (g : Nat) (f : Grid → Grid) : (s.updGrid g f).beadOrd = s.beadOrd := rfl
@[simp] theorem State.updGrid_returned (s : State) (g : Nat) (f : Grid → Grid) : (s.updGrid g f).returned = s.returned := rfl
@[simp] theorem State.updGrid_replies (s : State) (g : Nat) (f : Grid → Grid) : (s.updGrid g f).replies = s.replies := rfl
@[simp] theorem State.updGrid_svcFlags (s : State) (g : Nat) (f : Grid → Grid) : (s.updGrid g f).svcFlags = s.svcFlags := rfl
@[simp] theorem State.updGrid_mesh (s : State) (g : Nat) (f : Grid → Grid) : (s.updGrid g f).mesh = s.mesh := rfl
@[simp] theorem State.updGrid_acks (s : State) (g : Nat) (f : Grid → Grid) : (s.updGrid g f).acks = s.acks := rfl
@[simp] theorem State.updGrid_hostq (s : State) (g : Nat) (f : Grid → Grid) : (s.updGrid g f).hostq = s.hostq := rfl
@[simp] theorem State.updGrid_peerq (s : State) (g : Nat) (f : Grid → Grid) : (s.updGrid g f).peerq = s.peerq := rfl
@[simp] theorem State.updGrid_hostMem (s : State) (g : Nat) (f : Grid → Grid) : (s.updGrid g f).hostMem = s.hostMem := rfl
@[simp] theorem State.updGrid_hostPg (s : State) (g : Nat) (f : Grid → Grid) : (s.updGrid g f).hostPg = s.hostPg := rfl
@[simp] theorem State.updGrid_tlb (s : State) (g : Nat) (f : Grid → Grid) : (s.updGrid g f).tlb = s.tlb := rfl
@[simp] theorem State.updGrid_walks (s : State) (g : Nat) (f : Grid → Grid) : (s.updGrid g f).walks = s.walks := rfl
@[simp] theorem State.updGrid_lastGrid (s : State) (g : Nat) (f : Grid → Grid) : (s.updGrid g f).lastGrid = s.lastGrid := rfl
@[simp] theorem State.updGrid_parts (s : State) (g : Nat) (f : Grid → Grid) : (s.updGrid g f).parts = s.parts := rfl
@[simp] theorem State.updGrid_scheds (s : State) (g : Nat) (f : Grid → Grid) : (s.updGrid g f).scheds = s.scheds := rfl
@[simp] theorem State.updGrid_queues (s : State) (g : Nat) (f : Grid → Grid) : (s.updGrid g f).queues = s.queues := rfl
@[simp] theorem State.updGrid_waitMap (s : State) (g : Nat) (f : Grid → Grid) : (s.updGrid g f).waitMap = s.waitMap := rfl
@[simp] theorem State.updGrid_created (s : State) (g : Nat) (f : Grid → Grid) : (s.updGrid g f).created = s.created := rfl
@[simp] theorem State.updGrid_pktCopies (s : State) (g : Nat) (f : Grid → Grid) : (s.updGrid g f).pktCopies = s.pktCopies := rfl
@[simp] theorem State.updGrid_hostPins (s : State) (g : Nat) (f : Grid → Grid) : (s.updGrid g f).hostPins = s.hostPins := rfl
@[simp] theorem State.updGrid_relief (s : State) (g : Nat) (f : Grid → Grid) : (s.updGrid g f).relief = s.relief := rfl
@[simp] theorem State.updGrid_lowPool (s : State) (g : Nat) (f : Grid → Grid) : (s.updGrid g f).lowPool = s.lowPool := rfl
@[simp] theorem State.updGrid_msiPend (s : State) (g : Nat) (f : Grid → Grid) : (s.updGrid g f).msiPend = s.msiPend := rfl
@[simp] theorem State.updGrid_msiSince (s : State) (g : Nat) (f : Grid → Grid) : (s.updGrid g f).msiSince = s.msiSince := rfl
@[simp] theorem State.updGrid_msiSent (s : State) (g : Nat) (f : Grid → Grid) : (s.updGrid g f).msiSent = s.msiSent := rfl
@[simp] theorem State.updGrid_coalesce (s : State) (g : Nat) (f : Grid → Grid) : (s.updGrid g f).coalesce = s.coalesce := rfl
@[simp] theorem State.updGrid_evlog (s : State) (g : Nat) (f : Grid → Grid) : (s.updGrid g f).evlog = s.evlog := rfl
@[simp] theorem State.updGrid_ctxs (s : State) (g : Nat) (f : Grid → Grid) : (s.updGrid g f).ctxs = s.ctxs := rfl
@[simp] theorem State.updGrid_saved (s : State) (g : Nat) (f : Grid → Grid) : (s.updGrid g f).saved = s.saved := rfl
@[simp] theorem State.mapWgs_agenda (s : State) (f : Wg → Wg) : (s.mapWgs f).agenda = s.agenda := rfl
@[simp] theorem State.mapWgs_cur (s : State) (f : Wg → Wg) : (s.mapWgs f).cur = s.cur := rfl
@[simp] theorem State.mapWgs_free (s : State) (f : Wg → Wg) : (s.mapWgs f).free = s.free := rfl
@[simp] theorem State.mapWgs_tick (s : State) (f : Wg → Wg) : (s.mapWgs f).tick = s.tick := rfl
@[simp] theorem State.mapWgs_ids (s : State) (f : Wg → Wg) : (s.mapWgs f).ids = s.ids := rfl
@[simp] theorem State.mapWgs_fw (s : State) (f : Wg → Wg) : (s.mapWgs f).fw = s.fw := rfl
@[simp] theorem State.mapWgs_ready (s : State) (f : Wg → Wg) : (s.mapWgs f).ready = s.ready := rfl
@[simp] theorem State.mapWgs_feat (s : State) (f : Wg → Wg) : (s.mapWgs f).feat = s.feat := rfl
@[simp] theorem State.mapWgs_featSet (s : State) (f : Wg → Wg) : (s.mapWgs f).featSet = s.featSet := rfl
@[simp] theorem State.mapWgs_featOn (s : State) (f : Wg → Wg) : (s.mapWgs f).featOn = s.featOn := rfl
@[simp] theorem State.mapWgs_pkg (s : State) (f : Wg → Wg) : (s.mapWgs f).pkg = s.pkg := rfl
@[simp] theorem State.mapWgs_fabric (s : State) (f : Wg → Wg) : (s.mapWgs f).fabric = s.fabric := rfl
@[simp] theorem State.mapWgs_remotes (s : State) (f : Wg → Wg) : (s.mapWgs f).remotes = s.remotes := rfl
@[simp] theorem State.mapWgs_dieIn (s : State) (f : Wg → Wg) : (s.mapWgs f).dieIn = s.dieIn := rfl
@[simp] theorem State.mapWgs_homeTab (s : State) (f : Wg → Wg) : (s.mapWgs f).homeTab = s.homeTab := rfl
@[simp] theorem State.mapWgs_oos (s : State) (f : Wg → Wg) : (s.mapWgs f).oos = s.oos := rfl
@[simp] theorem State.mapWgs_dev (s : State) (f : Wg → Wg) : (s.mapWgs f).dev = s.dev := rfl
@[simp] theorem State.mapWgs_last (s : State) (f : Wg → Wg) : (s.mapWgs f).last = s.last := rfl
@[simp] theorem State.mapWgs_phaseTab (s : State) (f : Wg → Wg) : (s.mapWgs f).phaseTab = s.phaseTab := rfl
@[simp] theorem State.mapWgs_taker (s : State) (f : Wg → Wg) : (s.mapWgs f).taker = s.taker := rfl
@[simp] theorem State.mapWgs_commits (s : State) (f : Wg → Wg) : (s.mapWgs f).commits = s.commits := rfl
@[simp] theorem State.mapWgs_peerCms (s : State) (f : Wg → Wg) : (s.mapWgs f).peerCms = s.peerCms := rfl
@[simp] theorem State.mapWgs_seq (s : State) (f : Wg → Wg) : (s.mapWgs f).seq = s.seq := rfl
@[simp] theorem State.mapWgs_gen (s : State) (f : Wg → Wg) : (s.mapWgs f).gen = s.gen := rfl
@[simp] theorem State.mapWgs_samples (s : State) (f : Wg → Wg) : (s.mapWgs f).samples = s.samples := rfl
@[simp] theorem State.mapWgs_sigin (s : State) (f : Wg → Wg) : (s.mapWgs f).sigin = s.sigin := rfl
@[simp] theorem State.mapWgs_sgroup (s : State) (f : Wg → Wg) : (s.mapWgs f).sgroup = s.sgroup := rfl
@[simp] theorem State.mapWgs_svcQ (s : State) (f : Wg → Wg) : (s.mapWgs f).svcQ = s.svcQ := rfl
@[simp] theorem State.mapWgs_waits (s : State) (f : Wg → Wg) : (s.mapWgs f).waits = s.waits := rfl
@[simp] theorem State.mapWgs_beadOrd (s : State) (f : Wg → Wg) : (s.mapWgs f).beadOrd = s.beadOrd := rfl
@[simp] theorem State.mapWgs_returned (s : State) (f : Wg → Wg) : (s.mapWgs f).returned = s.returned := rfl
@[simp] theorem State.mapWgs_replies (s : State) (f : Wg → Wg) : (s.mapWgs f).replies = s.replies := rfl
@[simp] theorem State.mapWgs_svcFlags (s : State) (f : Wg → Wg) : (s.mapWgs f).svcFlags = s.svcFlags := rfl
@[simp] theorem State.mapWgs_mesh (s : State) (f : Wg → Wg) : (s.mapWgs f).mesh = s.mesh := rfl
@[simp] theorem State.mapWgs_acks (s : State) (f : Wg → Wg) : (s.mapWgs f).acks = s.acks := rfl
@[simp] theorem State.mapWgs_hostq (s : State) (f : Wg → Wg) : (s.mapWgs f).hostq = s.hostq := rfl
@[simp] theorem State.mapWgs_peerq (s : State) (f : Wg → Wg) : (s.mapWgs f).peerq = s.peerq := rfl
@[simp] theorem State.mapWgs_hostMem (s : State) (f : Wg → Wg) : (s.mapWgs f).hostMem = s.hostMem := rfl
@[simp] theorem State.mapWgs_hostPg (s : State) (f : Wg → Wg) : (s.mapWgs f).hostPg = s.hostPg := rfl
@[simp] theorem State.mapWgs_tlb (s : State) (f : Wg → Wg) : (s.mapWgs f).tlb = s.tlb := rfl
@[simp] theorem State.mapWgs_walks (s : State) (f : Wg → Wg) : (s.mapWgs f).walks = s.walks := rfl
@[simp] theorem State.mapWgs_grids (s : State) (f : Wg → Wg) : (s.mapWgs f).grids = s.grids := rfl
@[simp] theorem State.mapWgs_lastGrid (s : State) (f : Wg → Wg) : (s.mapWgs f).lastGrid = s.lastGrid := rfl
@[simp] theorem State.mapWgs_parts (s : State) (f : Wg → Wg) : (s.mapWgs f).parts = s.parts := rfl
@[simp] theorem State.mapWgs_scheds (s : State) (f : Wg → Wg) : (s.mapWgs f).scheds = s.scheds := rfl
@[simp] theorem State.mapWgs_queues (s : State) (f : Wg → Wg) : (s.mapWgs f).queues = s.queues := rfl
@[simp] theorem State.mapWgs_waitMap (s : State) (f : Wg → Wg) : (s.mapWgs f).waitMap = s.waitMap := rfl
@[simp] theorem State.mapWgs_created (s : State) (f : Wg → Wg) : (s.mapWgs f).created = s.created := rfl
@[simp] theorem State.mapWgs_pktCopies (s : State) (f : Wg → Wg) : (s.mapWgs f).pktCopies = s.pktCopies := rfl
@[simp] theorem State.mapWgs_hostPins (s : State) (f : Wg → Wg) : (s.mapWgs f).hostPins = s.hostPins := rfl
@[simp] theorem State.mapWgs_relief (s : State) (f : Wg → Wg) : (s.mapWgs f).relief = s.relief := rfl
@[simp] theorem State.mapWgs_lowPool (s : State) (f : Wg → Wg) : (s.mapWgs f).lowPool = s.lowPool := rfl
@[simp] theorem State.mapWgs_msiPend (s : State) (f : Wg → Wg) : (s.mapWgs f).msiPend = s.msiPend := rfl
@[simp] theorem State.mapWgs_msiSince (s : State) (f : Wg → Wg) : (s.mapWgs f).msiSince = s.msiSince := rfl
@[simp] theorem State.mapWgs_msiSent (s : State) (f : Wg → Wg) : (s.mapWgs f).msiSent = s.msiSent := rfl
@[simp] theorem State.mapWgs_coalesce (s : State) (f : Wg → Wg) : (s.mapWgs f).coalesce = s.coalesce := rfl
@[simp] theorem State.mapWgs_evlog (s : State) (f : Wg → Wg) : (s.mapWgs f).evlog = s.evlog := rfl
@[simp] theorem State.mapWgs_ctxs (s : State) (f : Wg → Wg) : (s.mapWgs f).ctxs = s.ctxs := rfl
@[simp] theorem State.dropWg_agenda (s : State) (g i : Nat) : (s.dropWg g i).agenda = s.agenda := rfl
@[simp] theorem State.dropWg_cur (s : State) (g i : Nat) : (s.dropWg g i).cur = s.cur := rfl
@[simp] theorem State.dropWg_free (s : State) (g i : Nat) : (s.dropWg g i).free = s.free := rfl
@[simp] theorem State.dropWg_tick (s : State) (g i : Nat) : (s.dropWg g i).tick = s.tick := rfl
@[simp] theorem State.dropWg_ids (s : State) (g i : Nat) : (s.dropWg g i).ids = s.ids := rfl
@[simp] theorem State.dropWg_fw (s : State) (g i : Nat) : (s.dropWg g i).fw = s.fw := rfl
@[simp] theorem State.dropWg_ready (s : State) (g i : Nat) : (s.dropWg g i).ready = s.ready := rfl
@[simp] theorem State.dropWg_feat (s : State) (g i : Nat) : (s.dropWg g i).feat = s.feat := rfl
@[simp] theorem State.dropWg_featSet (s : State) (g i : Nat) : (s.dropWg g i).featSet = s.featSet := rfl
@[simp] theorem State.dropWg_featOn (s : State) (g i : Nat) : (s.dropWg g i).featOn = s.featOn := rfl
@[simp] theorem State.dropWg_pkg (s : State) (g i : Nat) : (s.dropWg g i).pkg = s.pkg := rfl
@[simp] theorem State.dropWg_fabric (s : State) (g i : Nat) : (s.dropWg g i).fabric = s.fabric := rfl
@[simp] theorem State.dropWg_remotes (s : State) (g i : Nat) : (s.dropWg g i).remotes = s.remotes := rfl
@[simp] theorem State.dropWg_dieIn (s : State) (g i : Nat) : (s.dropWg g i).dieIn = s.dieIn := rfl
@[simp] theorem State.dropWg_homeTab (s : State) (g i : Nat) : (s.dropWg g i).homeTab = s.homeTab := rfl
@[simp] theorem State.dropWg_oos (s : State) (g i : Nat) : (s.dropWg g i).oos = s.oos := rfl
@[simp] theorem State.dropWg_dev (s : State) (g i : Nat) : (s.dropWg g i).dev = s.dev := rfl
@[simp] theorem State.dropWg_last (s : State) (g i : Nat) : (s.dropWg g i).last = s.last := rfl
@[simp] theorem State.dropWg_phaseTab (s : State) (g i : Nat) : (s.dropWg g i).phaseTab = s.phaseTab := rfl
@[simp] theorem State.dropWg_taker (s : State) (g i : Nat) : (s.dropWg g i).taker = s.taker := rfl
@[simp] theorem State.dropWg_commits (s : State) (g i : Nat) : (s.dropWg g i).commits = s.commits := rfl
@[simp] theorem State.dropWg_peerCms (s : State) (g i : Nat) : (s.dropWg g i).peerCms = s.peerCms := rfl
@[simp] theorem State.dropWg_seq (s : State) (g i : Nat) : (s.dropWg g i).seq = s.seq := rfl
@[simp] theorem State.dropWg_gen (s : State) (g i : Nat) : (s.dropWg g i).gen = s.gen := rfl
@[simp] theorem State.dropWg_samples (s : State) (g i : Nat) : (s.dropWg g i).samples = s.samples := rfl
@[simp] theorem State.dropWg_sigin (s : State) (g i : Nat) : (s.dropWg g i).sigin = s.sigin := rfl
@[simp] theorem State.dropWg_sgroup (s : State) (g i : Nat) : (s.dropWg g i).sgroup = s.sgroup := rfl
@[simp] theorem State.dropWg_svcQ (s : State) (g i : Nat) : (s.dropWg g i).svcQ = s.svcQ := rfl
@[simp] theorem State.dropWg_waits (s : State) (g i : Nat) : (s.dropWg g i).waits = s.waits := rfl
@[simp] theorem State.dropWg_beadOrd (s : State) (g i : Nat) : (s.dropWg g i).beadOrd = s.beadOrd := rfl
@[simp] theorem State.dropWg_returned (s : State) (g i : Nat) : (s.dropWg g i).returned = s.returned := rfl
@[simp] theorem State.dropWg_replies (s : State) (g i : Nat) : (s.dropWg g i).replies = s.replies := rfl
@[simp] theorem State.dropWg_svcFlags (s : State) (g i : Nat) : (s.dropWg g i).svcFlags = s.svcFlags := rfl
@[simp] theorem State.dropWg_mesh (s : State) (g i : Nat) : (s.dropWg g i).mesh = s.mesh := rfl
@[simp] theorem State.dropWg_acks (s : State) (g i : Nat) : (s.dropWg g i).acks = s.acks := rfl
@[simp] theorem State.dropWg_hostq (s : State) (g i : Nat) : (s.dropWg g i).hostq = s.hostq := rfl
@[simp] theorem State.dropWg_peerq (s : State) (g i : Nat) : (s.dropWg g i).peerq = s.peerq := rfl
@[simp] theorem State.dropWg_hostMem (s : State) (g i : Nat) : (s.dropWg g i).hostMem = s.hostMem := rfl
@[simp] theorem State.dropWg_hostPg (s : State) (g i : Nat) : (s.dropWg g i).hostPg = s.hostPg := rfl
@[simp] theorem State.dropWg_tlb (s : State) (g i : Nat) : (s.dropWg g i).tlb = s.tlb := rfl
@[simp] theorem State.dropWg_walks (s : State) (g i : Nat) : (s.dropWg g i).walks = s.walks := rfl
@[simp] theorem State.dropWg_grids (s : State) (g i : Nat) : (s.dropWg g i).grids = s.grids := rfl
@[simp] theorem State.dropWg_lastGrid (s : State) (g i : Nat) : (s.dropWg g i).lastGrid = s.lastGrid := rfl
@[simp] theorem State.dropWg_parts (s : State) (g i : Nat) : (s.dropWg g i).parts = s.parts := rfl
@[simp] theorem State.dropWg_scheds (s : State) (g i : Nat) : (s.dropWg g i).scheds = s.scheds := rfl
@[simp] theorem State.dropWg_queues (s : State) (g i : Nat) : (s.dropWg g i).queues = s.queues := rfl
@[simp] theorem State.dropWg_waitMap (s : State) (g i : Nat) : (s.dropWg g i).waitMap = s.waitMap := rfl
@[simp] theorem State.dropWg_created (s : State) (g i : Nat) : (s.dropWg g i).created = s.created := rfl
@[simp] theorem State.dropWg_pktCopies (s : State) (g i : Nat) : (s.dropWg g i).pktCopies = s.pktCopies := rfl
@[simp] theorem State.dropWg_hostPins (s : State) (g i : Nat) : (s.dropWg g i).hostPins = s.hostPins := rfl
@[simp] theorem State.dropWg_relief (s : State) (g i : Nat) : (s.dropWg g i).relief = s.relief := rfl
@[simp] theorem State.dropWg_lowPool (s : State) (g i : Nat) : (s.dropWg g i).lowPool = s.lowPool := rfl
@[simp] theorem State.dropWg_msiPend (s : State) (g i : Nat) : (s.dropWg g i).msiPend = s.msiPend := rfl
@[simp] theorem State.dropWg_msiSince (s : State) (g i : Nat) : (s.dropWg g i).msiSince = s.msiSince := rfl
@[simp] theorem State.dropWg_msiSent (s : State) (g i : Nat) : (s.dropWg g i).msiSent = s.msiSent := rfl
@[simp] theorem State.dropWg_coalesce (s : State) (g i : Nat) : (s.dropWg g i).coalesce = s.coalesce := rfl
@[simp] theorem State.dropWg_evlog (s : State) (g i : Nat) : (s.dropWg g i).evlog = s.evlog := rfl
@[simp] theorem State.dropWg_ctxs (s : State) (g i : Nat) : (s.dropWg g i).ctxs = s.ctxs := rfl
@[simp] theorem State.newId_agenda (s : State) : s.newId.2.agenda = s.agenda := rfl
@[simp] theorem State.newId_cur (s : State) : s.newId.2.cur = s.cur := rfl
@[simp] theorem State.newId_free (s : State) : s.newId.2.free = s.free := rfl
@[simp] theorem State.newId_tick (s : State) : s.newId.2.tick = s.tick := rfl
@[simp] theorem State.newId_fw (s : State) : s.newId.2.fw = s.fw := rfl
@[simp] theorem State.newId_ready (s : State) : s.newId.2.ready = s.ready := rfl
@[simp] theorem State.newId_feat (s : State) : s.newId.2.feat = s.feat := rfl
@[simp] theorem State.newId_featSet (s : State) : s.newId.2.featSet = s.featSet := rfl
@[simp] theorem State.newId_featOn (s : State) : s.newId.2.featOn = s.featOn := rfl
@[simp] theorem State.newId_pkg (s : State) : s.newId.2.pkg = s.pkg := rfl
@[simp] theorem State.newId_fabric (s : State) : s.newId.2.fabric = s.fabric := rfl
@[simp] theorem State.newId_remotes (s : State) : s.newId.2.remotes = s.remotes := rfl
@[simp] theorem State.newId_dieIn (s : State) : s.newId.2.dieIn = s.dieIn := rfl
@[simp] theorem State.newId_homeTab (s : State) : s.newId.2.homeTab = s.homeTab := rfl
@[simp] theorem State.newId_oos (s : State) : s.newId.2.oos = s.oos := rfl
@[simp] theorem State.newId_dev (s : State) : s.newId.2.dev = s.dev := rfl
@[simp] theorem State.newId_last (s : State) : s.newId.2.last = s.last := rfl
@[simp] theorem State.newId_phaseTab (s : State) : s.newId.2.phaseTab = s.phaseTab := rfl
@[simp] theorem State.newId_taker (s : State) : s.newId.2.taker = s.taker := rfl
@[simp] theorem State.newId_commits (s : State) : s.newId.2.commits = s.commits := rfl
@[simp] theorem State.newId_peerCms (s : State) : s.newId.2.peerCms = s.peerCms := rfl
@[simp] theorem State.newId_cores (s : State) : s.newId.2.cores = s.cores := rfl
@[simp] theorem State.newId_parked (s : State) : s.newId.2.parked = s.parked := rfl
@[simp] theorem State.newId_seq (s : State) : s.newId.2.seq = s.seq := rfl
@[simp] theorem State.newId_gen (s : State) : s.newId.2.gen = s.gen := rfl
@[simp] theorem State.newId_samples (s : State) : s.newId.2.samples = s.samples := rfl
@[simp] theorem State.newId_sigin (s : State) : s.newId.2.sigin = s.sigin := rfl
@[simp] theorem State.newId_sgroup (s : State) : s.newId.2.sgroup = s.sgroup := rfl
@[simp] theorem State.newId_svcQ (s : State) : s.newId.2.svcQ = s.svcQ := rfl
@[simp] theorem State.newId_waits (s : State) : s.newId.2.waits = s.waits := rfl
@[simp] theorem State.newId_beadOrd (s : State) : s.newId.2.beadOrd = s.beadOrd := rfl
@[simp] theorem State.newId_returned (s : State) : s.newId.2.returned = s.returned := rfl
@[simp] theorem State.newId_replies (s : State) : s.newId.2.replies = s.replies := rfl
@[simp] theorem State.newId_svcFlags (s : State) : s.newId.2.svcFlags = s.svcFlags := rfl
@[simp] theorem State.newId_mesh (s : State) : s.newId.2.mesh = s.mesh := rfl
@[simp] theorem State.newId_acks (s : State) : s.newId.2.acks = s.acks := rfl
@[simp] theorem State.newId_hostq (s : State) : s.newId.2.hostq = s.hostq := rfl
@[simp] theorem State.newId_peerq (s : State) : s.newId.2.peerq = s.peerq := rfl
@[simp] theorem State.newId_hostMem (s : State) : s.newId.2.hostMem = s.hostMem := rfl
@[simp] theorem State.newId_hostPg (s : State) : s.newId.2.hostPg = s.hostPg := rfl
@[simp] theorem State.newId_tlb (s : State) : s.newId.2.tlb = s.tlb := rfl
@[simp] theorem State.newId_walks (s : State) : s.newId.2.walks = s.walks := rfl
@[simp] theorem State.newId_grids (s : State) : s.newId.2.grids = s.grids := rfl
@[simp] theorem State.newId_lastGrid (s : State) : s.newId.2.lastGrid = s.lastGrid := rfl
@[simp] theorem State.newId_parts (s : State) : s.newId.2.parts = s.parts := rfl
@[simp] theorem State.newId_scheds (s : State) : s.newId.2.scheds = s.scheds := rfl
@[simp] theorem State.newId_queues (s : State) : s.newId.2.queues = s.queues := rfl
@[simp] theorem State.newId_waitMap (s : State) : s.newId.2.waitMap = s.waitMap := rfl
@[simp] theorem State.newId_created (s : State) : s.newId.2.created = s.created := rfl
@[simp] theorem State.newId_pktCopies (s : State) : s.newId.2.pktCopies = s.pktCopies := rfl
@[simp] theorem State.newId_hostPins (s : State) : s.newId.2.hostPins = s.hostPins := rfl
@[simp] theorem State.newId_relief (s : State) : s.newId.2.relief = s.relief := rfl
@[simp] theorem State.newId_lowPool (s : State) : s.newId.2.lowPool = s.lowPool := rfl
@[simp] theorem State.newId_msiPend (s : State) : s.newId.2.msiPend = s.msiPend := rfl
@[simp] theorem State.newId_msiSince (s : State) : s.newId.2.msiSince = s.msiSince := rfl
@[simp] theorem State.newId_msiSent (s : State) : s.newId.2.msiSent = s.msiSent := rfl
@[simp] theorem State.newId_coalesce (s : State) : s.newId.2.coalesce = s.coalesce := rfl
@[simp] theorem State.newId_evlog (s : State) : s.newId.2.evlog = s.evlog := rfl
@[simp] theorem State.newId_ctxs (s : State) : s.newId.2.ctxs = s.ctxs := rfl
@[simp] theorem State.newId_saved (s : State) : s.newId.2.saved = s.saved := rfl
@[simp] theorem Wg.setFrame_grid (w : Wg) (f : Nat) (fr : Frame) : (w.setFrame f fr).grid = w.grid := rfl
@[simp] theorem Wg.setFrame_idx (w : Wg) (f : Nat) (fr : Frame) : (w.setFrame f fr).idx = w.idx := rfl
@[simp] theorem Wg.setFrame_gang (w : Wg) (f : Nat) (fr : Frame) : (w.setFrame f fr).gang = w.gang := rfl
@[simp] theorem Wg.setFrame_pos (w : Wg) (f : Nat) (fr : Frame) : (w.setFrame f fr).pos = w.pos := rfl
@[simp] theorem Wg.setFrame_core (w : Wg) (f : Nat) (fr : Frame) : (w.setFrame f fr).core = w.core := rfl
@[simp] theorem Wg.setFrame_home (w : Wg) (f : Nat) (fr : Frame) : (w.setFrame f fr).home = w.home := rfl
@[simp] theorem Wg.setFrame_code (w : Wg) (f : Nat) (fr : Frame) : (w.setFrame f fr).code = w.code := rfl
@[simp] theorem Wg.setFrame_s (w : Wg) (f : Nat) (fr : Frame) : (w.setFrame f fr).s = w.s := rfl
@[simp] theorem Wg.setFrame_q (w : Wg) (f : Nat) (fr : Frame) : (w.setFrame f fr).q = w.q := rfl
@[simp] theorem Wg.setFrame_rpc (w : Wg) (f : Nat) (fr : Frame) : (w.setFrame f fr).rpc = w.rpc := rfl
@[simp] theorem Wg.setFrame_rst (w : Wg) (f : Nat) (fr : Frame) : (w.setFrame f fr).rst = w.rst := rfl
@[simp] theorem Wg.setFrame_rwake (w : Wg) (f : Nat) (fr : Frame) : (w.setFrame f fr).rwake = w.rwake := rfl
@[simp] theorem Wg.setFrame_lastCopy (w : Wg) (f : Nat) (fr : Frame) : (w.setFrame f fr).lastCopy = w.lastCopy := rfl
@[simp] theorem Wg.setFrame_pend (w : Wg) (f : Nat) (fr : Frame) : (w.setFrame f fr).pend = w.pend := rfl
@[simp] theorem Wg.setFrame_dq (w : Wg) (f : Nat) (fr : Frame) : (w.setFrame f fr).dq = w.dq := rfl
@[simp] theorem Wg.setFrame_dqBase (w : Wg) (f : Nat) (fr : Frame) : (w.setFrame f fr).dqBase = w.dqBase := rfl
@[simp] theorem Wg.setFrame_slice (w : Wg) (f : Nat) (fr : Frame) : (w.setFrame f fr).slice = w.slice := rfl
@[simp] theorem Wg.setFrame_slots (w : Wg) (f : Nat) (fr : Frame) : (w.setFrame f fr).slots = w.slots := rfl
@[simp] theorem Wg.setFrame_slotOps (w : Wg) (f : Nat) (fr : Frame) : (w.setFrame f fr).slotOps = w.slotOps := rfl
@[simp] theorem Wg.setFrame_passes (w : Wg) (f : Nat) (fr : Frame) : (w.setFrame f fr).passes = w.passes := rfl
@[simp] theorem Wg.setFrame_bars (w : Wg) (f : Nat) (fr : Frame) : (w.setFrame f fr).bars = w.bars := rfl
@[simp] theorem Wg.setFrame_cparts (w : Wg) (f : Nat) (fr : Frame) : (w.setFrame f fr).cparts = w.cparts := rfl
@[simp] theorem Wg.setFrame_gparts (w : Wg) (f : Nat) (fr : Frame) : (w.setFrame f fr).gparts = w.gparts := rfl
@[simp] theorem Wg.setFrame_phase (w : Wg) (f : Nat) (fr : Frame) : (w.setFrame f fr).phase = w.phase := rfl
@[simp] theorem Wg.setFrame_kept (w : Wg) (f : Nat) (fr : Frame) : (w.setFrame f fr).kept = w.kept := rfl
@[simp] theorem Wg.setFrame_pins (w : Wg) (f : Nat) (fr : Frame) : (w.setFrame f fr).pins = w.pins := rfl
@[simp] theorem Wg.setFrame_expired (w : Wg) (f : Nat) (fr : Frame) : (w.setFrame f fr).expired = w.expired := rfl
@[simp] theorem Wg.setFrame_copies (w : Wg) (f : Nat) (fr : Frame) : (w.setFrame f fr).copies = w.copies := rfl
@[simp] theorem Wg.setFrame_groups (w : Wg) (f : Nat) (fr : Frame) : (w.setFrame f fr).groups = w.groups := rfl
@[simp] theorem Wg.setFrame_acts (w : Wg) (f : Nat) (fr : Frame) : (w.setFrame f fr).acts = w.acts := rfl
@[simp] theorem Wg.setFrame_reqs (w : Wg) (f : Nat) (fr : Frame) : (w.setFrame f fr).reqs = w.reqs := rfl
@[simp] theorem Wg.setFrame_atomnFlags (w : Wg) (f : Nat) (fr : Frame) : (w.setFrame f fr).atomnFlags = w.atomnFlags := rfl
@[simp] theorem Wg.setFrame_replays (w : Wg) (f : Nat) (fr : Frame) : (w.setFrame f fr).replays = w.replays := rfl
@[simp] theorem Wg.setFrame_retired (w : Wg) (f : Nat) (fr : Frame) : (w.setFrame f fr).retired = w.retired := rfl
@[simp] theorem Wg.setFrame_total (w : Wg) (f : Nat) (fr : Frame) : (w.setFrame f fr).total = w.total := rfl
@[simp] theorem Wg.setFrame_maxst (w : Wg) (f : Nat) (fr : Frame) : (w.setFrame f fr).maxst = w.maxst := rfl
@[simp] theorem Wg.setFrame_nz (w : Wg) (f : Nat) (fr : Frame) : (w.setFrame f fr).nz = w.nz := rfl
@[simp] theorem Wg.setFrame_endflags (w : Wg) (f : Nat) (fr : Frame) : (w.setFrame f fr).endflags = w.endflags := rfl
@[simp] theorem Wg.setFrame_fault (w : Wg) (f : Nat) (fr : Frame) : (w.setFrame f fr).fault = w.fault := rfl
@[simp] theorem Wg.setFrame_mapstore (w : Wg) (f : Nat) (fr : Frame) : (w.setFrame f fr).mapstore = w.mapstore := rfl
@[simp] theorem Wg.setFrame_storage (w : Wg) (f : Nat) (fr : Frame) : (w.setFrame f fr).storage = w.storage := rfl
@[simp] theorem Wg.setFrame_run (w : Wg) (f : Nat) (fr : Frame) : (w.setFrame f fr).run = w.run := rfl
@[simp] theorem Wg.setFrame_halt (w : Wg) (f : Nat) (fr : Frame) : (w.setFrame f fr).halt = w.halt := rfl
@[simp] theorem Wg.setFrame_gated (w : Wg) (f : Nat) (fr : Frame) : (w.setFrame f fr).gated = w.gated := rfl
@[simp] theorem Wg.setFrame_savearea (w : Wg) (f : Nat) (fr : Frame) : (w.setFrame f fr).savearea = w.savearea := rfl
@[simp] theorem Wg.setFrame_imgSize (w : Wg) (f : Nat) (fr : Frame) : (w.setFrame f fr).imgSize = w.imgSize := rfl
@[simp] theorem Wg.setFrame_brk (w : Wg) (f : Nat) (fr : Frame) : (w.setFrame f fr).brk = w.brk := rfl
@[simp] theorem Wg.setFrame_wbase (w : Wg) (f : Nat) (fr : Frame) : (w.setFrame f fr).wbase = w.wbase := rfl
@[simp] theorem Wg.setFrame_wctl (w : Wg) (f : Nat) (fr : Frame) : (w.setFrame f fr).wctl = w.wctl := rfl
@[simp] theorem Wg.setFrame_rdbg (w : Wg) (f : Nat) (fr : Frame) : (w.setFrame f fr).rdbg = w.rdbg := rfl
@[simp] theorem Wg.setFrame_rstep (w : Wg) (f : Nat) (fr : Frame) : (w.setFrame f fr).rstep = w.rstep := rfl
@[simp] theorem Wg.setFrame_rskip (w : Wg) (f : Nat) (fr : Frame) : (w.setFrame f fr).rskip = w.rskip := rfl
@[simp] theorem Wg.setFrame_rends (w : Wg) (f : Nat) (fr : Frame) : (w.setFrame f fr).rends = w.rends := rfl
@[simp] theorem Wg.mapFrames_grid (w : Wg) (g : Frame → Frame) : (w.mapFrames g).grid = w.grid := rfl
@[simp] theorem Wg.mapFrames_idx (w : Wg) (g : Frame → Frame) : (w.mapFrames g).idx = w.idx := rfl
@[simp] theorem Wg.mapFrames_gang (w : Wg) (g : Frame → Frame) : (w.mapFrames g).gang = w.gang := rfl
@[simp] theorem Wg.mapFrames_pos (w : Wg) (g : Frame → Frame) : (w.mapFrames g).pos = w.pos := rfl
@[simp] theorem Wg.mapFrames_core (w : Wg) (g : Frame → Frame) : (w.mapFrames g).core = w.core := rfl
@[simp] theorem Wg.mapFrames_home (w : Wg) (g : Frame → Frame) : (w.mapFrames g).home = w.home := rfl
@[simp] theorem Wg.mapFrames_code (w : Wg) (g : Frame → Frame) : (w.mapFrames g).code = w.code := rfl
@[simp] theorem Wg.mapFrames_s (w : Wg) (g : Frame → Frame) : (w.mapFrames g).s = w.s := rfl
@[simp] theorem Wg.mapFrames_q (w : Wg) (g : Frame → Frame) : (w.mapFrames g).q = w.q := rfl
@[simp] theorem Wg.mapFrames_rpc (w : Wg) (g : Frame → Frame) : (w.mapFrames g).rpc = w.rpc := rfl
@[simp] theorem Wg.mapFrames_rst (w : Wg) (g : Frame → Frame) : (w.mapFrames g).rst = w.rst := rfl
@[simp] theorem Wg.mapFrames_rwake (w : Wg) (g : Frame → Frame) : (w.mapFrames g).rwake = w.rwake := rfl
@[simp] theorem Wg.mapFrames_lastCopy (w : Wg) (g : Frame → Frame) : (w.mapFrames g).lastCopy = w.lastCopy := rfl
@[simp] theorem Wg.mapFrames_pend (w : Wg) (g : Frame → Frame) : (w.mapFrames g).pend = w.pend := rfl
@[simp] theorem Wg.mapFrames_dq (w : Wg) (g : Frame → Frame) : (w.mapFrames g).dq = w.dq := rfl
@[simp] theorem Wg.mapFrames_dqBase (w : Wg) (g : Frame → Frame) : (w.mapFrames g).dqBase = w.dqBase := rfl
@[simp] theorem Wg.mapFrames_slice (w : Wg) (g : Frame → Frame) : (w.mapFrames g).slice = w.slice := rfl
@[simp] theorem Wg.mapFrames_slots (w : Wg) (g : Frame → Frame) : (w.mapFrames g).slots = w.slots := rfl
@[simp] theorem Wg.mapFrames_slotOps (w : Wg) (g : Frame → Frame) : (w.mapFrames g).slotOps = w.slotOps := rfl
@[simp] theorem Wg.mapFrames_passes (w : Wg) (g : Frame → Frame) : (w.mapFrames g).passes = w.passes := rfl
@[simp] theorem Wg.mapFrames_bars (w : Wg) (g : Frame → Frame) : (w.mapFrames g).bars = w.bars := rfl
@[simp] theorem Wg.mapFrames_cparts (w : Wg) (g : Frame → Frame) : (w.mapFrames g).cparts = w.cparts := rfl
@[simp] theorem Wg.mapFrames_gparts (w : Wg) (g : Frame → Frame) : (w.mapFrames g).gparts = w.gparts := rfl
@[simp] theorem Wg.mapFrames_phase (w : Wg) (g : Frame → Frame) : (w.mapFrames g).phase = w.phase := rfl
@[simp] theorem Wg.mapFrames_kept (w : Wg) (g : Frame → Frame) : (w.mapFrames g).kept = w.kept := rfl
@[simp] theorem Wg.mapFrames_pins (w : Wg) (g : Frame → Frame) : (w.mapFrames g).pins = w.pins := rfl
@[simp] theorem Wg.mapFrames_expired (w : Wg) (g : Frame → Frame) : (w.mapFrames g).expired = w.expired := rfl
@[simp] theorem Wg.mapFrames_copies (w : Wg) (g : Frame → Frame) : (w.mapFrames g).copies = w.copies := rfl
@[simp] theorem Wg.mapFrames_groups (w : Wg) (g : Frame → Frame) : (w.mapFrames g).groups = w.groups := rfl
@[simp] theorem Wg.mapFrames_acts (w : Wg) (g : Frame → Frame) : (w.mapFrames g).acts = w.acts := rfl
@[simp] theorem Wg.mapFrames_reqs (w : Wg) (g : Frame → Frame) : (w.mapFrames g).reqs = w.reqs := rfl
@[simp] theorem Wg.mapFrames_atomnFlags (w : Wg) (g : Frame → Frame) : (w.mapFrames g).atomnFlags = w.atomnFlags := rfl
@[simp] theorem Wg.mapFrames_replays (w : Wg) (g : Frame → Frame) : (w.mapFrames g).replays = w.replays := rfl
@[simp] theorem Wg.mapFrames_retired (w : Wg) (g : Frame → Frame) : (w.mapFrames g).retired = w.retired := rfl
@[simp] theorem Wg.mapFrames_total (w : Wg) (g : Frame → Frame) : (w.mapFrames g).total = w.total := rfl
@[simp] theorem Wg.mapFrames_maxst (w : Wg) (g : Frame → Frame) : (w.mapFrames g).maxst = w.maxst := rfl
@[simp] theorem Wg.mapFrames_nz (w : Wg) (g : Frame → Frame) : (w.mapFrames g).nz = w.nz := rfl
@[simp] theorem Wg.mapFrames_endflags (w : Wg) (g : Frame → Frame) : (w.mapFrames g).endflags = w.endflags := rfl
@[simp] theorem Wg.mapFrames_fault (w : Wg) (g : Frame → Frame) : (w.mapFrames g).fault = w.fault := rfl
@[simp] theorem Wg.mapFrames_mapstore (w : Wg) (g : Frame → Frame) : (w.mapFrames g).mapstore = w.mapstore := rfl
@[simp] theorem Wg.mapFrames_storage (w : Wg) (g : Frame → Frame) : (w.mapFrames g).storage = w.storage := rfl
@[simp] theorem Wg.mapFrames_run (w : Wg) (g : Frame → Frame) : (w.mapFrames g).run = w.run := rfl
@[simp] theorem Wg.mapFrames_halt (w : Wg) (g : Frame → Frame) : (w.mapFrames g).halt = w.halt := rfl
@[simp] theorem Wg.mapFrames_gated (w : Wg) (g : Frame → Frame) : (w.mapFrames g).gated = w.gated := rfl
@[simp] theorem Wg.mapFrames_savearea (w : Wg) (g : Frame → Frame) : (w.mapFrames g).savearea = w.savearea := rfl
@[simp] theorem Wg.mapFrames_imgSize (w : Wg) (g : Frame → Frame) : (w.mapFrames g).imgSize = w.imgSize := rfl
@[simp] theorem Wg.mapFrames_brk (w : Wg) (g : Frame → Frame) : (w.mapFrames g).brk = w.brk := rfl
@[simp] theorem Wg.mapFrames_wbase (w : Wg) (g : Frame → Frame) : (w.mapFrames g).wbase = w.wbase := rfl
@[simp] theorem Wg.mapFrames_wctl (w : Wg) (g : Frame → Frame) : (w.mapFrames g).wctl = w.wctl := rfl
@[simp] theorem Wg.mapFrames_rdbg (w : Wg) (g : Frame → Frame) : (w.mapFrames g).rdbg = w.rdbg := rfl
@[simp] theorem Wg.mapFrames_rstep (w : Wg) (g : Frame → Frame) : (w.mapFrames g).rstep = w.rstep := rfl
@[simp] theorem Wg.mapFrames_rskip (w : Wg) (g : Frame → Frame) : (w.mapFrames g).rskip = w.rskip := rfl
@[simp] theorem Wg.mapFrames_rends (w : Wg) (g : Frame → Frame) : (w.mapFrames g).rends = w.rends := rfl
@[simp] theorem Wg.setS_grid (w : Wg) (n : Nat) (x : Word64) : (w.setS n x).grid = w.grid := rfl
@[simp] theorem Wg.setS_idx (w : Wg) (n : Nat) (x : Word64) : (w.setS n x).idx = w.idx := rfl
@[simp] theorem Wg.setS_gang (w : Wg) (n : Nat) (x : Word64) : (w.setS n x).gang = w.gang := rfl
@[simp] theorem Wg.setS_pos (w : Wg) (n : Nat) (x : Word64) : (w.setS n x).pos = w.pos := rfl
@[simp] theorem Wg.setS_core (w : Wg) (n : Nat) (x : Word64) : (w.setS n x).core = w.core := rfl
@[simp] theorem Wg.setS_home (w : Wg) (n : Nat) (x : Word64) : (w.setS n x).home = w.home := rfl
@[simp] theorem Wg.setS_code (w : Wg) (n : Nat) (x : Word64) : (w.setS n x).code = w.code := rfl
@[simp] theorem Wg.setS_frames (w : Wg) (n : Nat) (x : Word64) : (w.setS n x).frames = w.frames := rfl
@[simp] theorem Wg.setS_q (w : Wg) (n : Nat) (x : Word64) : (w.setS n x).q = w.q := rfl
@[simp] theorem Wg.setS_rpc (w : Wg) (n : Nat) (x : Word64) : (w.setS n x).rpc = w.rpc := rfl
@[simp] theorem Wg.setS_rst (w : Wg) (n : Nat) (x : Word64) : (w.setS n x).rst = w.rst := rfl
@[simp] theorem Wg.setS_rwake (w : Wg) (n : Nat) (x : Word64) : (w.setS n x).rwake = w.rwake := rfl
@[simp] theorem Wg.setS_lastCopy (w : Wg) (n : Nat) (x : Word64) : (w.setS n x).lastCopy = w.lastCopy := rfl
@[simp] theorem Wg.setS_pend (w : Wg) (n : Nat) (x : Word64) : (w.setS n x).pend = w.pend := rfl
@[simp] theorem Wg.setS_dq (w : Wg) (n : Nat) (x : Word64) : (w.setS n x).dq = w.dq := rfl
@[simp] theorem Wg.setS_dqBase (w : Wg) (n : Nat) (x : Word64) : (w.setS n x).dqBase = w.dqBase := rfl
@[simp] theorem Wg.setS_slice (w : Wg) (n : Nat) (x : Word64) : (w.setS n x).slice = w.slice := rfl
@[simp] theorem Wg.setS_slots (w : Wg) (n : Nat) (x : Word64) : (w.setS n x).slots = w.slots := rfl
@[simp] theorem Wg.setS_slotOps (w : Wg) (n : Nat) (x : Word64) : (w.setS n x).slotOps = w.slotOps := rfl
@[simp] theorem Wg.setS_passes (w : Wg) (n : Nat) (x : Word64) : (w.setS n x).passes = w.passes := rfl
@[simp] theorem Wg.setS_bars (w : Wg) (n : Nat) (x : Word64) : (w.setS n x).bars = w.bars := rfl
@[simp] theorem Wg.setS_cparts (w : Wg) (n : Nat) (x : Word64) : (w.setS n x).cparts = w.cparts := rfl
@[simp] theorem Wg.setS_gparts (w : Wg) (n : Nat) (x : Word64) : (w.setS n x).gparts = w.gparts := rfl
@[simp] theorem Wg.setS_phase (w : Wg) (n : Nat) (x : Word64) : (w.setS n x).phase = w.phase := rfl
@[simp] theorem Wg.setS_kept (w : Wg) (n : Nat) (x : Word64) : (w.setS n x).kept = w.kept := rfl
@[simp] theorem Wg.setS_pins (w : Wg) (n : Nat) (x : Word64) : (w.setS n x).pins = w.pins := rfl
@[simp] theorem Wg.setS_expired (w : Wg) (n : Nat) (x : Word64) : (w.setS n x).expired = w.expired := rfl
@[simp] theorem Wg.setS_copies (w : Wg) (n : Nat) (x : Word64) : (w.setS n x).copies = w.copies := rfl
@[simp] theorem Wg.setS_groups (w : Wg) (n : Nat) (x : Word64) : (w.setS n x).groups = w.groups := rfl
@[simp] theorem Wg.setS_acts (w : Wg) (n : Nat) (x : Word64) : (w.setS n x).acts = w.acts := rfl
@[simp] theorem Wg.setS_reqs (w : Wg) (n : Nat) (x : Word64) : (w.setS n x).reqs = w.reqs := rfl
@[simp] theorem Wg.setS_atomnFlags (w : Wg) (n : Nat) (x : Word64) : (w.setS n x).atomnFlags = w.atomnFlags := rfl
@[simp] theorem Wg.setS_replays (w : Wg) (n : Nat) (x : Word64) : (w.setS n x).replays = w.replays := rfl
@[simp] theorem Wg.setS_retired (w : Wg) (n : Nat) (x : Word64) : (w.setS n x).retired = w.retired := rfl
@[simp] theorem Wg.setS_total (w : Wg) (n : Nat) (x : Word64) : (w.setS n x).total = w.total := rfl
@[simp] theorem Wg.setS_maxst (w : Wg) (n : Nat) (x : Word64) : (w.setS n x).maxst = w.maxst := rfl
@[simp] theorem Wg.setS_nz (w : Wg) (n : Nat) (x : Word64) : (w.setS n x).nz = w.nz := rfl
@[simp] theorem Wg.setS_endflags (w : Wg) (n : Nat) (x : Word64) : (w.setS n x).endflags = w.endflags := rfl
@[simp] theorem Wg.setS_fault (w : Wg) (n : Nat) (x : Word64) : (w.setS n x).fault = w.fault := rfl
@[simp] theorem Wg.setS_mapstore (w : Wg) (n : Nat) (x : Word64) : (w.setS n x).mapstore = w.mapstore := rfl
@[simp] theorem Wg.setS_storage (w : Wg) (n : Nat) (x : Word64) : (w.setS n x).storage = w.storage := rfl
@[simp] theorem Wg.setS_run (w : Wg) (n : Nat) (x : Word64) : (w.setS n x).run = w.run := rfl
@[simp] theorem Wg.setS_halt (w : Wg) (n : Nat) (x : Word64) : (w.setS n x).halt = w.halt := rfl
@[simp] theorem Wg.setS_gated (w : Wg) (n : Nat) (x : Word64) : (w.setS n x).gated = w.gated := rfl
@[simp] theorem Wg.setS_savearea (w : Wg) (n : Nat) (x : Word64) : (w.setS n x).savearea = w.savearea := rfl
@[simp] theorem Wg.setS_imgSize (w : Wg) (n : Nat) (x : Word64) : (w.setS n x).imgSize = w.imgSize := rfl
@[simp] theorem Wg.setS_brk (w : Wg) (n : Nat) (x : Word64) : (w.setS n x).brk = w.brk := rfl
@[simp] theorem Wg.setS_wbase (w : Wg) (n : Nat) (x : Word64) : (w.setS n x).wbase = w.wbase := rfl
@[simp] theorem Wg.setS_wctl (w : Wg) (n : Nat) (x : Word64) : (w.setS n x).wctl = w.wctl := rfl
@[simp] theorem Wg.setS_rdbg (w : Wg) (n : Nat) (x : Word64) : (w.setS n x).rdbg = w.rdbg := rfl
@[simp] theorem Wg.setS_rstep (w : Wg) (n : Nat) (x : Word64) : (w.setS n x).rstep = w.rstep := rfl
@[simp] theorem Wg.setS_rskip (w : Wg) (n : Nat) (x : Word64) : (w.setS n x).rskip = w.rskip := rfl
@[simp] theorem Wg.setS_rends (w : Wg) (n : Nat) (x : Word64) : (w.setS n x).rends = w.rends := rfl
@[simp] theorem Frame.setSplit_v (fr : Frame) (p : Split) : (fr.setSplit p).v = fr.v := rfl
@[simp] theorem Frame.setSplit_side (fr : Frame) (p : Split) : (fr.setSplit p).side = fr.side := rfl
@[simp] theorem Frame.setSplit_tags (fr : Frame) (p : Split) : (fr.setSplit p).tags = fr.tags := rfl
@[simp] theorem Frame.setSplit_preds (fr : Frame) (p : Split) : (fr.setSplit p).preds = fr.preds := rfl
@[simp] theorem Frame.setSplit_resid (fr : Frame) (p : Split) : (fr.setSplit p).resid = fr.resid := rfl
@[simp] theorem Frame.setSplit_fpst (fr : Frame) (p : Split) : (fr.setSplit p).fpst = fr.fpst := rfl
@[simp] theorem Frame.setSplit_live (fr : Frame) (p : Split) : (fr.setSplit p).live = fr.live := rfl
@[simp] theorem Frame.setSplit_fmask (fr : Frame) (p : Split) : (fr.setSplit p).fmask = fr.fmask := rfl
@[simp] theorem Frame.setSplit_prio (fr : Frame) (p : Split) : (fr.setSplit p).prio = fr.prio := rfl
@[simp] theorem Frame.setSplit_wake (fr : Frame) (p : Split) : (fr.setSplit p).wake = fr.wake := rfl
@[simp] theorem Frame.setSplit_parked (fr : Frame) (p : Split) : (fr.setSplit p).parked = fr.parked := rfl
@[simp] theorem Frame.setSplit_nextSplit (fr : Frame) (p : Split) : (fr.setSplit p).nextSplit = fr.nextSplit := rfl
@[simp] theorem Frame.setSplit_taken (fr : Frame) (p : Split) : (fr.setSplit p).taken = fr.taken := rfl
@[simp] theorem Frame.setSplit_defer (fr : Frame) (p : Split) : (fr.setSplit p).defer = fr.defer := rfl
@[simp] theorem Frame.setSplit_yielded (fr : Frame) (p : Split) : (fr.setSplit p).yielded = fr.yielded := rfl
@[simp] theorem Frame.setSplit_heldAt (fr : Frame) (p : Split) : (fr.setSplit p).heldAt = fr.heldAt := rfl
@[simp] theorem Frame.mapSplits_v (fr : Frame) (g : Split → Split) : (fr.mapSplits g).v = fr.v := rfl
@[simp] theorem Frame.mapSplits_side (fr : Frame) (g : Split → Split) : (fr.mapSplits g).side = fr.side := rfl
@[simp] theorem Frame.mapSplits_tags (fr : Frame) (g : Split → Split) : (fr.mapSplits g).tags = fr.tags := rfl
@[simp] theorem Frame.mapSplits_preds (fr : Frame) (g : Split → Split) : (fr.mapSplits g).preds = fr.preds := rfl
@[simp] theorem Frame.mapSplits_resid (fr : Frame) (g : Split → Split) : (fr.mapSplits g).resid = fr.resid := rfl
@[simp] theorem Frame.mapSplits_fpst (fr : Frame) (g : Split → Split) : (fr.mapSplits g).fpst = fr.fpst := rfl
@[simp] theorem Frame.mapSplits_live (fr : Frame) (g : Split → Split) : (fr.mapSplits g).live = fr.live := rfl
@[simp] theorem Frame.mapSplits_fmask (fr : Frame) (g : Split → Split) : (fr.mapSplits g).fmask = fr.fmask := rfl
@[simp] theorem Frame.mapSplits_prio (fr : Frame) (g : Split → Split) : (fr.mapSplits g).prio = fr.prio := rfl
@[simp] theorem Frame.mapSplits_wake (fr : Frame) (g : Split → Split) : (fr.mapSplits g).wake = fr.wake := rfl
@[simp] theorem Frame.mapSplits_parked (fr : Frame) (g : Split → Split) : (fr.mapSplits g).parked = fr.parked := rfl
@[simp] theorem Frame.mapSplits_nextSplit (fr : Frame) (g : Split → Split) : (fr.mapSplits g).nextSplit = fr.nextSplit := rfl
@[simp] theorem Frame.mapSplits_taken (fr : Frame) (g : Split → Split) : (fr.mapSplits g).taken = fr.taken := rfl
@[simp] theorem Frame.mapSplits_defer (fr : Frame) (g : Split → Split) : (fr.mapSplits g).defer = fr.defer := rfl
@[simp] theorem Frame.mapSplits_yielded (fr : Frame) (g : Split → Split) : (fr.mapSplits g).yielded = fr.yielded := rfl
@[simp] theorem Frame.mapSplits_heldAt (fr : Frame) (g : Split → Split) : (fr.mapSplits g).heldAt = fr.heldAt := rfl
@[simp] theorem Frame.setPreds_v (fr : Frame) (ps : List (Nat × Bool)) : (fr.setPreds ps).v = fr.v := rfl
@[simp] theorem Frame.setPreds_side (fr : Frame) (ps : List (Nat × Bool)) : (fr.setPreds ps).side = fr.side := rfl
@[simp] theorem Frame.setPreds_tags (fr : Frame) (ps : List (Nat × Bool)) : (fr.setPreds ps).tags = fr.tags := rfl
@[simp] theorem Frame.setPreds_resid (fr : Frame) (ps : List (Nat × Bool)) : (fr.setPreds ps).resid = fr.resid := rfl
@[simp] theorem Frame.setPreds_fpst (fr : Frame) (ps : List (Nat × Bool)) : (fr.setPreds ps).fpst = fr.fpst := rfl
@[simp] theorem Frame.setPreds_live (fr : Frame) (ps : List (Nat × Bool)) : (fr.setPreds ps).live = fr.live := rfl
@[simp] theorem Frame.setPreds_fmask (fr : Frame) (ps : List (Nat × Bool)) : (fr.setPreds ps).fmask = fr.fmask := rfl
@[simp] theorem Frame.setPreds_prio (fr : Frame) (ps : List (Nat × Bool)) : (fr.setPreds ps).prio = fr.prio := rfl
@[simp] theorem Frame.setPreds_wake (fr : Frame) (ps : List (Nat × Bool)) : (fr.setPreds ps).wake = fr.wake := rfl
@[simp] theorem Frame.setPreds_splits (fr : Frame) (ps : List (Nat × Bool)) : (fr.setPreds ps).splits = fr.splits := rfl
@[simp] theorem Frame.setPreds_parked (fr : Frame) (ps : List (Nat × Bool)) : (fr.setPreds ps).parked = fr.parked := rfl
@[simp] theorem Frame.setPreds_nextSplit (fr : Frame) (ps : List (Nat × Bool)) : (fr.setPreds ps).nextSplit = fr.nextSplit := rfl
@[simp] theorem Frame.setPreds_taken (fr : Frame) (ps : List (Nat × Bool)) : (fr.setPreds ps).taken = fr.taken := rfl
@[simp] theorem Frame.setPreds_defer (fr : Frame) (ps : List (Nat × Bool)) : (fr.setPreds ps).defer = fr.defer := rfl
@[simp] theorem Frame.setPreds_yielded (fr : Frame) (ps : List (Nat × Bool)) : (fr.setPreds ps).yielded = fr.yielded := rfl
@[simp] theorem Frame.setPreds_heldAt (fr : Frame) (ps : List (Nat × Bool)) : (fr.setPreds ps).heldAt = fr.heldAt := rfl
@[simp] theorem Frame.raiseFlags_v (fr : Frame) (l : Nat) (x : BitVec 5) : (fr.raiseFlags l x).v = fr.v := rfl
@[simp] theorem Frame.raiseFlags_side (fr : Frame) (l : Nat) (x : BitVec 5) : (fr.raiseFlags l x).side = fr.side := rfl
@[simp] theorem Frame.raiseFlags_tags (fr : Frame) (l : Nat) (x : BitVec 5) : (fr.raiseFlags l x).tags = fr.tags := rfl
@[simp] theorem Frame.raiseFlags_preds (fr : Frame) (l : Nat) (x : BitVec 5) : (fr.raiseFlags l x).preds = fr.preds := rfl
@[simp] theorem Frame.raiseFlags_resid (fr : Frame) (l : Nat) (x : BitVec 5) : (fr.raiseFlags l x).resid = fr.resid := rfl
@[simp] theorem Frame.raiseFlags_live (fr : Frame) (l : Nat) (x : BitVec 5) : (fr.raiseFlags l x).live = fr.live := rfl
@[simp] theorem Frame.raiseFlags_fmask (fr : Frame) (l : Nat) (x : BitVec 5) : (fr.raiseFlags l x).fmask = fr.fmask := rfl
@[simp] theorem Frame.raiseFlags_prio (fr : Frame) (l : Nat) (x : BitVec 5) : (fr.raiseFlags l x).prio = fr.prio := rfl
@[simp] theorem Frame.raiseFlags_wake (fr : Frame) (l : Nat) (x : BitVec 5) : (fr.raiseFlags l x).wake = fr.wake := rfl
@[simp] theorem Frame.raiseFlags_splits (fr : Frame) (l : Nat) (x : BitVec 5) : (fr.raiseFlags l x).splits = fr.splits := rfl
@[simp] theorem Frame.raiseFlags_parked (fr : Frame) (l : Nat) (x : BitVec 5) : (fr.raiseFlags l x).parked = fr.parked := rfl
@[simp] theorem Frame.raiseFlags_nextSplit (fr : Frame) (l : Nat) (x : BitVec 5) : (fr.raiseFlags l x).nextSplit = fr.nextSplit := rfl
@[simp] theorem Frame.raiseFlags_taken (fr : Frame) (l : Nat) (x : BitVec 5) : (fr.raiseFlags l x).taken = fr.taken := rfl
@[simp] theorem Frame.raiseFlags_defer (fr : Frame) (l : Nat) (x : BitVec 5) : (fr.raiseFlags l x).defer = fr.defer := rfl
@[simp] theorem Frame.raiseFlags_yielded (fr : Frame) (l : Nat) (x : BitVec 5) : (fr.raiseFlags l x).yielded = fr.yielded := rfl
@[simp] theorem Frame.raiseFlags_heldAt (fr : Frame) (l : Nat) (x : BitVec 5) : (fr.raiseFlags l x).heldAt = fr.heldAt := rfl

end Sys2Proof.Machine
end

