-- ==== Sys2Proof/Laws/Frame.lean ====
section
/-!
SUPPORT. Laws of a frame: lanes and rods of a mask, what the writes of an instruction make of its registers, and what retirement leaves.
-/
namespace Sys2Proof.Machine

open Sys2Proof

/-! ### Lanes and rods -/

@[simp] theorem mem_lanesOf {m : Word32} {l : Nat} : l ∈ lanesOf m ↔ m.getLsbD l = true := by
  simp only [lanesOf, List.mem_filter, List.mem_range, and_iff_right_iff_imp]
  exact BitVec.lt_of_getLsbD

theorem lanesOf_nodup (m : Word32) : (lanesOf m).Nodup := List.Pairwise.sublist List.filter_sublist List.nodup_range

theorem lane_lt {m : Word32} {l : Nat} (h : l ∈ lanesOf m) : l < 32 := BitVec.lt_of_getLsbD (mem_lanesOf.mp h)

theorem rod_lt {m : Word32} {k : Nat} (h : k ∈ rodsOf m) : k < 8 := by
  simp only [rodsOf, List.mem_filter, List.mem_range] at h
  exact h.1

theorem rodsOf_nodup (m : Word32) : (rodsOf m).Nodup := List.Pairwise.sublist List.filter_sublist List.nodup_range

@[simp] theorem lanesOf_zero : lanesOf 0#32 = [] := by decide
@[simp] theorem rodsOf_zero : rodsOf 0#32 = [] := by decide

/-! ### What no bookkeeping of splits touches -/

theorem Frame.vreg_of_regs {a b : Frame} (h : a.regs = b.regs) (l r : Nat) : a.vreg l r = b.vreg l r := by
  have : a.v = b.v := congrArg Frame.Regs.v h
  simp [Frame.vreg, this]
theorem Frame.sideOf_of_regs {a b : Frame} (h : a.regs = b.regs) (l r : Nat) : a.sideOf l r = b.sideOf l r := by
  have : a.side = b.side := congrArg Frame.Regs.side h
  simp [Frame.sideOf, this]
theorem Frame.tagOf_of_regs {a b : Frame} (h : a.regs = b.regs) (k r : Nat) : a.tagOf k r = b.tagOf k r := by
  have : a.tags = b.tags := congrArg Frame.Regs.tags h
  simp [Frame.tagOf, this]
theorem Frame.pred_of_regs {a b : Frame} (h : a.regs = b.regs) (l p : Nat) : a.pred l p = b.pred l p := by
  have : a.preds = b.preds := congrArg Frame.Regs.preds h
  simp [Frame.pred, this]
theorem Frame.residOf_of_regs {a b : Frame} (h : a.regs = b.regs) (l e : Nat) : a.residOf l e = b.residOf l e := by
  have : a.resid = b.resid := congrArg Frame.Regs.resid h
  simp [Frame.residOf, this]
theorem Frame.flagsOf_of_regs {a b : Frame} (h : a.regs = b.regs) (l : Nat) : a.flagsOf l = b.flagsOf l := by
  have : a.fpst = b.fpst := congrArg Frame.Regs.fpst h
  simp [Frame.flagsOf, this]

theorem Frame.settleRod_regs (fr : Frame) (r : Nat) : (fr.settleRod r).regs = fr.regs := by
  unfold Frame.settleRod
  split
  · rfl
  · dsimp only
    split <;> rfl

theorem Frame.settle_regs (fr : Frame) : fr.settle.regs = fr.regs := by
  unfold Frame.settle
  generalize List.range 8 = rs
  induction rs generalizing fr with
  | nil => rfl
  | cons r rs ih => rw [List.foldl_cons, ih, Frame.settleRod_regs]

theorem Frame.setSplit_regs (fr : Frame) (p : Split) : (fr.setSplit p).regs = fr.regs := rfl
theorem Frame.mapSplits_regs (fr : Frame) (g : Split → Split) : (fr.mapSplits g).regs = fr.regs := rfl

theorem Frame.foldl_regs {α : Type} (g : Frame → α → Frame) (hg : ∀ fr a, (g fr a).regs = fr.regs) (l : List α) (fr : Frame) :
    (l.foldl g fr).regs = fr.regs := by
  induction l generalizing fr with
  | nil => rfl
  | cons a l ih => rw [List.foldl_cons, ih, hg]

/-- Going on at the next PCs touches no register. -/
theorem Frame.advance_regs (fr : Frame) (sp : Split) (npc : Nat → Word64) : (fr.advance sp npc).regs = fr.regs := by
  unfold Frame.advance
  dsimp only
  split
  · rw [Frame.settle_regs]; rfl
  · rfl
  · rw [Frame.foldl_regs]
    · rfl
    · intro fr r
      split <;> rfl

/-- Retirement touches no register. -/
theorem Frame.after_regs (fr : Frame) (sp : Split) (c : Ctl) (l : Latch) (now : Nat) (npc : Nat → Word64) :
    (fr.after sp c l now npc).regs = fr.regs := by
  unfold Frame.after
  have h := Frame.advance_regs fr (sp.retired c l fr.live) npc
  simpa only [Frame.regs, Frame.Regs.mk.injEq] using h

/-! ### Writes -/

theorem Frame.raise_other (fs : List (Nat × BitVec 5)) (fr : Frame) :
    let g := fs.foldl (fun fr p => fr.raiseFlags p.1 p.2) fr
    g.v = fr.v ∧ g.side = fr.side ∧ g.tags = fr.tags ∧ g.preds = fr.preds ∧ g.resid = fr.resid ∧ g.live = fr.live ∧ g.fmask = fr.fmask ∧
      g.prio = fr.prio ∧ g.wake = fr.wake ∧ g.taken = fr.taken ∧ g.splits = fr.splits ∧ g.parked = fr.parked ∧ g.nextSplit = fr.nextSplit := by
  induction fs generalizing fr with
  | nil => simp
  | cons p fs ih => simpa using ih (fr.raiseFlags p.1 p.2)

@[simp] theorem Frame.write_v (fr : Frame) (w : Writes) : (fr.write w).v = Tab.setAll 0#32 fr.v w.v := (Frame.raise_other w.flags _).1
@[simp] theorem Frame.write_side (fr : Frame) (w : Writes) : (fr.write w).side = Tab.setAll 0#8 fr.side w.side :=
  (Frame.raise_other w.flags _).2.1
@[simp] theorem Frame.write_tags (fr : Frame) (w : Writes) : (fr.write w).tags = Tab.setAll Tag.int fr.tags w.tags :=
  (Frame.raise_other w.flags _).2.2.1
@[simp] theorem Frame.write_preds (fr : Frame) (w : Writes) :
    (fr.write w).preds = Tab.setAll false fr.preds (w.preds.filter (fun p => decide (p.1 % 8 ≠ 7))) := (Frame.raise_other w.flags _).2.2.2.1
@[simp] theorem Frame.write_resid (fr : Frame) (w : Writes) : (fr.write w).resid = Tab.setAll 0#32 fr.resid w.resid :=
  (Frame.raise_other w.flags _).2.2.2.2.1
@[simp] theorem Frame.write_live (fr : Frame) (w : Writes) : (fr.write w).live = fr.live := (Frame.raise_other w.flags _).2.2.2.2.2.1
@[simp] theorem Frame.write_fmask (fr : Frame) (w : Writes) : (fr.write w).fmask = fr.fmask := (Frame.raise_other w.flags _).2.2.2.2.2.2.1
@[simp] theorem Frame.write_prio (fr : Frame) (w : Writes) : (fr.write w).prio = fr.prio := (Frame.raise_other w.flags _).2.2.2.2.2.2.2.1
@[simp] theorem Frame.write_wake (fr : Frame) (w : Writes) : (fr.write w).wake = fr.wake := (Frame.raise_other w.flags _).2.2.2.2.2.2.2.2.1
@[simp] theorem Frame.write_taken (fr : Frame) (w : Writes) : (fr.write w).taken = fr.taken :=
  (Frame.raise_other w.flags _).2.2.2.2.2.2.2.2.2.1
@[simp] theorem Frame.write_splits (fr : Frame) (w : Writes) : (fr.write w).splits = fr.splits :=
  (Frame.raise_other w.flags _).2.2.2.2.2.2.2.2.2.2.1

/-- Without flags, a write leaves the flags. -/
theorem Frame.write_fpst_nil (fr : Frame) (w : Writes) (h : w.flags = []) : (fr.write w).fpst = fr.fpst := by
  simp [Frame.write, h, Frame.setPreds]

end Sys2Proof.Machine
end

