-- ==== Sys2Proof/Laws/Issue.lean ====
section
/-!
SUPPORT. Laws of issue: what stands where an instruction issues, and what its outcomes come to.
-/
namespace Sys2Proof.Machine

open Sys2Proof

/-- An attempt that may wait, and goes. -/
theorem Issue.go_of_wait {α : Type} {c : Prop} [Decidable c] {s : State} {b : Issue α} {x : α}
    (h : (if c then Issue.wait s else b) = .go x) : ¬c ∧ b = .go x := by
  by_cases hc : c
  · rw [if_pos hc] at h; cases h
  · rw [if_neg hc] at h; exact ⟨hc, h⟩

/-- An attempt that may fault, and goes. -/
theorem Issue.go_of_fault {α : Type} {c : Prop} [Decidable c] {e : Code} {b : Issue α} {x : α}
    (h : (if c then Issue.fault e else b) = .go x) : ¬c ∧ b = .go x := by
  by_cases hc : c
  · rw [if_pos hc] at h; cases h
  · rw [if_neg hc] at h; exact ⟨hc, h⟩

/-- A frame's attempt that gathers, or goes. -/
theorem Issue.go_of_gather {c d : Prop} [Decidable c] [Decidable d] {s : State} {core f : Nat} {w : Wg} {fr : Frame} {sp : Split}
    {b : Issue FCtx} {x : FCtx} (h : (if c then (if d then Issue.fault .regang else s.arriveGather core f w fr sp) else b) = .go x) :
    b = .go x := by
  by_cases hc : c
  · rw [if_pos hc] at h
    by_cases hd : d
    · rw [if_pos hd] at h; cases h
    · rw [if_neg hd] at h
      unfold State.arriveGather at h
      have := (Issue.go_of_fault h).2
      cases this
  · rw [if_neg hc] at h; exact h

/-- Where a frame instruction issues: its party, its workgroup, its split, its guard, and the checks it has passed. -/
theorem State.issueF_go {s : State} {i : Instr} {x : FCtx} (h : s.issueF i = .go x) :
    ∃ p fr, i.shape = some p ∧ s.cur = some (.frame x.core x.f x.sp.id) ∧ s.onCore x.core = some x.w ∧ x.w.frame? x.f = some fr ∧
      fr.split? x.sp.id = some x.sp ∧ x.fr = fr.switchTo x.sp.id ∧ x.act = guardMask x.fr x.sp p.ctl ∧ x.c = p.ctl ∧ x.s = s ∧
      x.w.goes = true ∧ x.sp.dbg = false ∧ fr.isParked x.sp.id = false ∧ frameLegal s x.w x.sp i p = true := by
  unfold State.issueF at h
  split at h
  case h_2 => cases h
  case h_1 core f id p hc hp =>
  split at h
  case h_1 => cases h
  case h_2 w hw =>
  split at h
  case h_1 => cases h
  case h_2 fr hfr =>
  split at h
  case h_1 => cases h
  case h_2 sp hsp =>
  have hid : sp.id = id := by
    have := List.find?_some hsp
    simpa using this
  subst hid
  obtain ⟨hgo, h⟩ := Issue.go_of_wait h
  have hgo : w.goes = true ∧ sp.dbg = false ∧ fr.isParked sp.id = false := by
    revert hgo; cases w.goes <;> cases sp.dbg <;> cases fr.isParked sp.id <;> simp
  split at h
  all_goals first | (cases h; done) | skip
  split at h
  case h_1 => cases h
  split at h
  case h_1 => cases h
  obtain ⟨-, h⟩ := Issue.go_of_wait h
  obtain ⟨-, h⟩ := Issue.go_of_wait h
  obtain ⟨-, h⟩ := Issue.go_of_wait h
  obtain ⟨hl, h⟩ := Issue.go_of_fault h
  obtain ⟨-, h⟩ := Issue.go_of_wait h
  obtain ⟨-, h⟩ := Issue.go_of_fault h
  obtain ⟨-, h⟩ := Issue.go_of_wait h
  obtain ⟨-, h⟩ := Issue.go_of_wait h
  have h := Issue.go_of_gather h
  cases h
  have hl : frameLegal s w sp i p = true := by revert hl; cases frameLegal s w sp i p <;> simp
  exact ⟨p, fr, hp, hc, hw, hfr, hsp, rfl, rfl, rfl, rfl, hgo.1, hgo.2.1, hgo.2.2, hl⟩

/-- Where a U instruction executes: its core, its workgroup, its guard, and the room in the decision queue. -/
theorem State.issueR_go {s : State} {i : Instr} {x : RCtx} (h : s.issueR i = .go x) :
    ∃ p, i.shape = some p ∧ s.cur = some (.reck x.core) ∧ s.onCore x.core = some x.w ∧ x.on = guardQ x.w p.ctl ∧ x.c = p.ctl ∧ x.s = s ∧
      x.w.goes = true ∧ x.w.rdbg = false ∧ x.w.freeEntries.dq.length < 64 ∧ reckLegal s x.w i p = true := by
  unfold State.issueR at h
  split at h
  case h_2 => cases h
  case h_1 core p hc hp =>
  split at h
  case h_1 => cases h
  case h_2 w hw =>
  obtain ⟨hgo, h⟩ := Issue.go_of_wait h
  have hgo : w.goes = true ∧ w.rdbg = false := by revert hgo; cases w.goes <;> cases w.rdbg <;> simp
  split at h
  all_goals first | (cases h; done) | skip
  split at h
  case h_1 => cases h
  obtain ⟨-, h⟩ := Issue.go_of_wait h
  obtain ⟨-, h⟩ := Issue.go_of_wait h
  obtain ⟨-, h⟩ := Issue.go_of_wait h
  obtain ⟨-, h⟩ := Issue.go_of_wait h
  obtain ⟨-, h⟩ := Issue.go_of_wait h
  obtain ⟨hl, h⟩ := Issue.go_of_fault h
  obtain ⟨hq, h⟩ := Issue.go_of_wait h
  obtain ⟨-, h⟩ := Issue.go_of_wait h
  cases h
  have hl : reckLegal s w i p = true := by revert hl; cases reckLegal s w i p <;> simp
  have hq : w.freeEntries.dq.length < 64 := by
    have : ¬ 64 ≤ w.freeEntries.dq.length := by simpa using hq
    omega
  exact ⟨p, hp, hc, hw, rfl, rfl, rfl, hgo.1, hgo.2, hq, hl⟩

/-- An attempt that may wait or fault is somebody's, if what follows is. -/
theorem Issue.ite_somebody {α : Type} {c : Prop} [Decidable c] {a b : Issue α} (ha : a ≠ .nobody) (hb : b ≠ .nobody) :
    (if c then a else b) ≠ .nobody := by
  by_cases hc : c
  · rwa [if_pos hc]
  · rwa [if_neg hc]

theorem State.issueF_somebody {s : State} {i : Instr} {p : Shape} {core f id : Nat} (hc : s.cur = some (.frame core f id))
    (hp : i.shape = some p) : s.issueF i ≠ .nobody := by
  unfold State.issueF
  rw [hc, hp]
  dsimp only
  split
  · nofun
  split
  · nofun
  split
  · nofun
  refine Issue.ite_somebody (by nofun) ?_
  split
  all_goals first | (intro hh; cases hh; done) | skip
  split
  · nofun
  split
  · nofun
  iterate 8 refine Issue.ite_somebody (by nofun) ?_
  refine Issue.ite_somebody ?_ (by nofun)
  refine Issue.ite_somebody (by nofun) ?_
  unfold State.arriveGather
  exact Issue.ite_somebody (by nofun) (by nofun)

theorem State.issueR_somebody {s : State} {i : Instr} {p : Shape} {core : Nat} (hc : s.cur = some (.reck core))
    (hp : i.shape = some p) : s.issueR i ≠ .nobody := by
  unfold State.issueR
  rw [hc, hp]
  dsimp only
  split
  · nofun
  refine Issue.ite_somebody (by nofun) ?_
  split
  all_goals first | (intro hh; cases hh; done) | skip
  split
  · nofun
  iterate 8 refine Issue.ite_somebody (by nofun) ?_
  nofun

/-! ### Outcomes -/

/-- A frame instruction that issues: its meaning's state, or the fault it raises (R47, R89). -/
theorem State.runF_go {s : State} {i : Instr} {x : FCtx} (h : s.issueF i = .go x) (k : FCtx → Except Code State) :
    s.runF i k = .next (match k x with | .ok t => t | .error c => s.faultHere c 0) := by
  unfold State.runF
  rw [h]
  cases hk : k x <;> simp [hk]

/-- A U instruction whose guard holds. -/
theorem State.runR_on {s : State} {i : Instr} {x : RCtx} (h : s.issueR i = .go x) (ho : x.on = true) (off : EntryKind)
    (k : RCtx → Except Code State) :
    s.runR i off k = .next (match k x with | .ok t => t | .error c => s.faultHere c 0) := by
  unfold State.runR
  rw [h]
  simp only [ho, if_true]
  cases hk : k x <;> simp

/-- A U instruction whose guard does not hold places its entry and does nothing else (R30). -/
theorem State.runR_off {s : State} {i : Instr} {x : RCtx} (h : s.issueR i = .go x) (ho : x.on = false) (off : EntryKind)
    (k : RCtx → Except Code State) : s.runR i off k = .next (x.fall x.s x.w { UOut.nop with kind := off }) := by
  unfold State.runR
  rw [h]
  simp [ho]

/-- A frame instruction always answers a next state when a frame's split is the party. -/
theorem State.runF_next {s : State} {i : Instr} {p : Shape} {core f id : Nat} (hc : s.cur = some (.frame core f id)) (hp : i.shape = some p)
    (k : FCtx → Except Code State) : ∃ t, s.runF i k = .next t := by
  unfold State.runF
  cases hi : s.issueF i with
  | nobody => exact absurd hi (State.issueF_somebody hc hp)
  | wait t => exact ⟨t, rfl⟩
  | fault c => exact ⟨_, rfl⟩
  | go x => cases hk : k x with
    | ok t => exact ⟨t, by simp [hk]⟩
    | error c => exact ⟨s.faultHere c 0, by simp [hk]⟩

/-- A U instruction always answers a next state when the reckoner is the party. -/
theorem State.runR_next {s : State} {i : Instr} {p : Shape} {core : Nat} (hc : s.cur = some (.reck core)) (hp : i.shape = some p)
    (off : EntryKind) (k : RCtx → Except Code State) : ∃ t, s.runR i off k = .next t := by
  unfold State.runR
  cases hi : s.issueR i with
  | nobody => exact absurd hi (State.issueR_somebody hc hp)
  | wait t => exact ⟨t, rfl⟩
  | fault c => exact ⟨_, rfl⟩
  | go x =>
    by_cases ho : x.on = true
    · cases hk : k x with
      | ok t => exact ⟨t, by simp [ho, hk]⟩
      | error c => exact ⟨s.faultHere c 0, by simp [ho, hk]⟩
    · exact ⟨_, by simp [ho]; rfl⟩

end Sys2Proof.Machine
end

