-- ==== Sys2Proof/Laws/Results.lean ====
section
/-!
SUPPORT. Laws of results: what a frame instruction that ends with `finish` leaves.
-/
namespace Sys2Proof

variable {α : Type} [DecidableEq α]

/-- A list of writes that names a key, each time with the same value. -/
theorem Tab.get_setAll_eq (d : α) (kvs : List (Nat × α)) (t : Tab α) (k : Nat) (w : α) (h : ∃ p ∈ kvs, p.1 = k)
    (hw : ∀ p ∈ kvs, p.1 = k → p.2 = w) : Tab.get d (Machine.Tab.setAll d t kvs) k = w := by
  induction kvs generalizing t with
  | nil => obtain ⟨p, hp, -⟩ := h; simp at hp
  | cons q kvs ih =>
    by_cases hq : ∃ p ∈ kvs, p.1 = k
    · exact ih (Tab.set d t q.1 q.2) hq (fun p hp => hw p (List.mem_cons_of_mem _ hp))
    · have h1 := Tab.get_setAll_other d kvs (Tab.set d t q.1 q.2) k (fun p hp e => hq ⟨p, hp, e⟩)
      have hk : q.1 = k := by
        obtain ⟨p, hp, e⟩ := h
        rcases List.mem_cons.mp hp with rfl | hp
        · exact e
        · exact absurd ⟨p, hp, e⟩ hq
      have hv := hw q (by simp) hk
      simp only [Machine.Tab.setAll, List.foldl_cons] at h1 ⊢
      rw [h1, ← hk, Tab.get_set_same, hv]

namespace Machine

open Safety

/-! ### The writes of results -/

/-- A destination register as a computing instruction gives it. -/
def FCtx.resReg (x : FCtx) (r : Result) (j : Nat) : DReg :=
  ⟨if r.keepV then [] else (lanesOf x.act).map (fun l => (l, r.v j l)), if r.keepV then [] else (rodsOf x.act).map (fun k => (k, r.tag j k)),
   match r.side with | some f => (lanesOf x.act).map (fun l => (l, f j l)) | none => [], r.tag j⟩

theorem mem_regs_zip {x : FCtx} {r : Result} {d : Nat} {q : DReg × Nat} :
    q ∈ ((List.range r.n).map (x.resReg r)).zipIdx d ↔ ∃ j, j < r.n ∧ q = (x.resReg r j, d + j) := by
  obtain ⟨a, b⟩ := q
  rw [List.mem_zipIdx_iff_le_and_getElem?_sub]
  constructor
  · rintro ⟨h1, h2⟩
    simp only [List.getElem?_map] at h2
    have : (b - d) < r.n := by
      by_cases h : b - d < r.n
      · exact h
      · rw [List.getElem?_eq_none (by simp; omega)] at h2
        simp at h2
    refine ⟨b - d, this, ?_⟩
    rw [List.getElem?_eq_getElem (by simpa using this)] at h2
    simp only [Option.map_some, List.getElem_range, Option.some.injEq] at h2
    rw [← h2]
    congr 1
    omega
  · rintro ⟨j, hj, e⟩
    cases e
    refine ⟨by omega, ?_⟩
    simp [hj]

theorem vKey_inj {l r l' r' : Nat} (h : r < 128) (h' : r' < 128) (e : vKey l r = vKey l' r') : l = l' ∧ r = r' := by
  unfold vKey at e; omega
theorem tKey_inj {l r l' r' : Nat} (h : r < 128) (h' : r' < 128) (e : tKey l r = tKey l' r') : l = l' ∧ r = r' := by
  unfold tKey at e; omega
theorem pKey_inj {l r l' r' : Nat} (h : r < 8) (h' : r' < 8) (e : pKey l r = pKey l' r') : l = l' ∧ r = r' := by
  unfold pKey at e; omega
theorem eKey_inj {l r l' r' : Nat} (h : r < 32) (h' : r' < 32) (e : eKey l r = eKey l' r') : l = l' ∧ r = r' := by
  unfold eKey at e; omega

/-- What the flags of a list of lanes make of a lane's flags. -/
theorem Frame.foldl_flags (fs : List (Nat × BitVec 5)) (fr : Frame) (l : Nat) :
    (fs.foldl (fun fr p => fr.raiseFlags p.1 p.2) fr).flagsOf l =
      (fs.filter (fun p => decide (p.1 = l))).foldl (fun a p => a ||| p.2) (fr.flagsOf l) := by
  induction fs generalizing fr with
  | nil => rfl
  | cons p fs ih =>
    rw [List.foldl_cons, ih]
    by_cases h : p.1 = l
    · subst h
      simp [Frame.raiseFlags, Frame.flagsOf]
    · simp [h, Frame.raiseFlags, Frame.flagsOf, Tab.get_set_other _ _ _ _ _ (Ne.symm h)]

/-- The writes of one kind of register: keys by lane or rod and number. -/
theorem get_writes {α : Type} [DecidableEq α] (d0 : α) (t : Tab α) (key : Nat → Nat → Nat)
    (hk : ∀ {l r l' r'}, r < 128 → r' < 128 → key l r = key l' r' → l = l' ∧ r = r') (ls : List Nat) (n d : Nat) (hd : d + n ≤ 128)
    (f : Nat → Nat → α) (kvs : List (Nat × α)) (hkv : ∀ p, p ∈ kvs ↔ ∃ j, j < n ∧ ∃ l ∈ ls, p = (key l (d + j), f j l)) (l r : Nat)
    (hr : r < 128) :
    Tab.get d0 (Tab.setAll d0 t kvs) (key l r) = if l ∈ ls ∧ d ≤ r ∧ r < d + n then f (r - d) l else Tab.get d0 t (key l r) := by
  by_cases h : l ∈ ls ∧ d ≤ r ∧ r < d + n
  · rw [if_pos h]
    obtain ⟨h1, h2, h3⟩ := h
    refine Tab.get_setAll_eq d0 kvs t _ _ ⟨(key l r, f (r - d) l), (hkv _).mpr ⟨r - d, by omega, l, h1, ?_⟩, rfl⟩ ?_
    · rw [show d + (r - d) = r by omega]
    · intro p hp e
      obtain ⟨j, hj, l', hl', rfl⟩ := (hkv _).mp hp
      obtain ⟨rfl, e2⟩ := hk (by omega) hr e
      rw [← e2]
      simp
  · rw [if_neg h]
    refine Tab.get_setAll_other d0 kvs t _ ?_
    intro p hp e
    obtain ⟨j, hj, l', hl', rfl⟩ := (hkv _).mp hp
    obtain ⟨rfl, e2⟩ := hk (by omega) hr e
    exact h ⟨hl', by omega, by omega⟩

/-- The residues that a result lists. -/
def ResidGives (act : Word32) (r : Result) (kvs : List (Nat × Word32)) : Prop :=
  ∀ (t : Tab Word32) (l e : Nat), l < 32 → e < 32 → Tab.get 0#32 (Tab.setAll 0#32 t kvs) (eKey l e) =
    if act.getLsbD l = true then (r.resid l e).getD (Tab.get 0#32 t (eKey l e)) else Tab.get 0#32 t (eKey l e)

theorem ResidGives.nil {act : Word32} {r : Result} (h : r.resid = fun _ _ => Option.none) : ResidGives act r [] := by
  intro t l e _ _
  simp [h, Tab.setAll]

/-- What a result's writes make of a frame. -/
theorem Frame.write_has (x : FCtx) (r : Result) (a : Frame) (d pd : Nat) (wbs : Bool) (hd : d + r.n ≤ 128) (hpd : pd < 8)
    (o : Out) (hr : o.regs = (List.range r.n).map (x.resReg r))
    (hp : o.preds = match r.pred with | some f => x.predOut f | none => []) (he : ResidGives x.act r o.resid)
    (hf : o.flags = x.flagOut r.flags ∨ (o.flags = [] ∧ r.flags = fun _ => flagNone)) :
    Has r x.act wbs d pd a (a.write (o.writes d pd wbs)) := by
  have hv : ∀ p, p ∈ (o.writes d pd wbs).v ↔ ∃ j, j < (if wbs || r.keepV then 0 else r.n) ∧ ∃ l ∈ lanesOf x.act, p = (vKey l (d + j), r.v j l) := by
    intro p
    cases wbs
    · simp only [Out.writes, hr, Bool.false_eq_true, if_false, List.mem_flatMap, mem_regs_zip, Bool.false_or]
      cases hkv : r.keepV
      · constructor
        · rintro ⟨q, ⟨j, hj, rfl⟩, hq⟩
          simp only [FCtx.resReg, hkv, Bool.false_eq_true, if_false, List.map_map, List.mem_map] at hq
          obtain ⟨l, hl, rfl⟩ := hq
          exact ⟨j, by simpa using hj, l, hl, rfl⟩
        · rintro ⟨j, hj, l, hl, rfl⟩
          refine ⟨_, ⟨j, by simpa using hj, rfl⟩, ?_⟩
          simp only [FCtx.resReg, hkv, Bool.false_eq_true, if_false, List.map_map, List.mem_map]
          exact ⟨l, hl, rfl⟩
      · constructor
        · rintro ⟨q, ⟨j, hj, rfl⟩, hq⟩
          simp [FCtx.resReg, hkv] at hq
        · rintro ⟨j, hj, -⟩
          simp at hj
    · simp [Out.writes]
  have ht : ∀ p, p ∈ (o.writes d pd wbs).tags ↔ ∃ j, j < (if wbs || r.keepV then 0 else r.n) ∧ ∃ l ∈ rodsOf x.act, p = (tKey l (d + j), r.tag j l) := by
    intro p
    cases wbs
    · simp only [Out.writes, hr, Bool.false_eq_true, if_false, List.mem_flatMap, mem_regs_zip, Bool.false_or]
      cases hkv : r.keepV
      · constructor
        · rintro ⟨q, ⟨j, hj, rfl⟩, hq⟩
          simp only [FCtx.resReg, hkv, Bool.false_eq_true, if_false, List.map_map, List.mem_map] at hq
          obtain ⟨l, hl, rfl⟩ := hq
          exact ⟨j, by simpa using hj, l, hl, rfl⟩
        · rintro ⟨j, hj, l, hl, rfl⟩
          refine ⟨_, ⟨j, by simpa using hj, rfl⟩, ?_⟩
          simp only [FCtx.resReg, hkv, Bool.false_eq_true, if_false, List.map_map, List.mem_map]
          exact ⟨l, hl, rfl⟩
      · constructor
        · rintro ⟨q, ⟨j, hj, rfl⟩, hq⟩
          simp [FCtx.resReg, hkv] at hq
        · rintro ⟨j, hj, -⟩
          simp at hj
    · simp [Out.writes]
  have hs : ∀ f, r.side = some f → ∀ p, p ∈ (o.writes d pd wbs).side ↔
      ∃ j, j < (if wbs then 0 else r.n) ∧ ∃ l ∈ lanesOf x.act, p = (vKey l (d + j), f j l) := by
    intro f hside p
    cases wbs
    · simp only [Out.writes, hr, Bool.false_eq_true, if_false, List.mem_flatMap, mem_regs_zip]
      constructor
      · rintro ⟨q, ⟨j, hj, rfl⟩, hq⟩
        simp only [FCtx.resReg, hside, List.map_map, List.mem_map] at hq
        obtain ⟨l, hl, rfl⟩ := hq
        exact ⟨j, hj, l, hl, rfl⟩
      · rintro ⟨j, hj, l, hl, rfl⟩
        refine ⟨_, ⟨j, hj, rfl⟩, ?_⟩
        simp only [FCtx.resReg, hside, List.map_map, List.mem_map]
        exact ⟨l, hl, rfl⟩
    · simp [Out.writes]
  have hs0 : r.side = none → (o.writes d pd wbs).side = [] := by
    intro hside
    cases wbs
    · simp only [Out.writes, hr, Bool.false_eq_true, if_false, List.flatMap_eq_nil_iff]
      intro q hq
      obtain ⟨j, hj, rfl⟩ := mem_regs_zip.mp hq
      simp [FCtx.resReg, hside]
    · simp [Out.writes]
  refine ⟨?_, ?_, ?_, ?_, ?_, ?_, ?_, ?_, ?_, ?_, ?_⟩
  · intro l n hl hn
    simp only [Frame.vreg, Frame.write_v]
    rw [get_writes 0#32 a.v vKey vKey_inj (lanesOf x.act) _ d (by split <;> omega) r.v _ hv l n hn]
    cases wbs <;> cases r.keepV <;> simp <;> (intro _ h1 h2; omega)
  · intro l n hl hn
    simp only [Frame.tagOf, Frame.write_tags]
    rw [get_writes Tag.int a.tags tKey tKey_inj (rodsOf x.act) _ d (by split <;> omega) r.tag _ ht l n hn]
    cases wbs <;> cases r.keepV <;> simp <;> (intro _ h1 h2; omega)
  · intro l n hl hn
    simp only [Frame.sideOf, Frame.write_side]
    cases hside : r.side with
    | none => simp [hs0 hside, Tab.setAll]
    | some f =>
      rw [get_writes 0#8 a.side vKey vKey_inj (lanesOf x.act) _ d (by split <;> omega) f _ (hs f hside) l n hn]
      cases wbs <;> simp <;> (intro _ h1 h2; omega)
  · intro l p hl hp8
    simp only [Frame.pred, Frame.write_preds]
    cases hpred : r.pred with
    | none => simp [Out.writes, hp, hpred, Tab.setAll]
    | some f =>
      simp only
      by_cases h7 : p = 7
      · simp [h7]
      · simp only [h7, if_false, ne_eq, not_false_eq_true, and_true]
        by_cases hq : x.act.getLsbD l = true ∧ p = pd
        · obtain ⟨h1, rfl⟩ := hq
          rw [if_pos ⟨h1, rfl⟩]
          refine Tab.get_setAll_eq _ _ _ _ _ ⟨(pKey l p, f l), ?_, rfl⟩ ?_
          · simp only [Out.writes, hp, hpred, FCtx.predOut, List.mem_filter, h7, if_false, List.map_map, List.mem_map]
            refine ⟨⟨l, by simpa using h1, rfl⟩, ?_⟩
            have : pKey l p % 8 = p := by unfold pKey; omega
            simp [this, h7]
          · intro q hq e
            simp only [Out.writes, hp, hpred, FCtx.predOut, List.mem_filter, h7, if_false, List.map_map, List.mem_map] at hq
            obtain ⟨⟨l', _, rfl⟩, -⟩ := hq
            obtain ⟨rfl, -⟩ := pKey_inj hp8 hp8 e
            rfl
        · rw [if_neg hq]
          refine Tab.get_setAll_other _ _ _ _ ?_
          intro q hm e
          simp only [Out.writes, hp, hpred, FCtx.predOut, List.mem_filter] at hm
          by_cases h77 : pd = 7
          · simp [h77] at hm
          · simp only [h77, if_false, List.map_map, List.mem_map] at hm
            obtain ⟨⟨l', hl', rfl⟩, -⟩ := hm
            obtain ⟨rfl, rfl⟩ := pKey_inj (by omega) hp8 e
            exact hq ⟨by simpa using hl', rfl⟩
  · intro l e hl he32
    simp only [Frame.residOf, Frame.write_resid]
    exact he a.resid l e hl he32
  · intro l hl
    unfold Frame.write
    dsimp only
    rw [Frame.foldl_flags]
    have h0 : (o.writes d pd wbs).flags = o.flags := rfl
    rw [h0]
    rcases hf with hf | ⟨hf, hn⟩
    · have hfl : (o.flags.filter (fun p => decide (p.1 = l))) = if x.act.getLsbD l = true then [(l, r.flags l)] else [] := by
        have hn := lanesOf_nodup x.act
        have : ∀ ls : List Nat, ls.Nodup → ((ls.map (fun k => (k, r.flags k))).filter (fun p => decide (p.1 = l))) =
            if l ∈ ls then [(l, r.flags l)] else [] := by
          intro ls hls
          induction ls with
          | nil => rfl
          | cons k ls ih =>
            obtain ⟨hk, hls⟩ := List.nodup_cons.mp hls
            have ih := ih hls
            by_cases e : k = l
            · subst e
              simp only [List.map_cons, List.filter_cons, decide_true, if_true, List.mem_cons, true_or]
              rw [ih, if_neg hk]
            · simp only [List.map_cons, List.filter_cons, e, decide_false, List.mem_cons, Ne.symm e, false_or, Bool.false_eq_true, if_false]
              rw [ih]
        rw [hf, FCtx.flagOut, this _ hn]
        simp
      rw [hfl]
      split <;> rfl
    · rw [hf, hn]
      simp only [List.filter_nil, List.foldl_nil]
      have : (a.flagsOf l ||| flagNone) = a.flagsOf l := by simp [flagNone]
      split
      · exact this.symm
      · rfl
  · simp
  · simp
  · simp
  · simp
  · simp

/-! ### Going on -/

theorem sortNat_const (ls : List Nat) (n : Nat) : sortNat (ls.map (fun _ => n)) = if ls = [] then [] else [n] := by
  induction ls with
  | nil => rfl
  | cons l ls ih =>
    have h : sortNat ((l :: ls).map (fun _ => n)) = insertSorted n (sortNat (ls.map (fun _ => n))) := rfl
    rw [h, ih]
    cases ls <;> simp [insertSorted]

theorem lanesOf_ne_nil {m : Word32} (h : m ≠ 0#32) : lanesOf m ≠ [] := by
  intro e
  apply h
  apply BitVec.eq_of_getLsbD_eq
  intro i hi
  have : i ∉ lanesOf m := by rw [e]; simp
  rw [mem_lanesOf] at this
  simpa using this

theorem Frame.split_id {fr : Frame} {id : Nat} {p : Split} (h : fr.split? id = some p) : p.id = id := by
  simpa using List.find?_some h

theorem Frame.settleRod_splits (fr : Frame) (r : Nat) : (fr.settleRod r).splits = fr.splits := by
  unfold Frame.settleRod
  split
  · rfl
  · dsimp only
    split <;> rfl

theorem Frame.settle_splits (fr : Frame) : fr.settle.splits = fr.splits := by
  unfold Frame.settle
  generalize List.range 8 = rs
  induction rs generalizing fr with
  | nil => rfl
  | cons r rs ih => rw [List.foldl_cons, ih, Frame.settleRod_splits]

theorem find_map_set (ss : List Split) (p : Split) (id : Nat) :
    (ss.map (fun q => if q.id = p.id then p else q)).find? (fun q => decide (q.id = id)) =
      if id = p.id then (ss.find? (fun q => decide (q.id = id))).map (fun _ => p) else ss.find? (fun q => decide (q.id = id)) := by
  induction ss with
  | nil => split <;> rfl
  | cons q ss ih =>
    rw [List.map_cons, List.find?_cons, List.find?_cons]
    by_cases h1 : q.id = p.id
    · by_cases h2 : id = p.id
      · simp [h1, h2]
      · have h3 : ¬ p.id = id := fun e => h2 e.symm
        have h4 : ¬ q.id = id := fun e => h2 (by rw [← e, h1])
        simp only [h1, if_true, h3, decide_false, ih, h2, if_false]
    · by_cases h2 : id = p.id
      · subst h2
        simp only [h1, if_false, decide_false, ih, if_true]
      · by_cases h3 : q.id = id
        · simp [h2, h3]
        · simp only [h1, if_false, h3, decide_false, ih, h2]

/-- A frame's splits after an instruction that falls through. -/
theorem Frame.after_went (x : FCtx) (fr : Frame) (hl : fr.live = x.fr.live) (hs : fr.splits = x.fr.splits)
    (h : ∃ p, x.fr.split? x.sp.id = some p) (l : Latch) (now : Nat) (pc : Word64) (ch : Option Chain → Prop)
    (hc : ch (nextChain x.sp x.c l)) : Went x (fr.after x.sp x.c l now (fun _ => pc)) pc ch := by
  have key : ∀ (sp : Split), sp.lanes ≠ 0#32 → sp.id = x.sp.id → (fr.advance sp (fun _ => pc)).splits =
      fr.splits.map (fun q => if q.id = sp.id then { sp with pc := pc } else q) := by
    intro sp hne hid
    unfold Frame.advance
    have h1 := lanesOf_ne_nil hne
    dsimp only
    rw [sortNat_const, if_neg h1]
    simp [Frame.setSplit]
  constructor
  · intro hne
    unfold Frame.after
    dsimp only
    generalize hsp : x.sp.retired x.c l fr.live = sp'
    have hid : sp'.id = x.sp.id := by rw [← hsp]; rfl
    have hlanes : sp'.lanes = x.sp.lanes &&& x.fr.live := by rw [← hsp, hl]; rfl
    have hk := key sp' (by rw [hlanes]; exact hne) hid
    refine ⟨{ sp' with pc := pc }, ?_, rfl, hlanes, by rw [← hsp]; rfl, by rw [← hsp]; exact hc⟩
    obtain ⟨p, hp⟩ := h
    unfold Frame.split? at hp ⊢
    dsimp only
    rw [hk, hs]
    have := find_map_set x.fr.splits { sp' with pc := pc } x.sp.id
    simp only [hid, if_true] at this ⊢
    rw [this, hp]
    rfl
  · intro q hq
    unfold Frame.after
    dsimp only
    generalize hsp : x.sp.retired x.c l fr.live = sp'
    have hid : sp'.id = x.sp.id := by rw [← hsp]; rfl
    unfold Frame.split?
    dsimp only
    by_cases hne : sp'.lanes = 0#32
    · unfold Frame.advance
      rw [hne]
      simp only [lanesOf_zero, List.map_nil]
      have h0 : sortNat [] = [] := rfl
      rw [h0]
      simp only [Frame.settle_splits, hs, hid]
      rw [List.find?_filter]
      congr 1
      funext a
      by_cases ha : a.id = q
      · simp [ha, hq]
      · simp [ha]
    · rw [key sp' hne hid, hs]
      have := find_map_set x.fr.splits { sp' with pc := pc } q
      simp only [hid, hq, if_false] at this ⊢
      exact this

/-- Where the context of an instruction that issues has its split. -/
theorem FCtx.has_split {s : State} {i : Instr} {x : FCtx} (h : s.issueF i = .go x) : ∃ p, x.fr.split? x.sp.id = some p := by
  obtain ⟨p, fr, -, -, -, -, hsp, hfr, -⟩ := State.issueF_go h
  rw [hfr]
  refine ⟨x.sp, ?_⟩
  unfold Frame.split? Frame.switchTo Frame.mapSplits at *
  dsimp only
  rw [List.find?_map]
  have : ((fun q : Split => decide (q.id = x.sp.id)) ∘ fun p : Split => if p.id = x.sp.id then p else p.restart) =
      (fun q : Split => decide (q.id = x.sp.id)) := by
    funext q
    simp only [Function.comp]
    by_cases h : q.id = x.sp.id
    · simp [h]
    · simp only [h, if_false]
      have : q.restart.id = q.id := by unfold Split.restart; split <;> rfl
      rw [this]
      simp [h]
  rw [this, hsp]
  simp

/-- A frame instruction that ends with `finish` computes what its results say. -/
theorem FCtx.finish_computes {s : State} {i : Instr} {x : FCtx} (h : s.issueF i = .go x) (r : Result) (hd : dstOf i + r.n ≤ 128)
    (o : Out) (hr : o.regs = (List.range r.n).map (x.resReg r)) (hp : o.preds = match r.pred with | some f => x.predOut f | none => [])
    (he : ResidGives x.act r o.resid) (hf : o.flags = x.flagOut r.flags ∨ (o.flags = [] ∧ r.flags = fun _ => flagNone)) :
    Computes i x (x.finish i o) r := by
  obtain ⟨p, -, hp0, -⟩ := State.issueF_go h
  have hsplit := FCtx.has_split h
  have hpd : pdOf i < 8 := by
    unfold pdOf
    rw [hp0]
    simp only [Shape.pdNum]
    split
    · exact BitVec.isLt _
    · omega
  have hchain : Chained x r (nextChain x.sp x.c o.latch) := by
    unfold Chained nextChain
    cases x.c.chain
    · simp
    · simp only [if_true]
      have hlat : 0 < r.n ∧ r.keepV = false → o.latch = ⟨Tab.setAll 0#32 [] ((lanesOf x.act).map (fun l => (l, r.v 0 l))),
          Tab.setAll Tag.int [] ((List.range 8).map (fun k => (k, r.tag 0 k)))⟩ := by
        rintro ⟨h0, hk⟩
        unfold Out.latch
        rw [hr]
        obtain ⟨m, hm⟩ := Nat.exists_eq_succ_of_ne_zero (Nat.ne_of_gt h0)
        rw [hm, List.range_succ_eq_map, List.map_cons]
        simp [FCtx.resReg, hk]
      have hv : 0 < r.n ∧ r.keepV = false → ∀ k, k < 32 → Tab.get 0#32 o.latch.val k = if x.act.getLsbD k = true then r.v 0 k else 0#32 := by
        intro h0 k hk
        rw [hlat h0]
        by_cases ha : x.act.getLsbD k = true
        · rw [if_pos ha]
          refine Tab.get_setAll_eq _ _ _ _ _ ⟨(k, r.v 0 k), List.mem_map.mpr ⟨k, by simpa using ha, rfl⟩, rfl⟩ ?_
          intro q hq e
          simp only [List.mem_map] at hq
          obtain ⟨l, -, rfl⟩ := hq
          cases e
          rfl
        · rw [if_neg ha]
          refine Tab.get_setAll_other _ _ _ _ ?_
          intro q hq e
          simp only [List.mem_map, mem_lanesOf] at hq
          obtain ⟨l, hl, rfl⟩ := hq
          cases e
          exact ha hl
      have ht : 0 < r.n ∧ r.keepV = false → ∀ k, k < 8 → Tab.get Tag.int o.latch.tag k = r.tag 0 k := by
        intro h0 k hk
        rw [hlat h0]
        refine Tab.get_setAll_eq _ _ _ _ _ ⟨(k, r.tag 0 k), List.mem_map.mpr ⟨k, by simpa using hk, rfl⟩, rfl⟩ ?_
        intro q hq e
        simp only [List.mem_map] at hq
        obtain ⟨l, -, rfl⟩ := hq
        cases e
        rfl
      cases hc : x.sp.chain with
      | none => exact ⟨o.latch, [], rfl, rfl, hv, ht⟩
      | some c => exact ⟨o.latch, c.latches, rfl, rfl, hv, ht⟩
  have hdst : p.dstNum = dstOf i := by simp [dstOf, hp0]
  have hpd' : p.pdNum = pdOf i := by simp [pdOf, hp0]
  have hland : lands i x = (p.anyMapped && !x.c.chain && decide (x.act ≠ 0)) := by
    unfold lands
    rw [hp0]
  unfold Computes FCtx.finish
  rw [hp0]
  simp only [hdst, hpd', hland]
  have hhas := fun a => Frame.write_has x r a (dstOf i) (pdOf i) x.c.wbs hd hpd o hr hp he hf
  by_cases hL : (p.anyMapped && !x.c.chain && decide (x.act ≠ 0)) = true
  · simp only [if_pos hL]
    have hwent := Frame.after_went (x.endsWith x.s.ids) x.fr rfl rfl hsplit o.latch x.s.newId.2.tick (x.sp.pc + 16#64) _ hchain
    refine ⟨(x.fr.after (x.endsWith x.s.ids).sp x.c o.latch x.s.newId.2.tick (fun _ => x.sp.pc + 16#64)).write (o.writes (dstOf i) (pdOf i) x.c.wbs), ?_, ?_, ?_⟩
    · exact ⟨⟨x.s.ids, x.f, x.act, p.slotsRead, p.dstRegs, if pdOf i = 7 then none else some (pdOf i),
        o.writes (dstOf i) (pdOf i) x.c.wbs⟩, _, rfl, rfl, rfl, Frame.after_regs _ _ _ _ _ _, rfl, rfl⟩
    · have h1 := hhas (x.fr.after (x.endsWith x.s.ids).sp x.c o.latch x.s.newId.2.tick (fun _ => x.sp.pc + 16#64))
      have hreg := Frame.after_regs x.fr (x.endsWith x.s.ids).sp x.c o.latch x.s.newId.2.tick (fun _ => x.sp.pc + 16#64)
      generalize x.fr.after (x.endsWith x.s.ids).sp x.c o.latch x.s.newId.2.tick (fun _ => x.sp.pc + 16#64) = g at h1 hreg
      obtain ⟨a1, a2, a3, a4, a5, a6, a7, a8, a9, a10, a11⟩ := h1
      simp only [Frame.vreg_of_regs hreg, Frame.tagOf_of_regs hreg, Frame.sideOf_of_regs hreg, Frame.pred_of_regs hreg,
        Frame.residOf_of_regs hreg, Frame.flagsOf_of_regs hreg] at a1 a2 a3 a4 a5 a6
      refine ⟨a1, a2, a3, a4, a5, a6, a7.trans ?_, a8.trans ?_, a9.trans ?_, a10.trans ?_, a11.trans ?_⟩
      · exact congrArg Frame.Regs.live hreg
      · exact congrArg Frame.Regs.fmask hreg
      · exact congrArg Frame.Regs.prio hreg
      · exact congrArg Frame.Regs.wake hreg
      · exact congrArg Frame.Regs.taken hreg
    · unfold Went at hwent ⊢
      unfold Frame.split? at hwent ⊢
      rw [Frame.write_splits]
      exact hwent
  · simp only [if_neg hL]
    have hw := Frame.after_went x (x.fr.write (o.writes (dstOf i) (pdOf i) x.c.wbs)) (by simp) (by simp) hsplit o.latch x.s.tick
      (x.sp.pc + 16#64) _ hchain
    refine ⟨_, rfl, ?_, hw⟩
    have h1 := hhas x.fr
    have hreg := Frame.after_regs (x.fr.write (o.writes (dstOf i) (pdOf i) x.c.wbs)) x.sp x.c o.latch x.s.tick (fun _ => x.sp.pc + 16#64)
    obtain ⟨a1, a2, a3, a4, a5, a6, a7, a8, a9, a10, a11⟩ := h1
    refine ⟨?_, ?_, ?_, ?_, ?_, ?_, ?_, ?_, ?_, ?_, ?_⟩
    · intro l n hl hn; rw [← a1 l n hl hn]; exact Frame.vreg_of_regs hreg l n
    · intro l n hl hn; rw [← a2 l n hl hn]; exact Frame.tagOf_of_regs hreg l n
    · intro l n hl hn; rw [← a3 l n hl hn]; exact Frame.sideOf_of_regs hreg l n
    · intro l n hl hn; rw [← a4 l n hl hn]; exact Frame.pred_of_regs hreg l n
    · intro l n hl hn; rw [← a5 l n hl hn]; exact Frame.residOf_of_regs hreg l n
    · intro l hl; rw [← a6 l hl]; exact Frame.flagsOf_of_regs hreg l
    · exact (congrArg Frame.Regs.live hreg).trans a7
    · exact (congrArg Frame.Regs.fmask hreg).trans a8
    · exact (congrArg Frame.Regs.prio hreg).trans a9
    · exact (congrArg Frame.Regs.wake hreg).trans a10
    · exact (congrArg Frame.Regs.taken hreg).trans a11

/-! ### The reckoner -/

theorem Wg.skipWord_same (w : Wg) (x : BitVec 128) : ∃ pend rpc rst lc, w.skipWord x = { w with pend := pend, rpc := rpc, rst := rst, lastCopy := lc } ∧
    ∀ p ∈ w.pend, p ∈ pend := by
  unfold Wg.skipWord
  dsimp only
  split
  · exact ⟨w.pend, w.rpc, .stopped, w.lastCopy, rfl, fun _ h => h⟩
  · split
    · split
      · exact ⟨_, _, w.rst, _, rfl, fun p hp => by simp [hp]⟩
      · exact ⟨w.pend, _, w.rst, w.lastCopy, rfl, fun _ h => h⟩
    · exact ⟨w.pend, _, w.rst, w.lastCopy, rfl, fun _ h => h⟩

theorem Wg.skipRun_same (n : Nat) (w : Wg) : ∃ pend rpc rst lc, w.skipRun n = { w with pend := pend, rpc := rpc, rst := rst, lastCopy := lc } ∧
    ∀ p ∈ w.pend, p ∈ pend := by
  induction n generalizing w with
  | zero => exact ⟨w.pend, w.rpc, w.rst, w.lastCopy, rfl, fun _ h => h⟩
  | succ n ih =>
    unfold Wg.skipRun
    dsimp only
    split
    · exact ⟨w.pend, w.rpc, w.rst, w.lastCopy, rfl, fun _ h => h⟩
    · obtain ⟨p1, r1, t1, l1, h1, k1⟩ := Wg.skipWord_same w (w.code.word w.rpc)
      obtain ⟨p2, r2, t2, l2, h2, k2⟩ := ih (w.skipWord (w.code.word w.rpc))
      refine ⟨p2, r2, t2, l2, ?_, ?_⟩
      · rw [h2, h1]
      · intro p hp
        refine k2 p ?_
        rw [h1]
        exact k1 p hp

theorem Wg.skipRun_here (w : Wg) (n : Nat) (h : (w.code.word w.rpc).getLsbD 119 = true) : w.skipRun n = w := by
  cases n with
  | zero => rfl
  | succ n => simp only [Wg.skipRun, h, Bool.true_or, if_true]

theorem Wg.foldl_setS (rs : List (Nat × Word64)) (w : Wg) :
    (∃ t, rs.foldl (fun w p => w.setS p.1 p.2) w = { w with s := t }) ∧
    ∀ n, (rs.foldl (fun w p => w.setS p.1 p.2) w).sreg n =
      match rs.reverse.find? (fun p => decide (p.1 = n)) with | some p => p.2 | none => w.sreg n := by
  induction rs generalizing w with
  | nil => exact ⟨⟨w.s, rfl⟩, fun _ => rfl⟩
  | cons p rs ih =>
    obtain ⟨⟨t, ht⟩, h⟩ := ih (w.setS p.1 p.2)
    refine ⟨⟨t, by rw [List.foldl_cons, ht]; rfl⟩, ?_⟩
    intro n
    rw [List.foldl_cons, h n, List.reverse_cons, List.find?_append]
    cases rs.reverse.find? (fun p => decide (p.1 = n)) with
    | some q => rfl
    | none =>
      by_cases e : p.1 = n
      · subst e; simp
      · simp [e, Wg.sreg_setS_other w p.1 n p.2 (Ne.symm e)]

theorem Wg.qpred_setQ (w : Wg) (p n : Nat) (b : Bool) : (w.setQ p b).qpred n = if p = n ∧ n ≠ 7 then b else w.qpred n := by
  unfold Wg.setQ Wg.qpred
  by_cases h7 : p = 7
  · subst h7
    by_cases hn : n = 7 <;> simp [hn]
    intro e; exact absurd e.symm hn
  · simp only [h7, if_false]
    by_cases e : p = n
    · subst e; simp [h7]
    · by_cases hn : n = 7
      · simp [hn]
      · simp [hn, e, Tab.get_set_other _ _ _ _ _ (Ne.symm e)]

theorem Wg.foldl_setQ (rs : List (Nat × Bool)) (w : Wg) :
    (∃ t, rs.foldl (fun w p => w.setQ p.1 p.2) w = { w with q := t }) ∧
    ∀ n, (rs.foldl (fun w p => w.setQ p.1 p.2) w).qpred n =
      match rs.reverse.find? (fun p => decide (p.1 = n ∧ n ≠ 7)) with | some p => p.2 | none => w.qpred n := by
  induction rs generalizing w with
  | nil => exact ⟨⟨w.q, rfl⟩, fun _ => rfl⟩
  | cons p rs ih =>
    obtain ⟨⟨t, ht⟩, h⟩ := ih (w.setQ p.1 p.2)
    have hq : ∃ t, w.setQ p.1 p.2 = { w with q := t } := by
      unfold Wg.setQ
      split
      · exact ⟨w.q, rfl⟩
      · exact ⟨_, rfl⟩
    obtain ⟨t1, ht1⟩ := hq
    refine ⟨⟨t, by rw [List.foldl_cons, ht, ht1]⟩, ?_⟩
    intro n
    rw [List.foldl_cons, h n, List.reverse_cons, List.find?_append]
    cases rs.reverse.find? (fun p => decide (p.1 = n ∧ n ≠ 7)) with
    | some q => rfl
    | none =>
      rw [Wg.qpred_setQ]
      by_cases e : p.1 = n ∧ n ≠ 7
      · simp [e]
      · simp [e]

theorem foldl_min_le (l : List Nat) (b : Nat) : l.foldl min b ≤ b ∧ ∀ a ∈ l, l.foldl min b ≤ a := by
  induction l generalizing b with
  | nil => simp
  | cons a l ih =>
    obtain ⟨h1, h2⟩ := ih (min b a)
    rw [List.foldl_cons]
    refine ⟨by omega, ?_⟩
    intro c hc
    rcases List.mem_cons.mp hc with rfl | hc
    · omega
    · exact h2 c hc

/-- Freeing entries leaves those that some live frame has not taken. -/
theorem Wg.entryAt_free (w : Wg) (n : Nat) (h : ∃ fr ∈ w.liveFrames, fr.taken ≤ n) (hb : w.dqBase ≤ n) :
    w.freeEntries.entryAt n = w.entryAt n := by
  unfold Wg.freeEntries
  dsimp only
  generalize hl : (w.liveFrames.map (·.taken)).foldl min w.place = low
  have hlow : low ≤ n := by
    obtain ⟨fr, hf, ht⟩ := h
    have := (foldl_min_le (w.liveFrames.map (·.taken)) w.place).2 fr.taken (List.mem_map_of_mem hf)
    omega
  unfold Wg.entryAt
  dsimp only
  rw [if_neg (by omega), if_neg (by omega), List.getElem?_drop]
  congr 1
  omega

/-- What a U instruction that is done leaves. -/
theorem Wg.doneU_has (w : Wg) (o : UOut) (npc : Word64) (n : Nat) : HasU o npc w (((w.doneU o npc).freeEntries).skipRun n) := by
  obtain ⟨⟨ts, hs⟩, hreg⟩ := Wg.foldl_setS o.regs w
  obtain ⟨⟨tq, hq⟩, hpred⟩ := Wg.foldl_setQ o.preds { w with s := ts }
  have hd : ∃ lc, (∀ m id, o.copies = [(m, id)] → Assoc.at lc m = some id) ∧
      w.doneU o npc =
        { w with s := ts, q := tq, pend := w.pend ++ o.late.map (fun p => Pend.mk p.1 w.place p.2), lastCopy := lc,
                 dq := w.dq ++ [w.entry o], rpc := npc, rst := .run, rskip := false, rdbg := w.rstep, rstep := false } := by
    unfold Wg.doneU
    dsimp only
    rw [hs, hq]
    refine ⟨_, fun m id h => ?_, rfl⟩
    rw [h]
    exact Tab.get_set_same none _ m (some id)
  obtain ⟨lc, hc, hd⟩ := hd
  have hf : ∃ dq base, (w.doneU o npc).freeEntries = { w.doneU o npc with dq := dq, dqBase := base } := ⟨_, _, rfl⟩
  obtain ⟨dq, base, hf⟩ := hf
  obtain ⟨pend, rpc, rst, lc', hk, hkp⟩ := Wg.skipRun_same n (w.doneU o npc).freeEntries
  rw [hs] at hreg
  rw [hq] at hpred
  constructor
  · rw [hk, hf, hd]
  · intro m
    rw [hk, hf, hd]
    exact hreg m
  · intro p _
    rw [hk, hf, hd]
    exact hpred p
  · rintro ⟨fr, hfr, ht⟩
    have h1 : (((w.doneU o npc).freeEntries).skipRun n).entryAt w.place = ((w.doneU o npc).freeEntries).entryAt w.place := by rw [hk]; rfl
    rw [h1, Wg.entryAt_free]
    · rw [hd]
      unfold Wg.entryAt Wg.place
      dsimp only
      rw [if_neg (by omega)]
      simp
    · refine ⟨fr, ?_, ht⟩
      rw [hd]
      exact hfr
    · rw [hd]
      unfold Wg.place
      dsimp only
      omega
  · intro m id h hw
    have : (((w.doneU o npc).freeEntries).skipRun n) = (w.doneU o npc).freeEntries := by
      apply Wg.skipRun_here
      rw [hf, hd]
      exact hw
    rw [this, hf, hd]
    exact hc m id h
  · intro k hk'
    rw [hk]
    refine hkp _ ?_
    rw [hf, hd]
    simp only [List.mem_append, List.mem_map]
    exact .inr ⟨k, hk', rfl⟩
  · intro p hp
    rw [hk]
    refine hkp _ ?_
    rw [hf, hd]
    simp [hp]
  · intro h
    have : (((w.doneU o npc).freeEntries).skipRun n) = (w.doneU o npc).freeEntries := by
      apply Wg.skipRun_here
      rw [hf, hd]
      exact h
    rw [this, hf, hd]
    exact ⟨rfl, rfl, rfl⟩

/-- A U instruction that ends with `done`. -/
theorem RCtx.done_completes (x : RCtx) (s : State) (w : Wg) (o : UOut) (npc : Word64) : CompletesU x (x.done s w o npc) s w o npc :=
  ⟨_, rfl, Wg.doneU_has w o npc _⟩

end Machine
end Sys2Proof
end

