-- ==== Sys2Proof/Laws/Compute.lean ====
section
/-!
SUPPORT. One lemma for each shared operation of the computing classes: what it answers where its instruction issues.
-/
namespace Sys2Proof.Machine

open Sys2Proof Safety

variable {s : State} {i : Instr} {x : FCtx} {r : RCtx}

/-! ### Destinations of well-formed words -/

theorem dst_lt (i : Instr) : dstOf i < 128 := by
  unfold dstOf
  split
  · unfold Shape.dstNum
    split
    · exact BitVec.isLt _
    · omega
  · omega

/-- A destination group of a frame form is aligned, so that it stays below 128 (R32). -/
theorem dst_group (hw : WellFormed i = true) {p : Shape} (hp : i.shape = some p) {d : BitVec 7} {n : Nat} (hd : p.dst = some (d, n)) (hu : p.u = false)
    (hn : n = 1 ∨ n = 2 ∨ n = 4 ∨ n = 8) : dstOf i + n ≤ 128 := by
  unfold WellFormed at hw
  rw [hp] at hw
  have hl : p.dstOk = true := by
    simp only [Shape.legal, Bool.and_eq_true] at hw
    exact hw.1.1.1.1.2
  unfold Shape.dstOk at hl
  rw [hd] at hl
  simp only [hu, Bool.false_eq_true, if_false, decide_eq_true_eq] at hl
  have : dstOf i = d.toNat := by unfold dstOf Shape.dstNum; rw [hp]; simp [hd]
  have := d.isLt
  rcases hn with rfl | rfl | rfl | rfl <;> omega

/-! ### Frame forms -/

/-- Ends a frame instruction: the results as `finish_computes` says them. -/
theorem State.runF_finish (h : s.issueF i = .go x) (k : FCtx → Except Code State) (o : Out) (hk : k x = .ok (x.finish i o)) (q : Result)
    (hd : dstOf i + q.n ≤ 128) (hr : o.regs = (List.range q.n).map (x.resReg q))
    (hp : o.preds = match q.pred with | some f => x.predOut f | none => []) (he : ResidGives x.act q o.resid)
    (hf : o.flags = x.flagOut q.flags ∨ (o.flags = [] ∧ q.flags = fun _ => flagNone)) : ∃ t, s.runF i k = .next t ∧ Computes i x t q := by
  refine ⟨x.finish i o, ?_, FCtx.finish_computes h q hd o hr hp he hf⟩
  rw [State.runF_go h, hk]

/-- A 32-bit integer result. -/
theorem State.int32_frame (h : s.issueF i = .go x) (uns : Bool) (dst : BitVec 7) (a b d : Src) (f : Word32 → Word32 → Word32 → Word32) :
    ∃ t, s.int32 i false uns dst a b d f = .next t ∧
      Computes i x t (Result.one .int (fun l => f (x.raw a 0 l) (x.raw b 0 l) (x.raw d 0 l))) := by
  unfold State.int32
  rw [if_neg (by simp)]
  exact State.runF_finish h _ _ rfl (Result.one .int (fun l => f (x.raw a 0 l) (x.raw b 0 l) (x.raw d 0 l))) (dst_lt i) rfl rfl
    (ResidGives.nil rfl) (.inr ⟨rfl, rfl⟩)

theorem FCtx.dpair_eq (x : FCtx) (v : Nat → Word64) (p : Option (Nat → Bool)) :
    x.dpair v = (List.range 2).map (x.resReg { Result.two v with pred := p }) := rfl

/-- A 64-bit integer result. -/
theorem State.int64_frame (h : s.issueF i = .go x) (hd : dstOf i + 2 ≤ 128) (uns : Bool) (dst : BitVec 7) (a b : Src)
    (f : Word64 → Word64 → Word64) :
    ∃ t, s.int64 i false uns dst a b f = .next t ∧ Computes i x t (Result.two (fun l => f (x.raw64 uns a l) (x.raw64 uns b l))) := by
  unfold State.int64
  rw [if_neg (by simp)]
  exact State.runF_finish h _ _ rfl (Result.two (fun l => f (x.raw64 uns a l) (x.raw64 uns b l))) hd rfl rfl (ResidGives.nil rfl)
    (.inr ⟨rfl, rfl⟩)

/-- An FP32 operation on planes. -/
theorem State.fp_frame (h : s.issueF i = .go x) (n : Nat) (hd : dstOf i + n ≤ 128) (a b d : Src) (f : FOp) {p q r : Opnd}
    (hp : x.f32 a n = .ok p) (hq : x.f32 b n = .ok q) (hr : x.f32 d n = .ok r) :
    ∃ t, s.fp i n a b d f = .next t ∧
      Computes i x t (Result.many n .f32 (fun j l => BitVec.ofNat 32 (f (p.val j l) (q.val j l) (r.val j l)).1)
        (fun l => flagUnion ((List.range n).map (fun j => (f (p.val j l) (q.val j l) (r.val j l)).2 ||| p.fl j l ||| q.fl j l ||| r.fl j l)))) := by
  unfold State.fp
  refine State.runF_finish h _ _ (by rw [hp, hq, hr]; rfl) _ hd rfl rfl (ResidGives.nil rfl) (.inl rfl)

/-- A packed operation. -/
theorem State.h2op_frame (h : s.issueF i = .go x) (bf : Bool) (tag : Tag) (a b d : Src) (f : Opnd → Opnd → Opnd → Nat → Nat → Nat × Flags)
    {p q r : Opnd} (hp : x.h2 a bf = .ok p) (hq : x.h2 b bf = .ok q) (hr : x.h2 d bf = .ok r) :
    ∃ t, s.h2op i bf tag a b d f = .next t ∧
      Computes i x t { Result.one tag (fun l => pack2 (fun k => (f p q r k l).1)) with
        flags := fun l => flagUnion ((List.range 2).map (fun k => (f p q r k l).2 ||| p.fl k l ||| q.fl k l ||| r.fl k l)) } := by
  unfold State.h2op
  refine State.runF_finish h _ _ (by rw [hp, hq, hr]; rfl) _ (dst_lt i) rfl rfl (ResidGives.nil rfl) (.inl rfl)

/-! ### U forms -/

/-- Ends a U instruction whose guard holds. -/
theorem State.runR_done (h : s.issueR i = .go r) (ho : r.on = true) (off : EntryKind) (k : RCtx → Except Code State) (w : Wg) (o : UOut)
    (hk : k r = .ok (r.fall r.s w o)) : ∃ t, s.runR i off k = .next t ∧ CompletesU r t r.s w o (r.w.rpc + 16#64) := by
  refine ⟨_, ?_, RCtx.done_completes r r.s w o _⟩
  rw [State.runR_on h ho, hk]
  rfl

/-- A 32-bit integer result in the reckoner. -/
theorem State.int32_reck (h : s.issueR i = .go r) (ho : r.on = true) (uns : Bool) (dst : BitVec 7) (a b d : Src)
    (f : Word32 → Word32 → Word32 → Word32) :
    ∃ t, s.int32 i true uns dst a b d f = .next t ∧
      CompletesU r t r.s r.w (outU r.c.wbs dst.toNat (ext uns (f (r.val32 a) (r.val32 b) (r.val32 d)))) (r.w.rpc + 16#64) := by
  unfold State.int32
  rw [if_pos rfl]
  exact State.runR_done h ho _ _ _ _ rfl

/-- A 64-bit integer result in the reckoner. -/
theorem State.int64_reck (h : s.issueR i = .go r) (ho : r.on = true) (uns : Bool) (dst : BitVec 7) (a b : Src) (f : Word64 → Word64 → Word64) :
    ∃ t, s.int64 i true uns dst a b f = .next t ∧
      CompletesU r t r.s r.w (outU r.c.wbs dst.toNat (f (r.val uns a) (r.val uns b))) (r.w.rpc + 16#64) := by
  unfold State.int64
  rw [if_pos rfl]
  exact State.runR_done h ho _ _ _ _ rfl

end Sys2Proof.Machine
end

