-- ==== Sys2Proof/Laws/Encode.lean ====
section
/-!
SUPPORT. Fields of a word: taking apart what was put together, and the one place where decoding an encoded word comes down to its fields.
-/
namespace Sys2Proof

theorem extract_append_high {v w s n : Nat} (x : BitVec v) (y : BitVec w) (h : w ≤ s) :
    (x ++ y).extractLsb' s n = x.extractLsb' (s - w) n := by
  apply BitVec.eq_of_getLsbD_eq
  intro i hi
  simp only [BitVec.getLsbD_extractLsb', BitVec.getLsbD_append, hi, decide_true, Bool.true_and]
  rw [if_neg (by omega)]
  congr 1
  omega

theorem extract_append_low {v w s n : Nat} (x : BitVec v) (y : BitVec w) (h : s + n ≤ w) :
    (x ++ y).extractLsb' s n = y.extractLsb' s n := by
  apply BitVec.eq_of_getLsbD_eq
  intro i hi
  simp only [BitVec.getLsbD_extractLsb', BitVec.getLsbD_append, hi, decide_true, Bool.true_and]
  rw [if_pos (by omega)]

theorem bit_append_high {v w s : Nat} (x : BitVec v) (y : BitVec w) (h : w ≤ s) : (x ++ y).getLsbD s = x.getLsbD (s - w) := by
  rw [BitVec.getLsbD_append, if_neg (by omega)]

theorem bit_append_low {v w s : Nat} (x : BitVec v) (y : BitVec w) (h : s < w) : (x ++ y).getLsbD s = y.getLsbD s := by
  rw [BitVec.getLsbD_append, if_pos h]

theorem Fields.unpack_pack (f : Fields) : Fields.unpack f.pack = f := by
  obtain ⟨ver, stall, yld, chain, r120, u, gn, gp, op, mod, wbs, dst, a, b, d, r35, pd, imm⟩ := f
  simp only [Fields.unpack, Fields.pack, Fields.mk.injEq]
  simp (disch := decide) only [extract_append_high, extract_append_low, bit_append_high, bit_append_low, Nat.reduceSub, BitVec.extractLsb'_eq_self]
  simp [bit]

/-- The fields of a word are those of the shape it was encoded from (R24). -/
theorem unpack_encode {i : Instr} {p : Shape} (h : i.shape = some p) : Fields.unpack (encode i) = p.fields := by
  simp only [encode, h, Fields.unpack_pack]

/-- A well-formed instruction's word decodes to it as soon as its fields do: the conditions of R47 are met. -/
theorem decode_encode_of_fields {i : Instr} {p : Shape} (h : i.shape = some p) (hw : WellFormed i = true)
    (hf : decodeFields p.fields = .ok i) : decode (encode i) = .ok i := by
  have hl : p.legal = true := by simpa [WellFormed, h] using hw
  have hv : ¬ 2 ≤ p.fields.ver.toNat := by
    simp only [Shape.fields]
    split <;> decide
  simp [decode, unpack_encode h, hv, hf, legalWord, h, hl]

/-- A word that decodes is its instruction's word. -/
theorem encode_of_decode {w : BitVec 128} {i : Instr} (h : decode w = .ok i) : encode i = w ∧ WellFormed i = true := by
  simp only [decode] at h
  split at h
  · cases h
  · split at h
    · cases h
    · split at h
      · rename_i hl
        cases h
        simp only [legalWord, Bool.and_eq_true, decide_eq_true_eq] at hl
        exact ⟨hl.2, hl.1⟩
      · cases h

end Sys2Proof
end

