-- ==== Sys2Proof/Laws/Memory.lean ====
section
/-!
SUPPORT. Every operation over device and host memory keeps the canonical form, and what it leaves of a base image.
-/
namespace Sys2Proof.Machine

open Sys2Proof

/-! ### Device memory -/

@[simp] theorem DevMem.put_base (m : DevMem) (o : Owner) (pa : Nat) (bs : List Byte) : (m.put o pa bs).base = m.base := rfl
@[simp] theorem DevMem.reown_base (m : DevMem) (o o' : Owner) : (m.reown o o').base = m.base := rfl
@[simp] theorem DevMem.discard_base (m : DevMem) (o : Owner) : (m.discard o).base = m.base := rfl
@[simp] theorem DevMem.setBead_base (m : DevMem) (pa : Nat) (b : Bead) : (m.setBead pa b).base = m.base := rfl
@[simp] theorem DevMem.setBead_vers (m : DevMem) (pa : Nat) (b : Bead) : (m.setBead pa b).vers = m.vers := rfl
@[simp] theorem DevMem.put_beads (m : DevMem) (o : Owner) (pa : Nat) (bs : List Byte) : (m.put o pa bs).beads = m.beads := rfl
@[simp] theorem DevMem.collect_beads (m : DevMem) (lim gran : Nat) : (m.collect lim gran).beads = m.beads := rfl

@[simp] theorem DevMem.bead_setBead_same (m : DevMem) (pa : Nat) (b : Bead) : (m.setBead pa b).bead pa = b := Tab.get_set_same _ _ _ _
theorem DevMem.bead_setBead_other (m : DevMem) (pa qa : Nat) (b : Bead) (h : qa ≠ pa) : (m.setBead pa b).bead qa = m.bead qa :=
  Tab.get_set_other _ _ _ _ _ h

/-- Folding a granule into the base image keeps its canonical form (R346). -/
theorem DevMem.wf_collect (m : DevMem) (lim gran : Nat) (h : Memory.wf m.base = true) : Memory.wf (m.collect lim gran).base = true := by
  have key : ∀ (ks : List Nat) (b : Tab Byte), Memory.wf b = true →
      Memory.wf (ks.foldl (fun b k => Tab.set 0#8 b (64 * gran + k) (m.byteAt (some lim) (64 * gran + k))) b) = true := by
    intro ks
    induction ks with
    | nil => exact fun b hb => hb
    | cons k ks ih => exact fun b hb => ih _ (Tab.wf_set _ _ hb)
  exact key _ _ h

/-- Folding a granule leaves the base image of every other granule as it was. -/
theorem DevMem.collect_base_other (m : DevMem) (lim gran pa : Nat) (h : pa / 64 ≠ gran) :
    Tab.get 0#8 (m.collect lim gran).base pa = Tab.get 0#8 m.base pa := by
  have key : ∀ (ks : List Nat) (b : Tab Byte), (∀ k ∈ ks, k < 64) →
      Tab.get 0#8 (ks.foldl (fun b k => Tab.set 0#8 b (64 * gran + k) (m.byteAt (some lim) (64 * gran + k))) b) pa = Tab.get 0#8 b pa := by
    intro ks
    induction ks with
    | nil => exact fun b _ => rfl
    | cons k ks ih =>
      intro b hk
      rw [List.foldl_cons, ih _ (fun j hj => hk j (List.mem_cons_of_mem _ hj))]
      have := hk k (by simp)
      exact Tab.get_set_other _ _ _ _ _ (by omega)
  exact key _ _ (fun k hk => by simpa using hk)

/-! ### Host memory -/

/-- A write of host memory keeps its canonical form (log 3). -/
theorem State.wf_setHost (s : State) (ctx iova : Nat) (bs : List Byte) (h : Memory.wf s.hostMem = true) :
    Memory.wf (s.setHost ctx iova bs).hostMem = true := Tab.wf_writeBytes _ bs h

@[simp] theorem State.setHost_dev (s : State) (ctx iova : Nat) (bs : List Byte) : (s.setHost ctx iova bs).dev = s.dev := rfl
@[simp] theorem State.setHost_last (s : State) (ctx iova : Nat) (bs : List Byte) : (s.setHost ctx iova bs).last = s.last := rfl
@[simp] theorem State.setHost_phaseTab (s : State) (ctx iova : Nat) (bs : List Byte) : (s.setHost ctx iova bs).phaseTab = s.phaseTab := rfl

/-! ### After power-up -/

theorem State.wf_reset : Memory.wf State.reset.dev.base = true ∧ Memory.wf State.reset.hostMem = true := ⟨rfl, rfl⟩

/-! ### Code objects and argument blocks -/

/-- A byte without a translation makes the whole read fail. -/
theorem State.ctxBytes_none {s : State} {ctx : Nat} {lim : Option Nat} {va n k : Nat} (hk : k < n) (h : s.pageAt .unit ctx s.pkg (va + k) = none) :
    s.ctxBytes ctx lim va n = none := by
  have key : ∀ l : List Nat, k ∈ l → l.foldr (fun k acc =>
      match acc, s.pageAt .unit ctx s.pkg (va + k) with
      | some bs, some p => if va + k < 2 ^ 48 then some (s.dev.byteAt lim (p.phys (va + k)) :: bs) else none
      | _, _ => none) (some []) = none := by
    intro l
    induction l with
    | nil => simp
    | cons a l ih =>
      intro hm
      rw [List.foldr_cons]
      rcases List.mem_cons.1 hm with rfl | hm
      · rw [h]; split <;> simp_all
      · rw [ih hm]
  exact key _ (List.mem_range.2 hk)

/-- A read succeeds where every byte of it has a translation. -/
theorem State.ctxBytes_isSome {s : State} {ctx : Nat} {lim : Option Nat} {va n : Nat}
    (h : ∀ k < n, (s.pageAt .unit ctx s.pkg (va + k)).isSome = true ∧ va + k < 2 ^ 48) : (s.ctxBytes ctx lim va n).isSome = true := by
  have key : ∀ l : List Nat, (∀ k ∈ l, k < n) → (l.foldr (fun k acc =>
      match acc, s.pageAt .unit ctx s.pkg (va + k) with
      | some bs, some p => if va + k < 2 ^ 48 then some (s.dev.byteAt lim (p.phys (va + k)) :: bs) else none
      | _, _ => none) (some [])).isSome = true := by
    intro l
    induction l with
    | nil => simp
    | cons a l ih =>
      intro hm
      obtain ⟨bs, hb⟩ := Option.isSome_iff_exists.1 (ih (fun k hk => hm k (List.mem_cons_of_mem _ hk)))
      obtain ⟨hp, hv⟩ := h a (hm a List.mem_cons_self)
      obtain ⟨p, hp⟩ := Option.isSome_iff_exists.1 hp
      rw [List.foldr_cons, hb, hp]; simp only [if_pos hv, Option.isSome_some]
  exact key _ (fun k hk => List.mem_range.1 hk)

end Sys2Proof.Machine
end

