-- ==== Sys2Proof/Laws/PerInstr.lean ====
section
/-!
SUPPORT. The word of each instruction takes apart into the fields it was put together from, one lemma per constructor.
-/
namespace Sys2Proof.Laws

open Sys2Proof

/-- Every field of the instruction's word reads back as the encoder laid it (R24). -/
def FieldsKept.Statement (i : Instr) : Prop := ∀ p, i.shape = some p → Fields.unpack (encode i) = p.fields

namespace FieldsKept

theorem und (c : Ctl) (u : Bool) :
    Statement (.und c u) := fun _ h => unpack_encode h
theorem nop (c : Ctl) :
    Statement (.nop c) := fun _ h => unpack_encode h
theorem nopU (c : Ctl) :
    Statement (.nopU c) := fun _ h => unpack_encode h
theorem bra (c : Ctl) (off : Word32) :
    Statement (.bra c off) := fun _ h => unpack_encode h
theorem braU (c : Ctl) (off : Word32) :
    Statement (.braU c off) := fun _ h => unpack_encode h
theorem brx (c : Ctl) (a : Src) :
    Statement (.brx c a) := fun _ h => unpack_encode h
theorem call (c : Ctl) (dst : BitVec 7) (off : Word32) :
    Statement (.call c dst off) := fun _ h => unpack_encode h
theorem callx (c : Ctl) (dst : BitVec 7) (a : Src) :
    Statement (.callx c dst a) := fun _ h => unpack_encode h
theorem ret (c : Ctl) (a : Src) :
    Statement (.ret c a) := fun _ h => unpack_encode h
theorem exit (c : Ctl) (a : Src) :
    Statement (.exit c a) := fun _ h => unpack_encode h
theorem exitU (c : Ctl) (a : Src) :
    Statement (.exitU c a) := fun _ h => unpack_encode h
theorem trap (c : Ctl) (a : Src) :
    Statement (.trap c a) := fun _ h => unpack_encode h
theorem trapU (c : Ctl) (a : Src) :
    Statement (.trapU c a) := fun _ h => unpack_encode h
theorem brk (c : Ctl) (code : BitVec 16) :
    Statement (.brk c code) := fun _ h => unpack_encode h
theorem rejoin (c : Ctl) :
    Statement (.rejoin c) := fun _ h => unpack_encode h
theorem yld (c : Ctl) :
    Statement (.yld c) := fun _ h => unpack_encode h
theorem sleep (c : Ctl) (a : Src) :
    Statement (.sleep c a) := fun _ h => unpack_encode h
theorem sleepU (c : Ctl) (a : Src) :
    Statement (.sleepU c a) := fun _ h => unpack_encode h
theorem mov (c : Ctl) (u : Bool) (ty : ITy) (dst : BitVec 7) (a : Src) :
    Statement (.mov c u ty dst a) := fun _ h => unpack_encode h
theorem movi (c : Ctl) (u : Bool) (ty : ITy) (dst : BitVec 7) (v : Word32) :
    Statement (.movi c u ty dst v) := fun _ h => unpack_encode h
theorem iadd (c : Ctl) (u : Bool) (ty : ITy) (cin : Bool) (cinp : BitVec 3) (dst : BitVec 7) (pd : BitVec 3) (a b : Src) :
    Statement (.iadd c u ty cin cinp dst pd a b) := fun _ h => unpack_encode h
theorem isub (c : Ctl) (u : Bool) (ty : ITy) (cin : Bool) (cinp : BitVec 3) (dst : BitVec 7) (pd : BitVec 3) (a b : Src) :
    Statement (.isub c u ty cin cinp dst pd a b) := fun _ h => unpack_encode h
theorem imul (c : Ctl) (u : Bool) (ty : ITy) (dst : BitVec 7) (a b : Src) :
    Statement (.imul c u ty dst a b) := fun _ h => unpack_encode h
theorem imulh (c : Ctl) (u : Bool) (ty : ITy) (dst : BitVec 7) (a b : Src) :
    Statement (.imulh c u ty dst a b) := fun _ h => unpack_encode h
theorem imad (c : Ctl) (u : Bool) (ty : ITy) (dst : BitVec 7) (a b d : Src) :
    Statement (.imad c u ty dst a b d) := fun _ h => unpack_encode h
theorem imadw (c : Ctl) (u : Bool) (ty : ITy) (dst : BitVec 7) (a b d : Src) :
    Statement (.imadw c u ty dst a b d) := fun _ h => unpack_encode h
theorem idiv (c : Ctl) (u : Bool) (ty : ITy) (dst : BitVec 7) (a b : Src) :
    Statement (.idiv c u ty dst a b) := fun _ h => unpack_encode h
theorem irem (c : Ctl) (u : Bool) (ty : ITy) (dst : BitVec 7) (a b : Src) :
    Statement (.irem c u ty dst a b) := fun _ h => unpack_encode h
theorem imin (c : Ctl) (u : Bool) (ty : ITy) (dst : BitVec 7) (a b : Src) :
    Statement (.imin c u ty dst a b) := fun _ h => unpack_encode h
theorem imax (c : Ctl) (u : Bool) (ty : ITy) (dst : BitVec 7) (a b : Src) :
    Statement (.imax c u ty dst a b) := fun _ h => unpack_encode h
theorem iabs (c : Ctl) (u : Bool) (ty : ITy) (dst : BitVec 7) (a : Src) :
    Statement (.iabs c u ty dst a) := fun _ h => unpack_encode h
theorem and (c : Ctl) (u : Bool) (ty : ITy) (dst : BitVec 7) (a b : Src) :
    Statement (.and c u ty dst a b) := fun _ h => unpack_encode h
theorem or (c : Ctl) (u : Bool) (ty : ITy) (dst : BitVec 7) (a b : Src) :
    Statement (.or c u ty dst a b) := fun _ h => unpack_encode h
theorem xor (c : Ctl) (u : Bool) (ty : ITy) (dst : BitVec 7) (a b : Src) :
    Statement (.xor c u ty dst a b) := fun _ h => unpack_encode h
theorem not (c : Ctl) (u : Bool) (ty : ITy) (dst : BitVec 7) (a : Src) :
    Statement (.not c u ty dst a) := fun _ h => unpack_encode h
theorem shl (c : Ctl) (u : Bool) (ty : ITy) (dst : BitVec 7) (a b : Src) :
    Statement (.shl c u ty dst a b) := fun _ h => unpack_encode h
theorem shr (c : Ctl) (u : Bool) (ty : ITy) (dst : BitVec 7) (a b : Src) :
    Statement (.shr c u ty dst a b) := fun _ h => unpack_encode h
theorem sar (c : Ctl) (u : Bool) (ty : ITy) (dst : BitVec 7) (a b : Src) :
    Statement (.sar c u ty dst a b) := fun _ h => unpack_encode h
theorem fshl (c : Ctl) (u : Bool) (ty : ITy) (dst : BitVec 7) (a b d : Src) :
    Statement (.fshl c u ty dst a b d) := fun _ h => unpack_encode h
theorem fshr (c : Ctl) (u : Bool) (ty : ITy) (dst : BitVec 7) (a b d : Src) :
    Statement (.fshr c u ty dst a b d) := fun _ h => unpack_encode h
theorem popc (c : Ctl) (u : Bool) (ty : ITy) (dst : BitVec 7) (a : Src) :
    Statement (.popc c u ty dst a) := fun _ h => unpack_encode h
theorem clz (c : Ctl) (u : Bool) (ty : ITy) (dst : BitVec 7) (a : Src) :
    Statement (.clz c u ty dst a) := fun _ h => unpack_encode h
theorem ctz (c : Ctl) (u : Bool) (ty : ITy) (dst : BitVec 7) (a : Src) :
    Statement (.ctz c u ty dst a) := fun _ h => unpack_encode h
theorem brev (c : Ctl) (u : Bool) (ty : ITy) (dst : BitVec 7) (a : Src) :
    Statement (.brev c u ty dst a) := fun _ h => unpack_encode h
theorem bfx (c : Ctl) (u : Bool) (ty : ITy) (dst : BitVec 7) (a b d : Src) :
    Statement (.bfx c u ty dst a b d) := fun _ h => unpack_encode h
theorem bfi (c : Ctl) (u : Bool) (ty : ITy) (dst : BitVec 7) (a b d : Src) :
    Statement (.bfi c u ty dst a b d) := fun _ h => unpack_encode h
theorem bpick (c : Ctl) (u : Bool) (ty : ITy) (dst : BitVec 7) (a b d : Src) :
    Statement (.bpick c u ty dst a b d) := fun _ h => unpack_encode h
theorem lea (c : Ctl) (u w64 : Bool) (sh : BitVec 3) (dst : BitVec 7) (a b : Src) :
    Statement (.lea c u w64 sh dst a b) := fun _ h => unpack_encode h
theorem iadd3 (c : Ctl) (u : Bool) (ty : ITy) (dst : BitVec 7) (pd : BitVec 3) (a b d : Src) :
    Statement (.iadd3 c u ty dst pd a b d) := fun _ h => unpack_encode h
theorem fadd (c : Ctl) (rnd : Rnd) (pl : Planes) (dst : BitVec 7) (a b : Src) :
    Statement (.fadd c rnd pl dst a b) := fun _ h => unpack_encode h
theorem fsub (c : Ctl) (rnd : Rnd) (pl : Planes) (dst : BitVec 7) (a b : Src) :
    Statement (.fsub c rnd pl dst a b) := fun _ h => unpack_encode h
theorem fmul (c : Ctl) (rnd : Rnd) (pl : Planes) (dst : BitVec 7) (a b : Src) :
    Statement (.fmul c rnd pl dst a b) := fun _ h => unpack_encode h
theorem ffma (c : Ctl) (rnd : Rnd) (pl : Planes) (dst : BitVec 7) (a b d : Src) :
    Statement (.ffma c rnd pl dst a b d) := fun _ h => unpack_encode h
theorem fmin (c : Ctl) (nan : Bool) (pl : Planes) (dst : BitVec 7) (a b : Src) :
    Statement (.fmin c nan pl dst a b) := fun _ h => unpack_encode h
theorem fmax (c : Ctl) (nan : Bool) (pl : Planes) (dst : BitVec 7) (a b : Src) :
    Statement (.fmax c nan pl dst a b) := fun _ h => unpack_encode h
theorem fdiv (c : Ctl) (rnd : Rnd) (dst : BitVec 7) (a b : Src) :
    Statement (.fdiv c rnd dst a b) := fun _ h => unpack_encode h
theorem fsqrt (c : Ctl) (rnd : Rnd) (dst : BitVec 7) (a : Src) :
    Statement (.fsqrt c rnd dst a) := fun _ h => unpack_encode h
theorem frcp (c : Ctl) (rnd : Rnd) (dst : BitVec 7) (a : Src) :
    Statement (.frcp c rnd dst a) := fun _ h => unpack_encode h
theorem frsq (c : Ctl) (rnd : Rnd) (dst : BitVec 7) (a : Src) :
    Statement (.frsq c rnd dst a) := fun _ h => unpack_encode h
theorem fexp2 (c : Ctl) (rnd : Rnd) (dst : BitVec 7) (a : Src) :
    Statement (.fexp2 c rnd dst a) := fun _ h => unpack_encode h
theorem flog2 (c : Ctl) (rnd : Rnd) (dst : BitVec 7) (a : Src) :
    Statement (.flog2 c rnd dst a) := fun _ h => unpack_encode h
theorem fsinpi (c : Ctl) (rnd : Rnd) (dst : BitVec 7) (a : Src) :
    Statement (.fsinpi c rnd dst a) := fun _ h => unpack_encode h
theorem fcospi (c : Ctl) (rnd : Rnd) (dst : BitVec 7) (a : Src) :
    Statement (.fcospi c rnd dst a) := fun _ h => unpack_encode h
theorem ftanh (c : Ctl) (rnd : Rnd) (dst : BitVec 7) (a : Src) :
    Statement (.ftanh c rnd dst a) := fun _ h => unpack_encode h
theorem frnd (c : Ctl) (rnd : Rnd) (dst : BitVec 7) (a : Src) :
    Statement (.frnd c rnd dst a) := fun _ h => unpack_encode h
theorem ffrc (c : Ctl) (dst : BitVec 7) (a : Src) :
    Statement (.ffrc c dst a) := fun _ h => unpack_encode h
theorem fcls (c : Ctl) (pd : BitVec 3) (a : Src) (mask : BitVec 10) :
    Statement (.fcls c pd a mask) := fun _ h => unpack_encode h
theorem fscl (c : Ctl) (rnd : Rnd) (dst : BitVec 7) (a b : Src) :
    Statement (.fscl c rnd dst a b) := fun _ h => unpack_encode h
theorem hadd2 (c : Ctl) (rnd : Rnd) (bf : Bool) (dst : BitVec 7) (a b : Src) :
    Statement (.hadd2 c rnd bf dst a b) := fun _ h => unpack_encode h
theorem hsub2 (c : Ctl) (rnd : Rnd) (bf : Bool) (dst : BitVec 7) (a b : Src) :
    Statement (.hsub2 c rnd bf dst a b) := fun _ h => unpack_encode h
theorem hmul2 (c : Ctl) (rnd : Rnd) (bf : Bool) (dst : BitVec 7) (a b : Src) :
    Statement (.hmul2 c rnd bf dst a b) := fun _ h => unpack_encode h
theorem hfma2 (c : Ctl) (rnd : Rnd) (bf : Bool) (dst : BitVec 7) (a b d : Src) :
    Statement (.hfma2 c rnd bf dst a b d) := fun _ h => unpack_encode h
theorem hmin2 (c : Ctl) (nan bf : Bool) (dst : BitVec 7) (a b : Src) :
    Statement (.hmin2 c nan bf dst a b) := fun _ h => unpack_encode h
theorem hmax2 (c : Ctl) (nan bf : Bool) (dst : BitVec 7) (a b : Src) :
    Statement (.hmax2 c nan bf dst a b) := fun _ h => unpack_encode h
theorem hdot2 (c : Ctl) (rnd : Rnd) (bf : Bool) (dst : BitVec 7) (a b d : Src) :
    Statement (.hdot2 c rnd bf dst a b d) := fun _ h => unpack_encode h
theorem hcmp2 (c : Ctl) (cond : Cond) (un bf : Bool) (dst : BitVec 7) (a b : Src) :
    Statement (.hcmp2 c cond un bf dst a b) := fun _ h => unpack_encode h
theorem hxcvt2 (c : Ctl) (rnd : Rnd) (bf : Bool) (dst : BitVec 7) (a : Src) :
    Statement (.hxcvt2 c rnd bf dst a) := fun _ h => unpack_encode h
theorem cvt (c : Ctl) (rnd : Rnd) (sat : Bool) (dir : CvtDir) (pl : Planes) (dst : BitVec 7) (a : Src) (k : BitVec 5) :
    Statement (.cvt c rnd sat dir pl dst a k) := fun _ h => unpack_encode h
theorem cvt2 (c : Ctl) (rnd : Rnd) (sat alt : Bool) (pl : Planes) (dst : BitVec 7) (a : Src) (k : BitVec 5) :
    Statement (.cvt2 c rnd sat alt pl dst a k) := fun _ h => unpack_encode h
theorem cvt8 (c : Ctl) (rnd : Rnd) (sat alt : Bool) (pl : Planes) (dst : BitVec 7) (a : Src) (k : BitVec 5) :
    Statement (.cvt8 c rnd sat alt pl dst a k) := fun _ h => unpack_encode h
theorem cvt4 (c : Ctl) (ef : Bool) (dst : BitVec 7) (a b : Src) (k : BitVec 5) :
    Statement (.cvt4 c ef dst a b k) := fun _ h => unpack_encode h
theorem unp8 (c : Ctl) (dst : BitVec 7) (a : Src) :
    Statement (.unp8 c dst a) := fun _ h => unpack_encode h
theorem unp4 (c : Ctl) (dst : BitVec 7) (a b : Src) :
    Statement (.unp4 c dst a b) := fun _ h => unpack_encode h
theorem unp2 (c : Ctl) (dst : BitVec 7) (a : Src) :
    Statement (.unp2 c dst a) := fun _ h => unpack_encode h
theorem sclrd (c : Ctl) (dst : BitVec 7) (a : Src) :
    Statement (.sclrd c dst a) := fun _ h => unpack_encode h
theorem sclwr (c : Ctl) (dst : BitVec 7) (a b : Src) :
    Statement (.sclwr c dst a b) := fun _ h => unpack_encode h
theorem tagrd (c : Ctl) (dst : BitVec 7) (a : Src) :
    Statement (.tagrd c dst a) := fun _ h => unpack_encode h
theorem retag (c : Ctl) (tag : Tag) (dst : BitVec 7) (a : Src) :
    Statement (.retag c tag dst a) := fun _ h => unpack_encode h
theorem efmov (c : Ctl) (dir : Bool) (dst : BitVec 7) (a : Option Src) (k : BitVec 5) :
    Statement (.efmov c dir dst a k) := fun _ h => unpack_encode h
theorem icmp (c : Ctl) (u : Bool) (ty : ITy) (cond : Cond) (pd : BitVec 3) (a b : Src) :
    Statement (.icmp c u ty cond pd a b) := fun _ h => unpack_encode h
theorem fcmp (c : Ctl) (un : Bool) (cond : Cond) (pd : BitVec 3) (a b : Src) :
    Statement (.fcmp c un cond pd a b) := fun _ h => unpack_encode h
theorem sel (c : Ctl) (u : Bool) (selp : BitVec 3) (seln : Bool) (pl : Planes) (dst : BitVec 7) (a b : Src) :
    Statement (.sel c u selp seln pl dst a b) := fun _ h => unpack_encode h
theorem pset (c : Ctl) (u : Bool) (pop : Pop) (pd x : BitVec 3) (nx : Bool) (y : BitVec 3) (ny : Bool) :
    Statement (.pset c u pop pd x nx y ny) := fun _ h => unpack_encode h
theorem pmov (c : Ctl) (dir : Bool) (dst : BitVec 7) (a : Option Src) :
    Statement (.pmov c dir dst a) := fun _ h => unpack_encode h
theorem shfl (c : Ctl) (mode : ShflMode) (dst : BitVec 7) (a b : Src) :
    Statement (.shfl c mode dst a b) := fun _ h => unpack_encode h
theorem bcast (c : Ctl) (dst : BitVec 7) (a b : Src) :
    Statement (.bcast c dst a b) := fun _ h => unpack_encode h
theorem vote (c : Ctl) (mode : VoteMode) (dst : BitVec 7) (pd x : BitVec 3) (nx : Bool) :
    Statement (.vote c mode dst pd x nx) := fun _ h => unpack_encode h
theorem red (c : Ctl) (lop : Lop) (lty : LTy) (dst : BitVec 7) (a : Src) :
    Statement (.red c lop lty dst a) := fun _ h => unpack_encode h
theorem scan (c : Ctl) (lop : Lop) (lty : LTy) (excl : Bool) (dst : BitVec 7) (a : Src) :
    Statement (.scan c lop lty excl dst a) := fun _ h => unpack_encode h
theorem matchv (c : Ctl) (dst : BitVec 7) (a : Src) :
    Statement (.matchv c dst a) := fun _ h => unpack_encode h
theorem rng (c : Ctl) (dst : BitVec 7) (a b d : Src) :
    Statement (.rng c dst a b d) := fun _ h => unpack_encode h
theorem mapbind (c : Ctl) (fmt : SlotFmt) (q : QuadSel) (dst : BitVec 7) (a : Src) (m : BitVec 3) :
    Statement (.mapbind c fmt q dst a m) := fun _ h => unpack_encode h
theorem mapclr (c : Ctl) (q : QuadSel) (m : BitVec 3) :
    Statement (.mapclr c q m) := fun _ h => unpack_encode h
theorem mapmode (c : Ctl) (q : QuadSel) (full : Bool) (m : BitVec 3) :
    Statement (.mapmode c q full m) := fun _ h => unpack_encode h
theorem mapscl (c : Ctl) (q : QuadSel) (a : Src) (m : BitVec 3) :
    Statement (.mapscl c q a m) := fun _ h => unpack_encode h
theorem maprd (c : Ctl) (qk : BitVec 2) (dst : BitVec 7) (m : BitVec 3) (rw : BitVec 5) (wd : BitVec 3) :
    Statement (.maprd c qk dst m rw wd) := fun _ h => unpack_encode h
theorem ldl (c : Ctl) (w : Width) (sx : Bool) (pol : BitVec 2) (tag : Tag) (dst : BitVec 7) (a : Src) (disp : Word32) :
    Statement (.ldl c w sx pol tag dst a disp) := fun _ h => unpack_encode h
theorem stl (c : Ctl) (w : Width) (pol : BitVec 2) (a b : Src) (disp : Word32) :
    Statement (.stl c w pol a b disp) := fun _ h => unpack_encode h
theorem atoml (c : Ctl) (op : AOp) (ty : ATy) (dst : BitVec 7) (a b : Src) (d : Option Src) (disp : Word32) :
    Statement (.atoml c op ty dst a b d disp) := fun _ h => unpack_encode h
theorem ldm (c : Ctl) (w : Width) (sx : Bool) (pol : BitVec 2) (tag : Tag) (dst : BitVec 7) (a : Src) (disp : Word32) :
    Statement (.ldm c w sx pol tag dst a disp) := fun _ h => unpack_encode h
theorem stm (c : Ctl) (w : Width) (pol : BitVec 2) (a b : Src) (disp : Word32) :
    Statement (.stm c w pol a b disp) := fun _ h => unpack_encode h
theorem atomm (c : Ctl) (op : AOp) (ty : ATy) (dst : BitVec 7) (a b : Src) (d : Option Src) (disp : Word32) :
    Statement (.atomm c op ty dst a b d disp) := fun _ h => unpack_encode h
theorem ldg (c : Ctl) (w : Width) (sx : Bool) (pol : BitVec 2) (tag : Tag) (dst : BitVec 7) (a b : Src) (disp : Word32) :
    Statement (.ldg c w sx pol tag dst a b disp) := fun _ h => unpack_encode h
theorem stg (c : Ctl) (w : Width) (pol : BitVec 2) (a b d : Src) (disp : Word32) :
    Statement (.stg c w pol a b d disp) := fun _ h => unpack_encode h
theorem ldro (c : Ctl) (w : Width) (sx : Bool) (pol : BitVec 2) (tag : Tag) (dst : BitVec 7) (a b : Src) (disp : Word32) :
    Statement (.ldro c w sx pol tag dst a b disp) := fun _ h => unpack_encode h
theorem pref (c : Ctl) (pol : BitVec 2) (a b : Src) (disp : Word32) :
    Statement (.pref c pol a b disp) := fun _ h => unpack_encode h
theorem ldh (c : Ctl) (w : Width) (sx : Bool) (pol : BitVec 2) (tag : Tag) (dst : BitVec 7) (a : Src) (disp : Word32) :
    Statement (.ldh c w sx pol tag dst a disp) := fun _ h => unpack_encode h
theorem sth (c : Ctl) (w : Width) (pol : BitVec 2) (a b : Src) (disp : Word32) :
    Statement (.sth c w pol a b disp) := fun _ h => unpack_encode h
theorem ldx (c : Ctl) (w : Width) (sx : Bool) (pol : BitVec 2) (tag : Tag) (dst : BitVec 7) (a : Src) (disp : Word32) :
    Statement (.ldx c w sx pol tag dst a disp) := fun _ h => unpack_encode h
theorem stx (c : Ctl) (w : Width) (pol : BitVec 2) (a b : Src) (disp : Word32) :
    Statement (.stx c w pol a b disp) := fun _ h => unpack_encode h
theorem atom (c : Ctl) (op : AOp) (ty : ATy) (dst : BitVec 7) (a b : Src) (disp : Word32) :
    Statement (.atom c op ty dst a b disp) := fun _ h => unpack_encode h
theorem atomc (c : Ctl) (ty : ATy) (dst : BitVec 7) (a b d : Src) (disp : Word32) :
    Statement (.atomc c ty dst a b d disp) := fun _ h => unpack_encode h
theorem atomn (c : Ctl) (op : AOp) (ty : ATy) (a b : Src) (disp : Word32) :
    Statement (.atomn c op ty a b disp) := fun _ h => unpack_encode h
theorem abset8 (c : Ctl) (a b : Src) (disp : Word32) :
    Statement (.abset8 c a b disp) := fun _ h => unpack_encode h
theorem abtst8 (c : Ctl) (dst : BitVec 7) (a b : Src) (disp : Word32) :
    Statement (.abtst8 c dst a b disp) := fun _ h => unpack_encode h
theorem bput (c : Ctl) (a b : Src) (disp : Word32) :
    Statement (.bput c a b disp) := fun _ h => unpack_encode h
theorem btake (c : Ctl) (dst : BitVec 7) (a : Src) (disp : Word32) :
    Statement (.btake c dst a disp) := fun _ h => unpack_encode h
theorem bpeek (c : Ctl) (dst : BitVec 7) (pd : BitVec 3) (a : Src) (disp : Word32) :
    Statement (.bpeek c dst pd a disp) := fun _ h => unpack_encode h
theorem binit (c : Ctl) (up : Bool) (a b : Src) (disp : Word32) :
    Statement (.binit c up a b disp) := fun _ h => unpack_encode h
theorem copy (c : Ctl) (dst : BitVec 7) (a b d : Src) :
    Statement (.copy c dst a b d) := fun _ h => unpack_encode h
theorem publish (c : Ctl) (dst : BitVec 7) (a : Src) :
    Statement (.publish c dst a) := fun _ h => unpack_encode h
theorem cancel (c : Ctl) (dst : BitVec 7) (a : Src) :
    Statement (.cancel c dst a) := fun _ h => unpack_encode h
theorem bar (c : Ctl) (bop : Option Lop) (lty : LTy) (rel acq vec : Bool) (dst : BitVec 7) (a : Option Src) (br : BarRef) (sd : Bool) (sn : BitVec 6) :
    Statement (.bar c bop lty rel acq vec dst a br sd sn) := fun _ h => unpack_encode h
theorem barU (c : Ctl) (bop : Option Lop) (lty : LTy) (rel acq : Bool) (a : Option Src) (br : BarRef) (sd : Bool) (sn : BitVec 6) :
    Statement (.barU c bop lty rel acq a br sd sn) := fun _ h => unpack_encode h
theorem bara (c : Ctl) (bop : Option Lop) (lty : LTy) (rel : Bool) (a : Option Src) (br : BarRef) (sn : BitVec 6) :
    Statement (.bara c bop lty rel a br sn) := fun _ h => unpack_encode h
theorem baraU (c : Ctl) (bop : Option Lop) (lty : LTy) (rel : Bool) (a : Option Src) (br : BarRef) (sn : BitVec 6) :
    Statement (.baraU c bop lty rel a br sn) := fun _ h => unpack_encode h
theorem barw (c : Ctl) (acq vec : Bool) (dst : BitVec 7) (br : BarRef) (sd : Bool) (sn : BitVec 6) :
    Statement (.barw c acq vec dst br sd sn) := fun _ h => unpack_encode h
theorem barwU (c : Ctl) (acq : Bool) (br : BarRef) (sd : Bool) (sn : BitVec 6) :
    Statement (.barwU c acq br sd sn) := fun _ h => unpack_encode h
theorem barset (c : Ctl) (mask : BitVec 17) (count : BitVec 5) (n : BitVec 4) :
    Statement (.barset c mask count n) := fun _ h => unpack_encode h
theorem fence (c : Ctl) (sc : Scope) (ord : Order) :
    Statement (.fence c sc ord) := fun _ h => unpack_encode h
theorem fenceU (c : Ctl) (sc : Scope) (ord : Order) :
    Statement (.fenceU c sc ord) := fun _ h => unpack_encode h
theorem phase (c : Ctl) :
    Statement (.phase c) := fun _ h => unpack_encode h
theorem txbegin (c : Ctl) :
    Statement (.txbegin c) := fun _ h => unpack_encode h
theorem txend (c : Ctl) (dst : BitVec 7) :
    Statement (.txend c dst) := fun _ h => unpack_encode h
theorem txabort (c : Ctl) :
    Statement (.txabort c) := fun _ h => unpack_encode h
theorem srd (c : Ctl) (dst : BitVec 7) (num : BitVec 8) :
    Statement (.srd c dst num) := fun _ h => unpack_encode h
theorem srdU (c : Ctl) (dst : BitVec 7) (num : BitVec 8) :
    Statement (.srdU c dst num) := fun _ h => unpack_encode h
theorem swr (c : Ctl) (a : Src) (num : BitVec 8) :
    Statement (.swr c a num) := fun _ h => unpack_encode h
theorem tfetch (c : Ctl) (dst : BitVec 7) :
    Statement (.tfetch c dst) := fun _ h => unpack_encode h
theorem launch (c : Ctl) (dst : BitVec 7) (a : Src) :
    Statement (.launch c dst a) := fun _ h => unpack_encode h
theorem tracemark (c : Ctl) (a : Src) (code : BitVec 16) :
    Statement (.tracemark c a code) := fun _ h => unpack_encode h
theorem ckpt (c : Ctl) :
    Statement (.ckpt c) := fun _ h => unpack_encode h
theorem snap (c : Ctl) (dst : BitVec 7) :
    Statement (.snap c dst) := fun _ h => unpack_encode h
theorem unsnap (c : Ctl) (a : Src) :
    Statement (.unsnap c a) := fun _ h => unpack_encode h
theorem tlbinv (c : Ctl) (a : Src) (scope : BitVec 2) :
    Statement (.tlbinv c a scope) := fun _ h => unpack_encode h
theorem csave (c : Ctl) (a : Src) :
    Statement (.csave c a) := fun _ h => unpack_encode h
theorem crest (c : Ctl) (a : Src) :
    Statement (.crest c a) := fun _ h => unpack_encode h
theorem signal (c : Ctl) (a : Src) (ev : BitVec 5) :
    Statement (.signal c a ev) := fun _ h => unpack_encode h
theorem dqEntryTake : Statement (.dqEntryTake) := fun _ h => unpack_encode h
theorem stallDeferralEnd (core f : Nat) :
    Statement (.stallDeferralEnd core f) := fun _ h => unpack_encode h
theorem rejoinMerge (core f : Nat) :
    Statement (.rejoinMerge core f) := fun _ h => unpack_encode h
theorem gatherTimeout (core f : Nat) :
    Statement (.gatherTimeout core f) := fun _ h => unpack_encode h
theorem loadDataReturn (core req : Nat) (err corrected : Bool) :
    Statement (.loadDataReturn core req err corrected) := fun _ h => unpack_encode h
theorem meshAccessArrive (id : Nat) :
    Statement (.meshAccessArrive id) := fun _ h => unpack_encode h
theorem meshAck (id : Nat) :
    Statement (.meshAck id) := fun _ h => unpack_encode h
theorem serviceRequest (home : Nat) :
    Statement (.serviceRequest home) := fun _ h => unpack_encode h
theorem atomReply (id : Nat) :
    Statement (.atomReply id) := fun _ h => unpack_encode h
theorem waiterReissue (id : Nat) :
    Statement (.waiterReissue id) := fun _ h => unpack_encode h
theorem mapPassComplete (core id : Nat) :
    Statement (.mapPassComplete core id) := fun _ h => unpack_encode h
theorem slotChangeEffect (core quad id : Nat) :
    Statement (.slotChangeEffect core quad id) := fun _ h => unpack_encode h
theorem slotFillDone (core quad id : Nat) (err corrected : Bool) :
    Statement (.slotFillDone core quad id err corrected) := fun _ h => unpack_encode h
theorem copyStart (id : Nat) :
    Statement (.copyStart id) := fun _ h => unpack_encode h
theorem copyUnit (id : Nat) (met : SoftErr) :
    Statement (.copyUnit id met) := fun _ h => unpack_encode h
theorem copyDone (id : Nat) :
    Statement (.copyDone id) := fun _ h => unpack_encode h
theorem barrierRelease (b : BarId) :
    Statement (.barrierRelease b) := fun _ h => unpack_encode h
theorem commitComplete (id : Nat) :
    Statement (.commitComplete id) := fun _ h => unpack_encode h
theorem phaseEntryArrival (die stamp : Nat) :
    Statement (.phaseEntryArrival die stamp) := fun _ h => unpack_encode h
theorem peerCommit (c : PeerCommitOf) :
    Statement (.peerCommit c) := fun _ h => unpack_encode h
theorem peerFrontierAck (id : Nat) :
    Statement (.peerFrontierAck id) := fun _ h => unpack_encode h
theorem collector (gran : Nat) :
    Statement (.collector gran) := fun _ h => unpack_encode h
theorem poolRelief : Statement (.poolRelief) := fun _ h => unpack_encode h
theorem vpoolTimeout : Statement (.vpoolTimeout) := fun _ h => unpack_encode h
theorem clockWake (core : Nat) :
    Statement (.clockWake core) := fun _ h => unpack_encode h
theorem sleepTimeout (p : Party) :
    Statement (.sleepTimeout p) := fun _ h => unpack_encode h
theorem gangPlace (grid : Nat) :
    Statement (.gangPlace grid) := fun _ h => unpack_encode h
theorem gangAging (grid : Nat) :
    Statement (.gangAging grid) := fun _ h => unpack_encode h
theorem gangplaceReport (grid : Nat) :
    Statement (.gangplaceReport grid) := fun _ h => unpack_encode h
theorem workgroupEnd (grid wg : Nat) :
    Statement (.workgroupEnd grid wg) := fun _ h => unpack_encode h
theorem gridEnd (grid : Nat) :
    Statement (.gridEnd grid) := fun _ h => unpack_encode h
theorem tileGrant (core : Nat) :
    Statement (.tileGrant core) := fun _ h => unpack_encode h
theorem sliceEnd (top : Nat) :
    Statement (.sliceEnd top) := fun _ h => unpack_encode h
theorem preemptRequest (grid gang : Nat) :
    Statement (.preemptRequest grid gang) := fun _ h => unpack_encode h
theorem contextSave (grid wg : Nat) :
    Statement (.contextSave grid wg) := fun _ h => unpack_encode h
theorem contextRestore (grid gang : Nat) :
    Statement (.contextRestore grid gang) := fun _ h => unpack_encode h
theorem xlateResolved (grid wg : Nat) (ok : Bool) :
    Statement (.xlateResolved grid wg ok) := fun _ h => unpack_encode h
theorem pageWalk (k : WalkEnd) :
    Statement (.pageWalk k) := fun _ h => unpack_encode h
theorem dieFailed (die code : Nat) :
    Statement (.dieFailed die code) := fun _ h => unpack_encode h
theorem portDown (port code : Nat) :
    Statement (.portDown port code) := fun _ h => unpack_encode h
theorem firmwareDownload (fw : Firmware) :
    Statement (.firmwareDownload fw) := fun _ h => unpack_encode h
theorem functionReady (fn : Func) (ok : Bool) (code : Nat) :
    Statement (.functionReady fn ok code) := fun _ h => unpack_encode h
theorem featureWrite (off : Nat) (wide : Bool) (val : Word64) :
    Statement (.featureWrite off wide val) := fun _ h => unpack_encode h
theorem wridx (q : Nat) (val : Word32) :
    Statement (.wridx q val) := fun _ h => unpack_encode h
theorem resume (q : Nat) (val : Word32) :
    Statement (.resume q val) := fun _ h => unpack_encode h
theorem gridResume (q grid : Nat) :
    Statement (.gridResume q grid) := fun _ h => unpack_encode h
theorem gridAbort (q grid : Nat) :
    Statement (.gridAbort q grid) := fun _ h => unpack_encode h
theorem registerWrite (r : RegRef) (val : Word64) :
    Statement (.registerWrite r val) := fun _ h => unpack_encode h
theorem pktLaunch (q : Nat) (h : PktHdr) (r : LaunchRec) :
    Statement (.pktLaunch q h r) := fun _ h => unpack_encode h
theorem pktCopy (q : Nat) (h : PktHdr) (dst src : Nat) (r : LayoutRec) :
    Statement (.pktCopy q h dst src r) := fun _ h => unpack_encode h
theorem waitbead (q : Nat) (h : PktHdr) (bead : Nat) :
    Statement (.waitbead q h bead) := fun _ h => unpack_encode h
theorem putbead (q : Nat) (h : PktHdr) (bead val : Nat) :
    Statement (.putbead q h bead val) := fun _ h => unpack_encode h
theorem takebead (q : Nat) (h : PktHdr) (bead : Nat) :
    Statement (.takebead q h bead) := fun _ h => unpack_encode h
theorem snapshot (q : Nat) (h : PktHdr) :
    Statement (.snapshot q h) := fun _ h => unpack_encode h
theorem snapshotRelease (q : Nat) (h : PktHdr) (stamp : Nat) :
    Statement (.snapshotRelease q h stamp) := fun _ h => unpack_encode h
theorem measure (q : Nat) (h : PktHdr) (stamp : Nat) (bufs : List (Nat × Nat)) :
    Statement (.measure q h stamp bufs) := fun _ h => unpack_encode h
theorem receipt (q : Nat) (h : PktHdr) (stamp dest : Nat) (bufs : List (Nat × Nat)) :
    Statement (.receipt q h stamp dest bufs) := fun _ h => unpack_encode h
theorem pktFence (q : Nat) (h : PktHdr) :
    Statement (.pktFence q h) := fun _ h => unpack_encode h
theorem indirect (q : Nat) (h : PktHdr) (addr units : Nat) :
    Statement (.indirect q h addr units) := fun _ h => unpack_encode h
theorem timestamp (q : Nat) (h : PktHdr) (addr : Nat) :
    Statement (.timestamp q h addr) := fun _ h => unpack_encode h
theorem queueUnmap (q : Nat) :
    Statement (.queueUnmap q) := fun _ h => unpack_encode h
theorem queueCreate (d : QueueDesc) :
    Statement (.queueCreate d) := fun _ h => unpack_encode h
theorem partitionCreate (d : PartDesc) :
    Statement (.partitionCreate d) := fun _ h => unpack_encode h
theorem partitionChange (d : PartDesc) :
    Statement (.partitionChange d) := fun _ h => unpack_encode h
theorem partitionRemove (top child : Nat) :
    Statement (.partitionRemove top child) := fun _ h => unpack_encode h
theorem msiCoalesceExpiry (func : Nat) :
    Statement (.msiCoalesceExpiry func) := fun _ h => unpack_encode h
theorem debugStep (p : Party) :
    Statement (.debugStep p) := fun _ h => unpack_encode h
theorem debugResume (ctx : Nat) :
    Statement (.debugResume ctx) := fun _ h => unpack_encode h
theorem debugRead (ctx : Nat) (r : DebugRef) :
    Statement (.debugRead ctx r) := fun _ h => unpack_encode h
theorem breakpointHit (p : Party) :
    Statement (.breakpointHit p) := fun _ h => unpack_encode h
theorem ckptInterval (ctx : Nat) :
    Statement (.ckptInterval ctx) := fun _ h => unpack_encode h
theorem rollback (ctx ck core count : Nat) :
    Statement (.rollback ctx ck core count) := fun _ h => unpack_encode h
theorem powerUp : Statement (.powerUp) := fun _ h => unpack_encode h
theorem debugAttach (ctx : Nat) :
    Statement (.debugAttach ctx) := fun _ h => unpack_encode h
theorem debugDetach (ctx : Nat) :
    Statement (.debugDetach ctx) := fun _ h => unpack_encode h
theorem coreOutOfService (core : Nat) :
    Statement (.coreOutOfService core) := fun _ h => unpack_encode h
theorem vyhalLinkFailure (ids : List Nat) :
    Statement (.vyhalLinkFailure ids) := fun _ h => unpack_encode h
theorem scrubbing (e : ErrAt) :
    Statement (.scrubbing e) := fun _ h => unpack_encode h
theorem peerAccessArrive (a : PeerAccess) :
    Statement (.peerAccessArrive a) := fun _ h => unpack_encode h
theorem hostWriteAccept (id : Nat) :
    Statement (.hostWriteAccept id) := fun _ h => unpack_encode h
theorem replayLogReadIndex (ctx idx : Nat) :
    Statement (.replayLogReadIndex ctx idx) := fun _ h => unpack_encode h

end FieldsKept

end Sys2Proof.Laws
end

