-- ==== Sys2Proof/Tests/Slice0.lean ====
section
/-!
SUPPORT. Tests: terms that are ill-formed, words put together from the spec's encodings, single steps with results from the spec's own
examples, and for each statement with hypotheses a witness that meets them.
-/
namespace Sys2Proof.Tests

open Sys2Proof Sys2Proof.Machine Sys2Proof.Safety

/-! ### Small states -/

/-- VER = 1, no hints, the guard that is always true, write-back on. -/
def cc : Ctl := ⟨true, 0, false, false, false, 7, false⟩
/-- The same with the guard always false. -/
def cf : Ctl := { cc with gn := true }
def r (n : BitVec 7) : Src := .reg n none false false
def sr (n : BitVec 7) : Src := .sreg n false false

/-- One workgroup of one frame with 32 lanes on core 0, whose party stands at this word. -/
def at1 (i : Instr) : State := { State.reset.placeWord (encode i) with cur := some (if isU i then .reck 0 else .frame 0 0 0) }
def onWg (f : Wg → Wg) (s : State) : State := match s.onCore 0 with | some w => s.setCore 0 (f w) | none => s
def onFrame (f : Frame → Frame) (s : State) : State := onWg (fun w => match w.frames with | fr :: t => { w with frames := f fr :: t } | [] => w) s
def onSplit (f : Split → Split) (s : State) : State := onFrame (fun fr => { fr with splits := fr.splits.map f }) s
def wg0 (s : State) : Option Wg := s.onCore 0
def onGrid (f : Grid → Grid) (s : State) : State := { s with grids := s.grids.map f }
/-- The grid runs under SYSTEM. -/
def sysGrid : State → State := onGrid (fun g => { g with lrec := { g.lrec with flags := 4 } })
/-- v16 to v23 hold `t` in every rod. -/
def tagged (t : Tag) : State → State := onFrame (fun fr => { fr with tags := (List.range 64).map (fun k => (128 * (k / 8) + 16 + k % 8, t)) })
/-- Lane 0's registers. -/
def lane0 (vs : List (Nat × Word32)) : State → State :=
  onFrame (fun fr => { fr with v := Tab.setAll 0#32 fr.v vs })
/-- s-registers. -/
def sregs (vs : List (Nat × Word64)) : State → State := onWg (fun w => { w with s := Tab.setAll 0#64 w.s vs })

/-- A queue with a ring of 16 slots, with nothing begun, mapped. -/
def desc0 : QueueDesc := ⟨0x1000, false, 4, 0, 0, 0, 0, 0, 0, false, false, 0⟩
def q0 : Queue := ⟨desc0, 0, 0, 0, true, none, .fresh, .fresh, none, [], [], none, none⟩
/-- A packet of one slot without beads or a signal. -/
def hdr : PktHdr := ⟨false, 1, false, false, false, 0, 0⟩
def withQ (x : Queue) (s : State) : State := s.setQueue 1 x

/-- The frame instruction issues, and the issued context meets `p`. -/
def goesF (s : State) (i : Instr) (p : FCtx → Bool) : Bool := match s.issueF i with | .go x => p x | _ => false
def goesR (s : State) (i : Instr) (p : RCtx → Bool) : Bool := match s.issueR i with | .go x => p x | _ => false
/-- It is well-formed and issues in its state, with every lane active or its guard true. -/
def okF (i : Instr) (s : State) : Bool := WellFormed i && goesF s i (fun x => decide (x.act = 0xFFFFFFFF#32))
def okR (i : Instr) (s : State) : Bool := WellFormed i && goesR s i (fun x => x.on)
def isOk {ε α : Type} : Except ε α → Bool | .ok _ => true | .error _ => false
/-- What the step leaves meets `p`. -/
def after (o : Host.Outcome State Fault Refusal) (p : State → Bool) : Bool := match o with | .next s => p s | _ => false
def onFr (s : State) (p : Frame → Bool) : Bool := match (s.onCore 0).bind (fun w => w.frame? 0) with | some fr => p fr | none => false
def onW (s : State) (p : Wg → Bool) : Bool := match s.onCore 0 with | some w => p w | none => false

theorem decode_of {w : BitVec 128} {i : Instr} (h : (decode w).toOption = some i) : decode w = .ok i := by
  cases hd : decode w with
  | ok j => rw [hd] at h; exact congrArg Except.ok (Option.some.inj h)
  | error e => rw [hd] at h; cases h

/-! ### Terms that are not well-formed, one for each check -/

/-- R26, R27: a hint with VER = 0. -/
theorem test_illformed_ver0 : WellFormed (.nop { cc with v1 := false, yld := true }) = false := by decide
/-- R32: WBS without a destination, an s-register above s63, a pair that is not aligned. -/
theorem test_illformed_destination :
    WellFormed (.nop { cc with wbs := true }) = false ∧ WellFormed (.srdU cc 64 0x22) = false ∧ WellFormed (.call cc 3 0) = false := by decide
/-- R34 to R37: a map where none is admitted, a sign where none is admitted, a latch that a pair cannot read, latch l3, s64, a pair at an odd
register. -/
theorem test_illformed_source :
    WellFormed (.brx cc (.reg 2 (some 0) false false)) = false ∧ WellFormed (.iabs cc false .i32 1 (.reg 2 none true false)) = false ∧
    WellFormed (.brx cc (.latch 0 false false)) = false ∧ WellFormed (.iabs cc false .i32 1 (.latch 3 false false)) = false ∧
    WellFormed (.iabs cc false .i32 1 (.sreg 64 false false)) = false ∧ WellFormed (.brx cc (r 3)) = false := by decide
/-- R39: an immediate where IMM holds a fixed operand, and two immediates. -/
theorem test_illformed_immediate :
    WellFormed (.ldl cc .b32 false 0 .int 1 (.imm 0) 0) = false ∧ WellFormed (.and cc false .i32 1 (.imm 1) (.imm 1)) = false := by decide
/-- R40: a member of a chain that writes its register. -/
theorem test_illformed_chain : WellFormed (.and { cc with chain := true } false .i32 1 (r 2) (r 3)) = false := by decide
/-- R47's further conditions: LEA's SH above 4, a type that ICMP does not admit, EF outside the conversions, CAS of 64 bits, COUNT 0, an
s-register group that ends above s63, a special register that does not exist. -/
theorem test_illformed_codes :
    WellFormed (.lea cc false false 5 1 (r 2) (r 3)) = false ∧ WellFormed (.icmp cc false .i32 .ord 1 (r 2) (r 3)) = false ∧
    WellFormed (.fadd cc .ef .x1 1 (r 2) (r 3)) = false ∧ WellFormed (.atoml cc .cas .i64 2 (r 4) (r 6) (some (r 8)) 0) = false ∧
    WellFormed (.barset cc 1 0 0) = false ∧ WellFormed (.tfetch cc 61) = false ∧ WellFormed (.srd cc 1 0x23) = false := by decide
/-- An event has no word. -/
theorem test_illformed_event : WellFormed .poolRelief = false := by decide

/-! ### Decoding -/

/-- R50: EXIT 0 with status 0 (an immediate), and SLEEP.u s5 under !q2: words put together from the fields of R24 and R34. -/
theorem test_decode_class0 :
    (decode 0x40380700008000000000000700000000#128).toOption = some (.exit ⟨true, 0, false, false, false, 7, false⟩ (.imm 0)) ∧
    (decode 0x40D00C00000280000000000700000000#128).toOption = some (.sleepU ⟨true, 0, false, false, true, 2, false⟩ (.reg 5 none false false)) ∧
    (decode 0x403804000A0000000000000780000001#128).toOption = some (.call ⟨true, 0, false, false, false, 7, false⟩ 10 0x80000001) := by decide

/-- R51, R61: ISUB.n64 with carry-in p3, v2:v3 from v4:v5 and v6:v7, borrow in p1; IMAD.u; LEA.64 with SH 3: words put together from the fields of R24 and R34. -/
theorem test_decode_class1 :
    (decode 0x403883EC020200030000000100000000#128).toOption = some (.isub ⟨true, 0, false, false, false, 7, false⟩ false .n64 true 3 2 1 (.reg 4 none false false) (.reg 6 none false false)) ∧
    (decode 0x40B8864009008080000180070000004D#128).toOption = some (.imad ⟨true, 0, false, false, false, 7, false⟩ true .n32 9 (.reg 1 none false false) (.imm 77) (.reg 3 none false false)) ∧
    (decode 0x40389D9808CA00018000000700000000#128).toOption = some (.lea ⟨true, 0, false, false, false, 7, false⟩ false true 3 8 (.sreg 20 false false) (.reg 3 none false false)) := by decide

/-- R52: FMUL.rz with −|v3| and a chain latch l1; FCLS with a mask: words put together from the fields of R24 and R34. -/
theorem test_decode_class2 :
    (decode 0x40390220070186408000000700000000#128).toOption = some (.fmul ⟨true, 0, false, false, false, 7, false⟩ .rz .x1 7 (.reg 3 none true true) (.latch 1 false false)) ∧
    (decode 0x403911000004800000000004000003FF#128).toOption = some (.fcls ⟨true, 0, false, false, false, 7, false⟩ 4 (.reg 9 none false false) 0x3FF) := by decide

/-- R52, R61: HMAX2 with NAN of BF16, and HCMP2.ge.un of FP16: words put together from the fields of R24 and R34. -/
theorem test_decode_class3 :
    (decode 0x40398518010100018000000700000000#128).toOption = some (.hmax2 ⟨true, 0, false, false, false, 7, false⟩ true true 1 (.reg 2 none false false) (.reg 3 none false false)) ∧
    (decode 0x403987B0010100018000000700000000#128).toOption = some (.hcmp2 ⟨true, 0, false, false, false, 7, false⟩ .ge true false 1 (.reg 2 none false false) (.reg 3 none false false)) := by decide

/-- R53, R61: CVT4.ef with residues e8 to e15, CVT8.sat.e5m2, RETAG to E4M3X4: words put together from the fields of R24 and R34. -/
theorem test_decode_class4 :
    (decode 0x403A03A0030800C28000000700000008#128).toOption = some (.cvt4 ⟨true, 0, false, false, false, 7, false⟩ true 3 (.reg 16 none false false) (.sreg 5 false false) 8) ∧
    (decode 0x403A0218030800000000000700000000#128).toOption = some (.cvt8 ⟨true, 0, false, false, false, 7, false⟩ .rne true true .x1 3 (.reg 16 none false false) 0) ∧
    (decode 0x403A0A04030180000000000700000000#128).toOption = some (.retag ⟨true, 0, false, false, false, 7, false⟩ .e4m3x4 3 (.reg 3 none false false)) := by decide

/-- R54, R61: FCMP.lt.un to p2, SEL by !p5, PSET.xor of !p1 and p6, PMOV into p0 to p6: words put together from the fields of R24 and R34. -/
theorem test_decode_class5 :
    (decode 0x403A8150000080010000000200000000#128).toOption = some (.fcmp ⟨true, 0, false, false, false, 7, false⟩ true .lt 2 (.reg 1 none false false) (.reg 2 none false false)) ∧
    (decode 0x403A8258010080010000000700000000#128).toOption = some (.sel ⟨true, 0, false, false, false, 7, false⟩ false 5 true .x1 1 (.reg 1 none false false) (.reg 2 none false false)) ∧
    (decode 0x403A8320000000000000000000000069#128).toOption = some (.pset ⟨true, 0, false, false, false, 7, false⟩ false .xor 0 1 true 6 false) ∧
    (decode 0x403A8401000200000000000700000000#128).toOption = some (.pmov ⟨true, 0, false, false, false, 7, false⟩ true 0 (some (.reg 4 none false false))) := by decide

/-- R54, R61: SHFL.down by an immediate, SCAN.max.n32 exclusive, VOTE.ballot of p3: words put together from the fields of R24 and R34. -/
theorem test_decode_class6 :
    (decode 0x403B0080010100800000000700000004#128).toOption = some (.shfl ⟨true, 0, false, false, false, 7, false⟩ .down 1 (.reg 2 none false false) (.imm 4)) ∧
    (decode 0x403B044C010100000000000700000000#128).toOption = some (.scan ⟨true, 0, false, false, false, 7, false⟩ .max .n32 true 1 (.reg 2 none false false)) ∧
    (decode 0x403B02C0010000000000000700000003#128).toOption = some (.vote ⟨true, 0, false, false, false, 7, false⟩ .ballot 1 7 3 false) := by decide

/-- R55, R61: MAPBIND.f4b of quad 2, slot m3; MAPRD of quad 1, slot m2, row 31, word 5; MAPMODE.full of all quads: words put together from the fields of R24 and R34. -/
theorem test_decode_class7 :
    (decode 0x40BB8098060380000000000700000003#128).toOption = some (.mapbind ⟨true, 0, false, false, false, 7, false⟩ .f4b (some 2) 6 (.reg 7 none false false) 3) ∧
    (decode 0x40BB84140600000000000007000005FA#128).toOption = some (.maprd ⟨true, 0, false, false, false, 7, false⟩ 1 6 2 31 5) ∧
    (decode 0x40BB8201000000000000000700000007#128).toOption = some (.mapmode ⟨true, 0, false, false, false, 7, false⟩ none true 7) := by decide

/-- R56, R45: LDL.32.bf16x2 of the rule's own example MOD 0x43, STL.128 with policy keep, ATOML.cas.n32: words put together from the fields of R24 and R34. -/
theorem test_decode_class8 :
    (decode 0x403C00430400800000000007FFFFFFFC#128).toOption = some (.ldl ⟨true, 0, false, false, false, 7, false⟩ .b32 false 0 .bf16x2 4 (.reg 1 none false false) 0xFFFFFFFC) ∧
    (decode 0x403C0188000080040000000700000010#128).toOption = some (.stl ⟨true, 0, false, false, false, 7, false⟩ .b128 2 (.reg 1 none false false) (.reg 8 none false false) 16) ∧
    (decode 0x403C02E4020080020003000700000000#128).toOption = some (.atoml ⟨true, 0, false, false, false, 7, false⟩ .cas .n32 2 (.reg 1 none false false) (.reg 4 none false false) (some (.reg 6 none false false)) 0) := by decide

/-- R56, R45: LDG.8 sign-extended with policy bypass, STG.64: words put together from the fields of R24 and R34. -/
theorem test_decode_class9 :
    (decode 0x403C801C04C500010000000700000005#128).toOption = some (.ldg ⟨true, 0, false, false, false, 7, false⟩ .b8 true 3 .int 4 (.sreg 10 false false) (.reg 2 none false false) 5) ∧
    (decode 0x403C816000C500010003000700000000#128).toOption = some (.stg ⟨true, 0, false, false, false, 7, false⟩ .b64 0 (.sreg 10 false false) (.reg 2 none false false) (.reg 6 none false false) 0) := by decide

/-- R56: STH.16 and LDX.32: words put together from the fields of R24 and R34. -/
theorem test_decode_class10 :
    (decode 0x403D0120000100020000000700000002#128).toOption = some (.sth ⟨true, 0, false, false, false, 7, false⟩ .b16 0 (.reg 2 none false false) (.reg 4 none false false) 2) ∧
    (decode 0x403D0241040100000000000700000000#128).toOption = some (.ldx ⟨true, 0, false, false, false, 7, false⟩ .b32 false 0 .f32 4 (.reg 2 none false false) 0) := by decide

/-- R57, R61: ATOM.max.i64, BPEEK with p1, BINIT.up: words put together from the fields of R24 and R34. -/
theorem test_decode_class11 :
    (decode 0x403D8048040100030000000700000000#128).toOption = some (.atom ⟨true, 0, false, false, false, 7, false⟩ .max .i64 4 (.reg 2 none false false) (.reg 6 none false false) 0) ∧
    (decode 0x403D8700040100000000000100000008#128).toOption = some (.bpeek ⟨true, 0, false, false, false, 7, false⟩ 4 1 (.reg 2 none false false) 8) ∧
    (decode 0x403D8801000100020000000700000000#128).toOption = some (.binit ⟨true, 0, false, false, false, 7, false⟩ true (.reg 2 none false false) (.reg 4 none false false) 0) := by decide

/-- R58: COPY with its status in s9, and CANCEL of it: words put together from the fields of R24 and R34. -/
theorem test_decode_class12 :
    (decode 0x40BE0000090100020003000700000000#128).toOption = some (.copy ⟨true, 0, false, false, false, 7, false⟩ 9 (.reg 2 none false false) (.reg 4 none false false) (.reg 6 none false false)) ∧
    (decode 0x40BE0200090480000000000700000000#128).toOption = some (.cancel ⟨true, 0, false, false, false, 7, false⟩ 9 (.reg 9 none false false)) := by decide

/-- R58, R61, R46: BAR.add.n32.rel.vec on c5 with s33 and v1; BARSET of frame 15 and the reckoner, count 2, b9; FENCE.system.sc: words put together from the fields of R24 and R34. -/
theorem test_decode_class13 :
    (decode 0x403E802D0101000000000007A1000015#128).toOption = some (.bar ⟨true, 0, false, false, false, 7, false⟩ (some .add) .n32 true false true 1 (some (.reg 2 none false false)) (.cluster 5) true 33) ∧
    (decode 0x403E83000000000000000007C0000809#128).toOption = some (.barset ⟨true, 0, false, false, false, 7, false⟩ 0x18000 2 9) ∧
    (decode 0x403E84B8000000000000000700000000#128).toOption = some (.fence ⟨true, 0, false, false, false, 7, false⟩ .system .sc) := by decide

/-- R58: SRD.u of register 0x22, TFETCH to s60 to s63, SIGNAL of event 31: words put together from the fields of R24 and R34. -/
theorem test_decode_class14 :
    (decode 0x40BF0000050000000000000700000022#128).toOption = some (.srdU ⟨true, 0, false, false, false, 7, false⟩ 5 0x22) ∧
    (decode 0x40BF02003C0000000000000700000000#128).toOption = some (.tfetch ⟨true, 0, false, false, false, 7, false⟩ 60) ∧
    (decode 0x403F0B0000018000000000070000001F#128).toOption = some (.signal ⟨true, 0, false, false, false, 7, false⟩ (.reg 3 none false false) 31) := by decide

/-! ### Single steps: what the spec's own examples give -/

/-- Lane 0 of the next state. -/
def gives (i : Instr) (vs : List (Nat × Word32)) (t : Tag) (n : Nat) (v : Word32) : Bool :=
  after (exec i (lane0 vs (tagged t (at1 i)))) (fun s => onFr s (fun fr => decide (fr.vreg 0 n = v)))
def flags0 (i : Instr) (vs : List (Nat × Word32)) (t : Tag) (v : BitVec 5) : Bool :=
  after (exec i (lane0 vs (tagged t (at1 i)))) (fun s => onFr s (fun fr => decide (fr.flagsOf 0 = v)))

/-- R122: a carry in and out: 0xFFFFFFFF + 0 + 1. -/
theorem test_iadd_carry : (let i := Instr.iadd cc false .i32 true 1 4 2 (r 2) (r 3)
    after (exec i (lane0 [(2, 0xFFFFFFFF)] (onFrame (fun fr => { fr with preds := [(1, true)] }) (at1 i)))) (fun s =>
      onFr s (fun fr => decide (fr.vreg 0 4 = 0) && fr.pred 0 2))) = true := by decide +kernel

/-- The example beside R125. -/
theorem test_imulh : gives (.imulh cc false .i32 4 (r 2) (r 3)) [(2, 0xFFFFFFFF), (3, 2)] .int 4 0xFFFFFFFF &&
    gives (.imulh cc false .n32 4 (r 2) (r 3)) [(2, 0xFFFFFFFF), (3, 2)] .int 4 1 = true := by decide +kernel

/-- R126's examples. -/
theorem test_idiv : gives (.idiv cc false .i32 4 (r 2) (r 3)) [(2, 0xFFFFFFF9), (3, 2)] .int 4 0xFFFFFFFD = true := by decide +kernel
theorem test_irem : gives (.irem cc false .i32 4 (r 2) (r 3)) [(2, 0xFFFFFFF9), (3, 2)] .int 4 0xFFFFFFFF &&
    gives (.irem cc false .i32 4 (r 2) (r 3)) [(2, 7), (3, 0xFFFFFFFE)] .int 4 1 = true := by decide +kernel

/-- R187's worked counter. -/
theorem test_rng : (let i := Instr.rng cc 9 (r 1) (.imm 0) (sr 20); gives i [(1, 1)] .int 9 0x75FC4C13 && gives i [(1, 0)] .int 9 0) = true := by decide +kernel

/-- The example beside R149: FFRC of -2.25 is -0.25, and FRND under RD is -3.0. -/
theorem test_ffrc : gives (.ffrc cc 4 (r 16)) [(16, 0xC0100000)] .f32 4 0xBE800000 = true := by decide +kernel
theorem test_frnd : gives (.frnd cc .rd 4 (r 16)) [(16, 0xC0100000)] .f32 4 0xC0400000 = true := by decide +kernel

/-- The example beside R155: HDOT2 keeps 2^-20, HMUL2 rounds it away and raises inexact. -/
theorem test_hdot2 : (let i := Instr.hdot2 cc .rne false 4 (r 16) (r 17) (.imm 0); let vs := [(16, 0x3C003C01#32), (17, 0xBC003C01#32)]
    gives i vs .f16x2 4 0x3B001000 && flags0 i vs .f16x2 0) = true := by decide +kernel
theorem test_hmul2 : (let i := Instr.hmul2 cc .rne false 4 (r 16) (r 17); let vs := [(16, 0x3C003C01#32), (17, 0xBC003C01#32)]
    gives i vs .f16x2 4 0xBC003C02 && flags0 i vs .f16x2 0x10) = true := by decide +kernel

/-- The example beside R159. -/
theorem test_cvt2 : (let vs := [(16, 0x4788B800#32), (17, 0xB2800000#32)]
    gives (.cvt2 cc .rne true false .x1 4 (r 16) 0) vs .f32 4 0x80007BFF && gives (.cvt2 cc .rne false false .x1 4 (r 16) 0) vs .f32 4 0x80007C00) = true := by
  decide +kernel

/-- R184: the ballot of p1, which is true in lanes 0 and 5. -/
theorem test_vote : (let i := Instr.vote cc .all 4 2 1 false
    after (exec i (onFrame (fun fr => { fr with preds := [(1, true), (41, true)] }) (at1 i))) (fun s =>
      onFr s (fun fr => decide (fr.vreg 31 4 = 0x21) && !fr.pred 31 2))) = true := by decide +kernel

/-- R202's table: frame lanes 1 and 3 leave, and %fmask gains 0xA. -/
theorem test_ldl_mask : (let i := Instr.ldl cc .b32 false 0 .int 4 (r 2) 0
    let s := onFrame (fun fr => { fr with v := Tab.setAll 0#32 [] [(2, 0x100), (130, 0x102), (258, 0xFFFC), (386, 0x10000)] })
      (onWg (fun w => { w with code := { w.code with extent := 65536 } }) (at1 i))
    after (exec i s) (fun s => onFr s (fun fr => decide (fr.fmask = 0xA) && decide (fr.live = 0xFFFFFFF5)))) = true := by decide +kernel

/-- The example beside R242: an exact sum over FP8 planes, rounded once. -/
theorem test_map_fp8 : (let i := Instr.fadd cc .rne .x4 8 (.reg 4 (some 0) false false) (.imm 0)
    let s := onFrame (fun fr => { fr with v := Tab.setAll 0#32 [] [(4, 0x7B), (132, 1)], tags := (List.range 8).map (fun k => (128 * k + 4, Tag.e5m2x4)) })
      (onWg (fun w => { w with slots := [(0, { w.slot 0 0 with binding := .bound, fmt := .e4m3, bytes := [(0, 0x7E), (1, 1)] })] }) (at1 i))
    after (exec i s) (fun s => onW s (fun w => w.passes.any (fun p => p.writes.v.contains (8, 0x4BC40000#32))))) = true := by decide +kernel

/-- R90, R175, R377: a TRAP holds its grid; ILLEGAL ends it. -/
theorem test_trap_holds : (let i := Instr.trap cc (r 2)
    after (exec i (withQ q0 { at1 i with grids := [{ oneGrid (oneWord (encode i)) with queue := 1 }] })) (fun s =>
      (s.grid? 1).any (fun g => decide (g.st = .held)) && (s.queue? 1).any (fun x => decide (x.stop = 0 ∧ x.reports.length = 1)))) = true := by decide +kernel
theorem test_und_ends : (let i := Instr.und cc false
    after (exec i (withQ q0 { at1 i with grids := [{ oneGrid (oneWord (encode i)) with queue := 1 }] })) (fun s =>
      (s.grid? 1).isNone && (s.onCore 0).isNone && (s.queue? 1).any (fun x => decide (x.stop = 0x15)))) = true := by decide +kernel

/-- R170: BRA.u with a false guard passes; with a true one and displacement -1 it comes back to its own word. -/
theorem test_brau : ([(true, 0x10010#64), (false, 0x10000#64)].all (fun p =>
    let i := Instr.braU { cc with gn := p.1 } 0xFFFFFFFF
    after (exec i (at1 i)) (fun s => onW s (fun w => decide (w.rpc = p.2 ∧ w.dq.length = 1))))) = true := by decide +kernel

/-! ### Witnesses: issue, faults, control -/

/-- A placed word starts with nothing outstanding, and may issue. -/
def ready (s : State) (i : Instr) : Bool :=
  match i.shape, s.onCore 0 with
  | some p, some w =>
    decide (w.run = .running) && !w.halt && w.storage.isNone && !s.attached w && !s.replayStop w && w.passes.isEmpty && w.reqs.isEmpty &&
      w.pend.isEmpty && w.slotOps.isEmpty && w.acts.isEmpty && w.copies.all (fun c => decide (c.st ≠ .issued)) && !s.ckptDue (s.ctxOfWg w) &&
      s.mayStamp (s.ctxOfWg w) w none && !s.stillExpects (s.ctxOfWg w) w.missed && !s.meshLoadsHere w && decide (w.phase.s ≤ s.frontier 0) && decide (w.freeEntries.dq.length < 64) &&
      (if p.u then decide (s.cur = some (.reck 0)) && !w.rdbg && decide (w.rst = .run) && !w.allDead
       else decide (s.cur = some (.frame 0 0 0)) &&
        match w.frames with
        | fr :: _ => match fr.split? 0 with
          | some sp => !sp.dbg && decide (sp.st = .run) && !fr.isParked 0 && fr.defer.isEmpty && !fr.yielded
          | none => false
        | [] => false)
  | _, _ => false

/-- Whether the word is legal where it stands (R47). -/
def legalAt (s : State) (i : Instr) : Bool :=
  match i.shape, s.onCore 0 with
  | some p, some w => if p.u then reckLegal s w i p else (w.frames.head?.bind (fun fr => fr.split? 0)).any (fun sp => frameLegal s w sp i p)
  | _, _ => false

theorem wit_StepAnswers : Inv State.reset := by
  refine ⟨rfl, rfl, fun e he => ?_, fun q x i h => ?_⟩
  · cases he
  · cases h

theorem wit_DecodeEncode : WellFormed (.exit cc (.imm 0)) = true := by decide
/-- A reserved bit, VER 2, class 0xF, and a word that decodes. -/
theorem wit_WordsDecode :
    (0x01000000000000000000000000000000#128).getLsbD 120 = true ∧ 2 ≤ ((0x80000000000000000000000000000000#128).extractLsb' 126 2).toNat ∧
    ((0x00078000000000000000000000000000#128).extractLsb' 111 4).toNat = 15 ∧ (decode (encode (.nop cc))).toOption = some (.nop cc) := by
  refine ⟨?_, ?_, ?_, ?_⟩ <;> decide +kernel

/-- Each way in which a turn finds its instruction. -/
theorem wit_StepRunsDecoded :
    ([(Instr.nop cc, Turn.frame 0 0 0), (.nopU cc, .reck 0), (.nopU cc, .frame 0 0 0)].all (fun p =>
      let s := { at1 p.1 with agenda := [(p.2, 1)] };
      decide (s.nextTurn.1 = p.2) && !((s.nextTurn.2.settleCore 0).gate 0).2 &&
        onW ((s.nextTurn.2.settleCore 0).gate 0).1 (fun w => (decode (w.code.word 0x10000)).toOption == some p.1))) = true ∧
    (let s := withQ { q0 with now := some (.timestamp 1 hdr 0) } { State.reset with agenda := [(.thread 1 false, 1)] };
      decide (s.nextTurn.1 = .thread 1 false) && (s.queue? 1).any (fun x => x.mapped && decide (x.stop = 0) && !x.overrun && x.now.isSome)) = true ∧
    eventInstr .poolRelief = true := by decide

/-- R329: a step that takes a stamp. -/
theorem wit_StampsGrow : after (exec (.phaseEntryArrival 0 1) State.reset) (fun _ => true) = true := by decide

theorem wit_SourceValues :
    -- a latch of a chain, s0, F32 registers, a tag that is not F32, and a bound slot
    (∃ (sp : Split) (ch : Chain), sp.chain = some ch ∧ ch.latches[0]?.isSome = true) ∧
    (onW (at1 (.nop cc)) (fun w => decide (w.sFrame 0 0x10000 0 = some 1#64))) = true ∧
    onFr (tagged .f32 (at1 (.nop cc))) (fun fr => (rodsOf 0xFFFFFFFF#32).all (fun k => decide (fr.tagOf k 16 = .f32))) = true ∧
    onFr (at1 (.nop cc)) (fun fr => decide (fr.tagOf 0 16 ≠ .f32)) = true ∧
    onW (onWg (fun w => { w with slots := [(8 * 0 + 2, { w.slot 0 2 with binding := .bound, fmt := .bf16 })] }) (at1 (.nop cc)))
      (fun w => decide ((w.slot 0 2).binding = .bound) && !(w.slot 0 2).full && slotAdmits (w.slot 0 2).fmt .bf16x2) = true := by
  refine ⟨⟨⟨0, 1, 0, .run, some ⟨0, [⟨[], []⟩]⟩, false, false, none, false, false, 0, [], []⟩, ⟨0, [⟨[], []⟩]⟩, rfl, rfl⟩, ?_, ?_, ?_, ?_⟩ <;> decide

/-- A frame instruction, a privileged one of a system grid, one that gathers in a frame of one split, and a U instruction. -/
theorem wit_InstructionsIssue :
    ([.iabs cc false .i32 1 (r 2), .shfl cc .idx 1 (r 2) (r 3), .nopU cc].all (fun i => ready (at1 i) i && legalAt (at1 i) i)) = true ∧
    ready (sysGrid (at1 (.signal cc (r 1) 3))) (.signal cc (r 1) 3) = true := by decide

/-- A register above the code object's count, a privileged instruction of a plain grid, and both forms of UND. -/
theorem wit_IllegalAndUnd :
    (let i := Instr.iabs cc false .i32 120 (r 2)
      let s := onWg (fun w => { w with code := { w.code with regs := 64 } }) (at1 i)
      ready s i && !legalAt s i) = true ∧
    (let i := Instr.signal cc (r 1) 3; ready (at1 i) i && legalAt (at1 i) i && i.privileged && ((at1 i).grids.all (fun g => !g.system))) = true ∧
    (ready (at1 (.und cc true)) (.und cc true) && !legalAt (at1 (.und cc true)) (.und cc true)) = true ∧
    ready (at1 (.und cc false)) (.und cc false) = true := by decide

/-- A workgroup of its grid's queue, without a packet, and with one that puts a bead and one that puts none. -/
theorem wit_FaultTaken :
    ([(none, []), (some 4, [⟨4, none, false, none, .fresh, 0, []⟩]), (some 4, [⟨4, some 0x8, false, none, .fresh, 0, []⟩])].all
      (fun (p : Option Nat × List OpenPkt) =>
        let s := withQ { q0 with pkts := p.2 } (onGrid (fun g => { g with queue := 1, packet := p.1 }) (at1 (.nop cc)))
        (s.queue? 1).any (fun q => decide (q.pkts = p.2)) && (s.grid? 1).any (fun g => decide (g.packet = p.1) && !g.contain))) = true ∧
    (onW (at1 (.nop cc)) (fun w => decide (w.core = 0) && decide (w.run = .running) && !(at1 (.nop cc)).attached w &&
      ((at1 (.nop cc)).wgs.all (fun v => decide (v = w))) && ((at1 (.nop cc)).grid? w.grid).isSome)) = true ∧
    ((at1 (.nop cc)).cores.all (fun p => match p.2 with | some w => decide (w.core = p.1) | none => true)) = true ∧
    ((at1 (.nop cc)).grids.all (fun g => !g.contain)) = true := by decide

/-- NOP with STALL, REJOIN, YIELD and SLEEP, with and without an active lane. -/
theorem wit_PlainControl :
    ([Instr.nop { cc with stall := 7 }, .rejoin cc, .yld cc, .sleep cc (r 2)].all (fun i => okF i (at1 i))) = true ∧
    (WellFormed (.sleep cf (r 2)) && goesF (at1 (.sleep cf (r 2))) (.sleep cf (r 2)) (fun x => decide (x.act = 0#32))) = true := by decide

/-- Targets: the word itself and the last word of TEXT; one past it; an address that is no multiple of 16. -/
def good (o : CodeObj) (t : Word64) : Bool := decide (t.toNat % 16 = 0) && decide (o.text ≤ t.toNat) && decide (t.toNat < o.text + o.size)
theorem wit_Branches :
    ([(Instr.bra cc 0xFFFFFFFF, 0x10000#64), (.bra cc 0, 0x10010#64), (.call cc 4 0, 0x10010#64), (.brx cc (sr 8), 0x10010#64),
      (.callx cc 4 (sr 8), 0x10010#64), (.ret cc (sr 8), 0x10010#64)].all
      (fun p => okF p.1 (sregs [(8, 0x10010#64)] (at1 p.1)) && goesF (sregs [(8, 0x10010#64)] (at1 p.1)) p.1 (fun x =>
        match targetOf x p.1 with | some g => decide (g 0 = p.2) && decide (g 31 = p.2) && good x.w.code p.2 | none => false))) = true ∧
    ([(0x10020#64, false), (0x1000C#64, true)].all (fun p => goesF (sregs [(8, p.1)] (at1 (.brx cc (sr 8)))) (.brx cc (sr 8)) (fun x =>
        decide (x.act.getLsbD 0 = true) && match targetOf x (.brx cc (sr 8)) with
          | some g => (if p.2 then decide ((g 0).toNat % 16 ≠ 0) else decide ((g 0).toNat % 16 = 0) && !good x.w.code (g 0)) | none => false))) = true := by
  decide

/-- With every lane, with half of them, with none, and with a debugger. -/
theorem wit_ExitAndTraps :
    ([Instr.exit cc (r 0), .trap cc (r 0), .brk cc 0xFFFF].all (fun i => okF i (at1 i))) = true ∧
    ([Instr.trap cf (r 0), .brk cf 5].all (fun i => WellFormed i && goesF (at1 i) i (fun x => decide (x.act = 0#32)))) = true ∧
    goesF (onFrame (fun fr => { fr with preds := (List.range 16).map (fun l => (16 * l + 1, true)) }) (at1 (.exit { cc with gp := 1 } (r 0))))
      (.exit { cc with gp := 1 } (r 0)) (fun x => x.act.getLsbD 0 && !x.act.getLsbD 1) = true ∧
    goesF (at1 (.brk cc 5)) (.brk cc 5) (fun x => !(at1 (.brk cc 5)).attached x.w) = true ∧
    goesF ({ at1 (.brk cc 5) with ctxs := [(0, some { Ctx.fresh 0 with attached := true })] }) (.brk cc 5)
      (fun x => ({ at1 (.brk cc 5) with ctxs := [(0, some { Ctx.fresh 0 with attached := true })] } : State).attached x.w) = true := by decide

theorem wit_UControl :
    ([Instr.nopU cf, .braU cf 0, .exitU cf (r 2), .trapU cf (r 2), .sleepU cf (r 2)].all
      (fun i => isU i && goesR (at1 i) i (fun x => !x.on))) = true ∧
    ([Instr.nopU cc, .braU cc 0xFFFFFFFF, .braU cc 1, .exitU cc (r 2), .trapU cc (r 2), .sleepU cc (r 2)].all
      (fun i => okR i (at1 i))) = true ∧
    onW (at1 (.nopU cc)) (fun w => good w.code 0x10000#64 && !good w.code 0x10020#64) = true := by decide

/-! ### Witnesses: results of computing instructions -/

/-- Every form with a 32-bit result, of a frame or of the reckoner. -/
def forms32 (u : Bool) : List Instr :=
  [.movi cc u .i32 1 5, .imul cc u .i32 1 (r 2) (r 3), .imulh cc u .n32 1 (r 2) (r 3), .imad cc u .i32 1 (r 2) (r 3) (r 4),
   .idiv cc u .i32 1 (r 2) (r 3), .irem cc u .n32 1 (r 2) (r 3), .imin cc u .i32 1 (r 2) (r 3), .imax cc u .n32 1 (r 2) (r 3),
   .iabs cc u .i32 1 (r 2), .and cc u .i32 1 (r 2) (r 3), .or cc u .i32 1 (r 2) (r 3), .xor cc u .i32 1 (r 2) (r 3), .not cc u .i32 1 (r 2),
   .shl cc u .i32 1 (r 2) (r 3), .shr cc u .i32 1 (r 2) (r 3), .sar cc u .i32 1 (r 2) (r 3), .fshl cc u .i32 1 (r 2) (r 3) (r 4),
   .fshr cc u .i32 1 (r 2) (r 3) (r 4), .popc cc u .i32 1 (r 2), .clz cc u .i32 1 (r 2), .ctz cc u .i32 1 (r 2), .brev cc u .i32 1 (r 2),
   .bfx cc u .i32 1 (r 2) (r 3) (r 4), .bfi cc u .i32 1 (r 2) (r 3) (r 4), .bpick cc u .i32 1 (r 2) (r 3) (r 4), .lea cc u false 4 1 (r 2) (r 3)]
/-- Every form whose operands are 64-bit. -/
def forms64 (u : Bool) : List Instr :=
  [.imin cc u .i64 2 (r 4) (r 6), .imax cc u .n64 2 (r 4) (r 6), .and cc u .i64 2 (r 4) (r 6), .or cc u .i64 2 (r 4) (r 6),
   .xor cc u .i64 2 (r 4) (r 6), .not cc u .i64 2 (r 4)]
def shifts64 (u : Bool) : List Instr := [.shl cc u .i64 2 (r 4) (r 6), .shr cc u .n64 2 (r 4) (r 6), .sar cc u .i64 2 (r 4) (r 6)]
/-- The others of class 0x1, with and without a predicate. -/
def formsCarry (u : Bool) : List Instr :=
  [.iadd cc u .i32 true 1 2 3 (r 4) (r 6), .isub cc u .n64 false 0 2 7 (r 4) (r 6), .iadd3 cc u .i32 2 1 (r 4) (r 6) (r 8),
   .lea cc u true 4 2 (r 4) (r 6), .imadw cc u .i32 2 (r 4) (r 5) (r 6)]

theorem wit_IntegerFrameResults :
    ((forms32 false ++ [Instr.rng cc 1 (r 2) (sr 3) (sr 4)]).all (fun i => (int32Of i).isSome && !isU i && okF i (at1 i))) = true ∧
    ((forms64 false).all (fun i => (int64Of i).isSome && okF i (at1 i))) = true ∧
    ((shifts64 false).all (fun i => (shift64Of i).isSome && okF i (at1 i))) = true ∧
    ((formsCarry false).all (fun i => okF i (at1 i))) = true := by decide

theorem wit_IntegerUResults :
    ((forms32 true).all (fun i => (int32Of i).isSome && isU i && okR i (at1 i))) = true ∧
    ((forms64 true).all (fun i => (int64Of i).isSome && okR i (at1 i))) = true ∧
    ((shifts64 true).all (fun i => (shift64Of i).isSome && okR i (at1 i))) = true ∧
    ((formsCarry true ++ [Instr.mov cc true .i64 2 (r 3), .icmp cc true .n32 .lt 1 (r 2) (r 3), .pset cc true .xor 7 1 true 2 false,
      .sel cc true 5 true .x1 1 (r 2) (r 3)]).all (fun i => okR i (at1 i))) = true := by decide

/-- A MOV and a SEL of registers of one tag, and a mapped MOV over a bound slot. -/
def bound (t : Tag) (fmt : SlotFmt) (s : State) : State :=
  tagged t (onWg (fun w => { w with slots := [(0, { w.slot 0 0 with binding := .bound, fmt := fmt })] }) s)
def mp : Src := .reg 16 (some 0) false false
theorem wit_MoveResults :
    ([Instr.mov cc false .i32 1 (r 2), .mov cc false .i64 2 (r 4)].all (fun i => okF i (at1 i))) = true ∧
    (okF (.mov cc false .i32 1 mp) (bound .f32 .bf16 (at1 (.mov cc false .i32 1 mp))) &&
      goesF (bound .f32 .bf16 (at1 (.mov cc false .i32 1 mp))) (.mov cc false .i32 1 mp) (fun x => mp.mapped && isOk (x.f32 mp 1))) = true ∧
    goesF (at1 (.sel cc false 1 false .x1 1 (r 2) (r 3))) (.sel cc false 1 false .x1 1 (r 2) (r 3)) (fun x =>
      isOk (x.selSrc (r 2) 1) && isOk (x.selSrc (r 3) 1) &&
        (rodsOf x.act).all (fun k => decide (commonTag (x.selTag (r 2) 0 k) (x.selTag (r 3) 0 k) = some .int))) = true := by decide

theorem wit_PredicateResults :
    ([Instr.icmp cc false .i64 .ge 1 (r 2) (r 4), .pset cc false .or 1 2 true 7 false, .pmov cc false 1 none,
      .pmov cc true 0 (some (r 2))].all (fun i => okF i (at1 i))) = true ∧
    (let i := Instr.fcmp cc true .lt 1 (r 16) (r 17); okF i (tagged .f32 (at1 i)) &&
      goesF (tagged .f32 (at1 i)) i (fun x => isOk (x.f32 (r 16) 1) && isOk (x.f32 (r 17) 1))) = true := by decide

/-- Every FP32 instruction, and one with two planes. -/
def formsFp : List Instr :=
  [.fadd cc .rne .x1 1 (r 16) (r 17), .fsub cc .rz .x1 1 (r 16) (r 17), .fmul cc .rd .x1 1 (r 16) (r 17), .ffma cc .ru .x1 1 (r 16) (r 17) (r 18),
   .fmin cc false .x1 1 (r 16) (r 17), .fmax cc true .x1 1 (r 16) (r 17), .fdiv cc .rna 1 (r 16) (r 17), .fsqrt cc .rne 1 (r 16),
   .frcp cc .rne 1 (r 16), .frsq cc .rne 1 (r 16), .fexp2 cc .rne 1 (r 16), .flog2 cc .rne 1 (r 16), .fsinpi cc .rne 1 (r 16),
   .fcospi cc .rne 1 (r 16), .ftanh cc .rne 1 (r 16), .frnd cc .rne 1 (r 16), .ffrc cc 1 (r 16)]
theorem wit_FpResults :
    (formsFp.all (fun i => match fpOf i with
      | some (n, _) => okF i (tagged .f32 (at1 i)) &&
          goesF (tagged .f32 (at1 i)) i (fun x => isOk (x.f32 (srcA i) n) && isOk (x.f32 (srcB i) n) && isOk (x.f32 (srcC i) n))
      | none => false)) = true ∧
    (let i := Instr.ffma cc .rne .x2 2 mp (r 18) (r 20)
     let s := bound .f32 .bf16 (onFrame (fun fr => fr) (at1 i)); WellFormed i && (fpOf i).isSome && (i.shape.any (·.anyMapped)) && ready s i) = true ∧
    ([Instr.fcls cc 1 (r 16) 0x3FF, .fscl cc .rne 1 (r 16) (r 2)].all (fun i => okF i (tagged .f32 (at1 i)) &&
      goesF (tagged .f32 (at1 i)) i (fun x => isOk (x.f32 (r 16) 1)))) = true := by decide

/-- Every packed instruction. -/
def formsPacked : List Instr :=
  [.hadd2 cc .rne true 1 (r 16) (r 17), .hsub2 cc .rne true 1 (r 16) (r 17), .hmul2 cc .rne true 1 (r 16) (r 17),
   .hfma2 cc .rne true 1 (r 16) (r 17) (r 18), .hmin2 cc false true 1 (r 16) (r 17), .hmax2 cc true true 1 (r 16) (r 17),
   .hcmp2 cc .ge true true 1 (r 16) (r 17), .hxcvt2 cc .rne true 1 (r 16)]
theorem wit_PackedResults :
    (formsPacked.all (fun i => match packedOf i with
      | some (bf, _, _) => okF i (tagged .bf16x2 (at1 i)) &&
          goesF (tagged .bf16x2 (at1 i)) i (fun x => isOk (x.h2 (srcA i) bf) && isOk (x.h2 (srcB i) bf) && isOk (x.h2 (srcC i) bf))
      | none => false)) = true ∧
    (let i := Instr.hdot2 cc .rne true 1 (r 16) (r 17) (.imm 0)
     okF i (tagged .bf16x2 (at1 i)) &&
      goesF (tagged .bf16x2 (at1 i)) i (fun x => isOk (x.h2 (r 16) true) && isOk (x.h2 (r 17) true) && isOk (x.f32 (.imm 0) 1))) = true := by
  decide

theorem wit_ConversionResults :
    ([Instr.cvt cc .ef true .f32ToI32 .x1 1 (r 16) 31, .cvt2 cc .ef false true .x1 1 (r 16) 30, .cvt8 cc .rne true false .x1 1 (r 16) 0].all (fun i =>
      match convertOf i with
      | some v => okF i (tagged .f32 (at1 i)) && goesF (tagged .f32 (at1 i)) i (fun x => isOk (x.f32 (srcA i) v.values))
      | none => false)) = true ∧
    (okF (.cvt cc .rne false .n32ToF32 .x1 1 (r 2) 0) (at1 (.cvt cc .rne false .n32ToF32 .x1 1 (r 2) 0))) = true ∧
    (let i := Instr.cvt4 cc true 1 (r 16) (sr 3) 24
     okF i (tagged .f32 (at1 i)) && goesF (tagged .f32 (at1 i)) i (fun x => isOk (x.f32 (r 16) 8))) = true ∧
    ([(Instr.unp8 cc 4 (r 16), Tag.e5m2x4), (.unp2 cc 4 (r 16), .f16x2), (.unp4 cc 8 (r 16) (sr 3), .f4b)].all (fun p =>
      okF p.1 (tagged p.2 (at1 p.1)) && goesF (tagged p.2 (at1 p.1)) p.1 (fun x => (rodsOf x.act).all (fun k => decide (x.tagOf (r 16) 0 k = p.2))))) = true := by
  decide

theorem wit_SideTagResidueResults :
    ([Instr.sclrd cc 1 (r 2), .sclwr cc 1 (r 1) (r 2), .tagrd cc 1 (r 2), .retag cc .f4b 1 (r 2), .efmov cc false 1 none 31].all
      (fun i => okF i (at1 i))) = true ∧
    (let i := Instr.efmov cc true 0 (some (r 16)) 31
     okF i (tagged .f32 (at1 i)) && goesF (tagged .f32 (at1 i)) i (fun x => isOk (x.f32 (r 16) 1))) = true := by decide

theorem wit_LaneResults :
    ([Instr.shfl cc .xor 1 (r 2) (r 3), .bcast cc 1 (r 2) (r 3), .vote cc .eq 1 7 2 true, .matchv cc 1 (r 2)].all (fun i => okF i (at1 i))) = true ∧
    (goesF (at1 (.bcast cc 1 (r 2) (r 3))) (.bcast cc 1 (r 2) (r 3)) (fun x =>
      (rodsOf x.act).all (fun k => decide (x.tagOf (r 2) 0 k = .int)))) = true ∧
    ([Instr.red cc .add .i32 1 (r 2), .scan cc .max .n32 true 1 (r 2)].all (fun i => okF i (at1 i) && goesF (at1 i) i (fun x =>
      isOk (x.laneVals (r 2) .i32)))) = true := by decide

/-- A register that is not F32 or not of the packed type, a latch, a mapped source of an unbound slot, and of a bound one that does not admit its tag or
whose planes are other ones. -/
theorem wit_SourceFaults :
    (let i := Instr.fsqrt cc .rne 1 (r 2)
     (fpOf i).isSome && goesF (at1 i) i (fun x => !isOk (x.f32 (r 2) 1) && (rodsOf x.act).all (fun k => decide (x.fr.tagOf k 2 ≠ .f32)))) = true ∧
    (let i := Instr.fadd cc .rne .x1 1 mp (r 17)
     goesF (tagged .f32 (at1 i)) i (fun x => !isOk (x.f32 mp 1) && decide (x.act ≠ 0#32) &&
        decide ((x.w.slot 0 0).binding ≠ .bound))) = true ∧
    -- each kind of instruction with a source that is not what it admits
    ([Instr.fcls cc 1 (r 2) 1, .fscl cc .rne 1 (r 2) (r 3), .fcmp cc true .lt 1 (r 16) (r 2), .hadd2 cc .rne false 1 (r 16) (r 2),
      .hdot2 cc .rne false 1 (r 2) (r 2) (r 16), .cvt cc .ef true .f32ToI32 .x1 1 (r 2) 31, .cvt4 cc true 1 (r 16) (sr 3) 24, .unp8 cc 4 (r 2),
      .unp2 cc 4 (r 2), .unp4 cc 8 (r 2) (sr 3), .red cc .add .f32 1 (r 2), .scan cc .add .f32 false 1 (r 2), .efmov cc true 0 (some (r 2)) 31,
      .sel cc false 1 false .x1 1 (r 16) (r 2)].all (fun i =>
        goesF (onFrame (fun fr => { fr with tags := [(16, Tag.f32)] }) (at1 i)) i (fun x => sourceFault x i == some .fmttag))) = true ∧
    ([Instr.shfl cc .idx 1 (r 16) (r 2), .bcast cc 1 (r 16) (r 2)].all (fun i =>
        goesF (onFrame (fun fr => { fr with tags := [(16, Tag.f32)] }) (at1 i)) i (fun x => sourceFault x i == some .fmttag))) = true ∧
    (let i := Instr.fsqrt cc .rne 1 (.latch 0 false false)
     let s := onSplit (fun p => { p with chain := some ⟨0x10000#64, [⟨[], []⟩]⟩ }) (at1 i)
     goesF s i (fun x => (rodsOf x.act).any (fun k => decide (x.tagOf (.latch 0 false false) 0 k ≠ .f32)) && sourceFault x i == some .fmttag)) = true ∧
    ([(Tag.int, SlotFmt.bf16, 1), (.f32, .bf16, 2)].all (fun p =>
      let i := Instr.mov cc false .i32 1 mp
      goesF (bound p.1 p.2.1 (at1 i)) i (fun x => decide ((x.w.slot 0 0).binding = .bound) && (rodsOf x.act).all (fun m =>
        !slotAdmits (x.w.slot 0 0).fmt (x.fr.tagOf m 16) || decide ((x.fr.tagOf m 16).planes ≠ p.2.2))))) = true := by decide +kernel

/-! ### Witnesses: memory -/

/-- One page of 64 KiB at address 0, of a VMODE, held by core 0's TLB, for this package and for package 1, which a live port reaches. -/
def paged (vmode : Nat) (s : State) : State :=
  { s with tlb := [⟨.core 0, 0, 0, ⟨0, 16, 0x100000, 0, vmode, false, true⟩⟩, ⟨.core 0, 0, 1, ⟨0, 16, 0x100000, 0, vmode, false, true⟩⟩],
           fabric := [(1, [0])], ready := [(0x300, 0x80000000#32)], ctxs := [(0, some (Ctx.fresh 0))] }
/-- s8 holds an address. -/
def addr (a : Word64) (s : State) : State := sregs [(8, a)] s
def meshA : Word64 := 0x4000000000000000#64
def peerA : Word64 := 0x8001000000000000#64
def hostA : Word64 := 0xC000000000000000#64
/-- The host page that holds IOVA 0 may be read and written. -/
def hosted0 (s : State) : State := { s with hostPg := [(0, 3)] }
def ck (x : FCtx) (ps : List Nat) (n : Nat) (g : Nat → Word64) (wr : Bool) (v : PageEnt → Option Code) : Bool :=
  match x.check ps n g wr true wr v with | .ok _ => true | _ => false

theorem wit_LoadIssue :
    (okF (.ldl cc .b32 false 0 .int 1 (r 2) 0) (at1 (.ldl cc .b32 false 0 .int 1 (r 2) 0)) &&
      goesF (at1 (.ldl cc .b32 false 0 .int 1 (r 0) 252)) (.ldl cc .b32 false 0 .int 1 (r 0) 252) (fun x =>
        decide (goodLanes x (r 0) 252 4 = [0]))) = true ∧
    ([Instr.ldg cc .b64 false 0 .int 4 (sr 8) (r 2) 0, .ldro cc .b64 false 0 .int 4 (sr 8) (r 2) 0].all (fun i =>
      let s := addr (if i == .ldro cc .b64 false 0 .int 4 (sr 8) (r 2) 0 then 0x1000000000000000#64 else 0#64) (paged 0 (at1 i))
      okF i s && goesF s i (fun x => ck x [if i == .ldro cc .b64 false 0 .int 4 (sr 8) (r 2) 0 then 1 else 0] 8 (devAddr x (sr 8) (r 2) 8 0) false plainVmode))) = true ∧
    (let i := Instr.ldm cc .b128 false 0 .int 4 (sr 8) 0; let s := addr meshA (at1 i);
     okF i s && goesF s i (fun x => (x.meshFault ((lanesOf x.act).map (fun l => (l, farAddr x (sr 8) 0 l)))).isNone)) = true ∧
    (let i := Instr.ldh cc .b8 true 0 .int 4 (sr 8) 0; let s := hosted0 (addr hostA (at1 i));
     okF i s && goesF s i (fun x => (x.hostCheck 1 false ((lanesOf x.act).map (fun l => (l, farAddr x (sr 8) 0 l)))).isNone && x.w.reqs.isEmpty)) = true ∧
    (let i := Instr.ldx cc .b32 false 0 .f32 4 (sr 8) 0; let s := addr peerA (paged 0 (at1 i));
     okF i s && goesF s i (fun x => ck x [8] 4 (farAddr x (sr 8) 0) false plainVmode)) = true := by decide

theorem wit_StoreResults :
    (okF (.stl cc .b128 0 (r 2) (r 4) 0) (at1 (.stl cc .b128 0 (r 2) (r 4) 0)) &&
      goesF (at1 (.stl cc .b128 0 (r 2) (r 4) 0)) (.stl cc .b128 0 (r 2) (r 4) 0) (fun x => !x.s.meshLoadsHere x.w)) = true ∧
    (let i := Instr.stg cc .b32 0 (sr 8) (r 2) (r 4) 0; let s := paged 0 (at1 i);
     okF i s && goesF s i (fun x => ck x [0] 4 (devAddr x (sr 8) (r 2) 4 0) true plainVmode && x.s.relief.isNone)) = true ∧
    okF (.pref cc 0 (sr 8) (r 2) 0) (at1 (.pref cc 0 (sr 8) (r 2) 0)) = true ∧
    (let i := Instr.stm cc .b8 0 (sr 8) (r 4) 0; let s := addr meshA (at1 i);
     okF i s && goesF s i (fun x => (x.meshFault ((lanesOf x.act).map (fun l => (l, farAddr x (sr 8) 0 l)))).isNone)) = true ∧
    (let i := Instr.sth cc .b32 0 (sr 8) (r 4) 0; let s := hosted0 (addr hostA (at1 i));
     okF i s && goesF s i (fun x => (x.hostCheck 4 true ((lanesOf x.act).map (fun l => (l, farAddr x (sr 8) 0 l)))).isNone && x.w.reqs.isEmpty)) = true ∧
    (let i := Instr.stx cc .b64 0 (sr 8) (r 4) 0; let s := addr peerA (paged 0 (at1 i));
     okF i s && goesF s i (fun x => ck x [8] 8 (farAddr x (sr 8) 0) true plainVmode)) = true := by decide

theorem wit_AtomicResults :
    ([Instr.atoml cc .add .i64 4 (r 2) (r 6) none 0, .atoml cc .cas .n32 4 (r 2) (r 6) (some (r 7)) 0].all (fun i =>
      okF i (at1 i) && goesF (at1 i) i (fun x => !x.s.meshLoadsHere x.w))) = true ∧
    (let i := Instr.atomm cc .max .f32 4 (sr 8) (r 6) none 0; let s := addr meshA (at1 i);
     okF i s && goesF s i (fun x => (x.meshFault ((lanesOf x.act).map (fun l => (l, farAddr x (sr 8) 0 l)))).isNone)) = true ∧
    -- the least and the greatest number of each width
    ([ATy.i32, .n32].all (fun t => !t.isFloat && decide (0xFFFFFFFF < 256 ^ t.bytes))) = true ∧
    ([ATy.i64, .n64].all (fun t => !t.isFloat && decide (0xFFFFFFFFFFFFFFFF < 256 ^ t.bytes))) = true := by decide

theorem wit_ServiceIssue :
    ([Instr.atom cc .exch .i32 4 (sr 8) (r 6) 0, .atomc cc .n64 4 (sr 8) (r 6) (r 10) 0, .atomn cc .add .f32 (sr 8) (r 6) 0,
      .abset8 cc (sr 8) (r 6) 0, .abtst8 cc 4 (sr 8) (r 6) 0].all (fun i =>
      okF i (paged 0 (at1 i)) && goesF (paged 0 (at1 i)) i (fun x => ck x [0, 8] 32 (farAddr x (sr 8) 0) true plainVmode))) = true ∧
    ([Instr.bpeek cc 4 1 (sr 8) 0, .bput cc (sr 8) (r 6) 0, .btake cc 4 (sr 8) 0, .binit cc true (sr 8) (r 6) 0].all (fun i =>
      okF i (paged 2 (at1 i)) && goesF (paged 2 (at1 i)) i (fun x => ck x [0, 8] 8 (farAddr x (sr 8) 0) true beadVmode && decide (x.sp.st = .run)))) = true ∧
    ([Instr.bput cc (sr 8) (r 6) 0, .btake cc 4 (sr 8) 0, .binit cc true (sr 8) (r 6) 0].all (fun i =>
      okF i (onSplit (fun p => { p with st := .resumed 3 }) (at1 i)))) = true ∧
    (let i := Instr.bput cf (sr 8) (r 6) 0; WellFormed i && goesF (at1 i) i (fun x => decide (x.act = 0#32 ∧ x.sp.st = .run))) = true := by decide

/-- No path (3), another path, a field above the offset, a byte that is not aligned. -/
theorem wit_AddressFaults :
    ([(0x3000000000000000#64, 0), (0x1000000000000000#64, 1), (0x0001000000000000#64, 2), (0x1#64, 3)].all (fun p =>
      let i := Instr.atom cc .add .i32 4 (sr 8) (r 6) 0; let s := addr p.1 (at1 i);
      okF i s && goesF s i (fun x => let y := farAddr x (sr 8) 0 0;
        decide (y = p.1) && match p.2 with
          | 0 => (pathOf y).isNone
          | 1 => (pathOf y).isSome && !([0, 8].contains (y.toNat / 2 ^ 60))
          | 2 => (pathOf y).isSome && [0, 8].contains (y.toNat / 2 ^ 60) && !fieldsOk y
          | _ => (pathOf y).isSome && [0, 8].contains (y.toNat / 2 ^ 60) && fieldsOk y && decide (y.toNat % 4 ≠ 0)))) = true := by decide

/-- A mesh access of a lane to workgroup 0 of grid 1. -/
def mesh0 (off : Int) (op : Option (AOp × ATy)) (store held : Bool) : MeshReq := ⟨7, .lane 1 0 3 0, 0, 0, 1, 0, held, off, 4, op, store, 5, 0⟩
/-- A request to home 0 from lane 0 of request 3. -/
def sreq0 (op : SOp) : SReq := ⟨9, .lane 1 0 3 0, 0, 0, 0, op, 0, false, 0⟩
def served (s : State) (q : SReq) : State := { s with svcQ := [(0, some [q])] }

theorem wit_RequestsPerformed :
    (let s := at1 (.nop cc); (s.wg? 1 0).isSome && (s.wg? 1 1).isNone) = true ∧
    (([(0, true), (252, true), (253, false), (256, false), (-4, false), (2, false)] : List (Int × Bool)).all (fun p =>
      onW (at1 (.nop cc)) (fun w => decide (decide (0 ≤ (p.1 : Int) ∧ (p.1 : Int) + 4 ≤ w.code.extent ∧ (p.1 : Int) % ((min 4 16 : Nat) : Int) = 0) = p.2)))) = true ∧
    (decide ((atomApply .add .i32 4 5 0).1 = some 9)) = true ∧
    -- a target core that is out of service, a host write, and a store and a request of package 1
    (let s := { at1 (.nop cc) with oos := [0] }; (s.wg? 1 0).any (fun w => s.oos.contains 0 && decide (w.core = 0) && !w.halt)) = true ∧
    (let q : HostReq := ⟨7, .lane 1 0 3 0, 0, 0, some [1, 2]⟩; q.data.isSome && ((at1 (.nop cc)).wg? 1 0).isSome) = true ∧
    decide (1 ≠ State.reset.pkg ∧ 2 ^ 42 - 4 + 4 ≤ 2 ^ 42 ∧ 2 ^ 42 - 1 < 2 ^ 42) = true ∧
    (let q : PeerReq := ⟨7, .lane 1 0 3 0, 1, 0, none, 4⟩; (paged 0 { at1 (.nop cc) with peerq := [q] }).pkgLive q.pkg) = true ∧
    ([SOp.atom .add .i32 1, .cas .i32 1 0, .cas .i32 1 2, .abset 0, .abtst 0, .bpeek, .bput 5, .btake].all (fun op =>
      let s := served (paged 0 (at1 (.nop cc))) (sreq0 op)
      !s.homeDead 0 0 && s.pkgLive 0 && s.mayServe (sreq0 op))) = true ∧
    ((beadApply (.bput 5) Bead.fresh).isSome && (beadApply .btake Bead.fresh).isNone && opIsBead .btake) = true ∧
    (let q : SReq := { sreq0 .btake with since := 100 }
     let s : State := { at1 (.nop cc) with returned := [q], tick := 180 }
     decide (s.returned.find? (fun k => decide (k.id = q.id)) = some q) && decide (64 ≤ (s.tick - q.since) * 4 / 5)) = true := by decide

/-- A request of frame 0 that waits for lane 0, and one that waits for lanes 0 and 1. -/
def req0 (kind : ReqKind) (got : List (Nat × Nat)) (wait : Word32) : Req :=
  ⟨3, 0, wait, kind, 0x10000, [], 0#32, 4, false, .int, 4, 1, false, 7, got, [], [], wait, false, 0, 0, none, false, 0, 0⟩
def asking (q : Req) (s : State) : State := onWg (fun w => { w with reqs := [q] }) s

theorem wit_AnswersLand :
    ([req0 (.load 0) [(0, 5), (31, 6)] 0x80000001, req0 (.atom true 5) [(0, 5), (31, 6)] 0x80000001].all (fun q =>
      onW (asking q (at1 (.nop cc))) (fun w => decide (w.req? 3 = some q) && (w.frame? 0).isSome) && decide (q.smp = none) &&
        (lanesOf q.wait).all (fun l => q.got.any (fun p => decide (p.1 = l))) && decide (q.gen = Tab.get 0 (at1 (.nop cc)).gen 0 ∧ q.inp = false) &&
        decide ((loadRegs q.size q.sx 0).length = q.nregs) && decide (q.dst + q.nregs ≤ 128) && decide ((q.got.map (·.1)).Nodup))) = true ∧
    ([req0 (.load 4) [] 1, req0 (.store 4) [] 1, req0 (.atom false 4) [] 1].all (fun q =>
      let s := { asking q (at1 (.nop cc)) with acks := [(8, ⟨.lane 1 0 3 0, 5, false, 0⟩)] }
      (s.wg? 1 0).any (fun w => decide (w.req? 3 = some q) && (s.ctx? (s.ctxOfWg w)).isNone) && (s.acks.find? (fun p => decide (p.1 = 8))).isSome)) = true ∧
    (let q := req0 (.service false true false) [] 3
     let s := { asking q (at1 (.nop cc)) with replies := [(8, ⟨.lane 1 0 3 0, 0, 5, false, 0, 0⟩)] }
     (s.wg? 1 0).any (fun w => decide (w.req? 3 = some q)) && (s.replies.find? (fun p => decide (p.1 = 8))).isSome &&
      decide (q.wait &&& ~~~BitVec.ofNat 32 (2 ^ 0) ≠ 0#32)) = true := by decide

/-! ### Witnesses: slots and copies -/

def upd (i : Instr) (f : Wg → Wg) : State := onWg f (at1 i)
/-- A slot instruction in flight in quad 0 of slot 7, of place 0, whose entry the frame has taken. -/
def slotOp0 (act : SlotAct) (fill : BitVec 4) : SlotOp := ⟨3, 0, 7, act, if fill = 0 then 1 else 0, fill, 0, 1, false, some 9⟩
def slotting (act : SlotAct) (fill : BitVec 4) : State :=
  onFrame (fun fr => { fr with taken := 1 }) (upd (.nop cc) (fun w => { w with slotOps := [slotOp0 act fill], dqBase := 1 }))

theorem wit_SlotResults :
    ([Instr.mapbind cc .bf16 none 1 (r 10) 7, .mapclr cc (some 3) 0, .mapmode cc none true 1, .mapscl cc none (r 10) 1,
      .maprd cc 3 1 7 31 7].all (fun i => okR i (at1 i))) = true ∧
    -- an area of 2,048 bytes fits a slice of 2,048 bytes and not one of 256; offset 32 is misaligned
    (let i := Instr.mapbind cc .bf16 none 1 (r 10) 7
     goesR (at1 i) i (fun x => decide (x.w.code.extent < (x.val true (r 10)).toNat + slotBytes .bf16)) &&
     goesR (upd i (fun w => { w with code := { w.code with extent := 2048 } })) i (fun x => decide ((x.val true (r 10)).toNat + slotBytes .bf16 ≤ x.w.code.extent)) &&
     goesR (sregs [(10, 32)] (at1 i)) i (fun x => decide ((x.val true (r 10)).toNat % 64 ≠ 0))) = true ∧
    -- MAPRD of a busy slot, of an unbound one, of a bound one
    (let i := Instr.maprd cc 0 1 7 31 7
     goesR (upd i (fun w => { w with slotOps := [slotOp0 .clear 0] })) i (fun x => x.w.slotBusy (x.w.place + 1) 0 7) &&
     goesR (at1 i) i (fun x => !x.w.slotBusy (x.w.place + 1) 0 7 && decide ((x.w.slot 0 7).binding ≠ .bound)) &&
     goesR (upd i (fun w => { w with slots := [(7, { Slot.start with binding := .bound })] })) i (fun x =>
      !x.w.slotBusy (x.w.place + 1) 0 7 && decide ((x.w.slot 0 7).binding = .bound))) = true ∧
    ([SlotAct.bind .f16 0, .clear, .mode true, .scale 1].all (fun a =>
      onW (slotting a 0) (fun w => !w.halt && (w.slotOps.find? (fun p => decide (p.id = 3))).any (fun o => w.slotReady 0 o && !(slotting a 0).fillWaits w o)))) = true ∧
    ([SlotAct.clear].all (fun a =>
      onW (onWg (fun w => { w with slotOps := w.slotOps.map (fun o => { o with dst := none }) }) (slotting a 0))
        (fun w => (w.slotOps.find? (fun p => decide (p.id = 3))).any (fun o => w.slotReady 0 o && o.dst.isNone && decide (o.filling = 0))))) = true ∧
    (onW (slotting (.bind .f16 0) 1) (fun w => (w.slotOps.find? (fun p => decide (p.id = 3))).any (fun o => o.filling.getLsbD 0 && decide (o.todo = 0)))) = true ∧
    (onW (upd (.nop cc) (fun w => { w with passes := [⟨3, 0, 1, [7], [], none, ⟨[], [], [], [], [], []⟩⟩] })) (fun w =>
      (w.passes.find? (fun p => decide (p.id = 3))).any (fun p => (w.frame? p.frame).isSome))) = true := by decide

/-- A copy of four bytes from offset 0 of the own slice to offset 64. -/
def lay0 : LayoutRec := ⟨8, [1, 1, 1, 1], [0, 0, 0], [0, 0, 0, 0], [1, 1, 1, 1], 0⟩
def layBytes : Tab Byte :=
  [(0, 8), (4, 1), (8, 1), (12, 1), (16, 1), (48, 1), (50, 1), (52, 1), (54, 1)]
def ownA : Nat := 0x5000000000000000
def copy0 (st : CopySt) (dst : Nat) : Copy := ⟨3, 0, 9, false, none, dst, ownA, 0, some 2, st, lay0, 0, 0, 0, 0, 0, 0, false, []⟩
def copying (st : CopySt) (dst : Nat) : State :=
  onFrame (fun fr => { fr with taken := 1 })
    (upd (.nop cc) (fun w => { w with copies := [copy0 st dst], slice := layBytes, dqBase := 1, lastCopy := [(9, some 3)] }))

theorem wit_CopyInstructions :
    (let i := Instr.copy cc 9 (r 4) (r 6) (r 8)
     okR i (at1 i) && goesR (at1 i) i (fun x => decide (x.w.copies.length < 16) && decide ((x.val true (r 8)).toNat + 64 ≤ x.w.code.extent)) &&
      goesR (sregs [(8, 32)] (at1 i)) i (fun x => decide ((x.val true (r 8)).toNat % 64 ≠ 0)) &&
      goesR (sregs [(8, 256)] (at1 i)) i (fun x => decide (x.w.code.extent < (x.val true (r 8)).toNat + 64))) = true ∧
    -- a register that holds no status; an open group of a copy that failed, and of one that did not
    ([(0x8000000000000000#64, [], none), (0x8500010000000040#64, [(9, some 3)], some 5), (0x8000010000000040#64, [(9, some 3)], some 0)].all (fun (p : Word64 × Assoc Nat × Option Nat) =>
      let i := Instr.publish cc 9 (r 9)
      let s := sregs [(9, p.1)] (upd i (fun w => { w with lastCopy := p.2.1, groups := [(0, 1)] }))
      okR i s && goesR s i (fun x => let v := (x.val true (r 9)).toNat
        match p.2.2 with
        | none => (Assoc.at x.w.lastCopy 9).isNone
        | some e => decide (v / 2 ^ 40 % 2 ^ 16 = 1) && decide (v / 2 ^ 56 % 2 ^ 7 = e) && (Assoc.at x.w.lastCopy 9).isSome &&
            x.w.copies.all (fun k => decide (k.st ≠ .issued)) && x.s.mayStamp (x.s.ctxOfWg x.w) x.w (some (x.w.retired, 32))))) = true ∧
    -- CANCEL: no copy, a copy that is issued, moves or commits, and a group that a copy left
    (let i := Instr.cancel cc 9 (r 9)
     goesR (at1 i) i (fun x => (Assoc.at x.w.lastCopy 9).isNone) &&
     [CopySt.issued, .moving, .publishing, .published].all (fun st =>
      goesR (upd i (fun w => { w with copies := [copy0 st ownA], lastCopy := [(9, some 3)] })) i (fun x =>
        (x.w.copies.find? (fun k => decide (k.id = 3))).any (fun k => decide (k.st = st ∧ k.group = 0)))) &&
     goesR (sregs [(9, 0x8000010000000040)] (upd i (fun w => { w with lastCopy := [(9, some 3)], groups := [(0, 1)] }))) i (fun x =>
      x.w.copies.isEmpty && x.w.pend.isEmpty && decide ((x.val true (r 9)).toNat / 2 ^ 40 % 2 ^ 16 ≠ 0))) = true := by decide

/-- The record of `layBytes` is that of `lay0`. -/
theorem test_layout_record : layoutOf (Tab.readBytes layBytes 0 64) = lay0 := by decide

theorem wit_CopyEvents :
    -- an element inside, and one mirrored at the low edge of dimension 0
    (decide (0 < recBox lay0 0) && decide ((copyElem lay0 0 0 0).1 = true)) = true ∧
    (let w := (copying .issued (ownA + 64)).copyOf 3
     w.any (fun p => decide (p.2.st = .issued) && !p.1.halt && p.1.copyReady p.2 && !(copying .issued (ownA + 64)).publishing p.1 p.2.pos && decide ((copying .issued (ownA + 64)).onCore p.1.core = some p.1))) = true ∧
    -- no error to another place, none to device memory with a free group number, and none left; a destination without a path
    ([ownA + 64, 0].all (fun d => (copyStartErr false lay0 (BitVec.ofNat 64 d) (BitVec.ofNat 64 ownA) 0 0).isNone)) = true ∧
    (copyStartErr false lay0 0x3000000000000000 (BitVec.ofNat 64 ownA) 0 0).isSome = true ∧
    (let s := copying .moving (ownA + 64)
     (s.copyOf 3).any (fun p => decide (p.2.st = .moving) && !p.1.halt && !s.copyStalls p.2 && decide (p.2.src / 2 ^ 60 % 16 ≠ 12) &&
      (match s.copyGather (s.envOfWg p.1) { p.2 with layout := { lay0 with box := [1, 2, 1, 1] } } 2 0 0 [] with | .ok _ => true | .error _ => false))) = true ∧
    -- a box of 65 elements of four bytes in a slice of 1,024: the first unit takes 64 of them
    (let k := { copy0 .moving (ownA + 512) with layout := { lay0 with ext := [65, 1, 1, 1], box := [65, 1, 1, 1] } }
     let s := upd (.nop cc) (fun w => { w with code := { w.code with extent := 1024 }, copies := [k] })
     (s.copyOf 3).any (fun p => match s.copyGather (s.envOfWg p.1) k (recCount k.layout) 0 0 [] with
      | .ok (u, got, _) => decide (u = 64 ∧ got = 256) && decide (u < recCount k.layout) | .error _ => false)) = true ∧
    (let s := copying .moving (ownA + 512)
     (s.copyOf 3).any (fun p => p.2.pkt.isNone && !p.2.layout.ctl.testBit 15 &&
      (match s.copyGather (s.envOfWg p.1) p.2 (recCount p.2.layout) 0 0 [] with | .error e => decide (e = 7) | .ok _ => false))) = true ∧
    ([CopySt.finishing, .published].all (fun st => ((copying st ownA).copyOf 3).any (fun p => decide (p.2.st = st) && !p.1.halt && !p.2.wbs &&
      decide (p.2.bar = some 2) && (p.1.bars[2]?).isSome))) = true := by decide

/-! ### Witnesses: synchronisation -/

def barred (b : Bar) (i : Instr) : State := upd i (fun w => { w with bars := w.bars.set 0 b })
def coop : State → State := onGrid (fun g => { g with lrec := { g.lrec with flags := 1 } })

theorem wit_BarrierFrames :
    -- frame 0 is a member of b0, the reckoner is not; arrived; a reduction under way
    (onW (at1 (.nop cc)) (fun w => (w.bar (.core 0)).members.getLsbD 0 && !(w.bar (.core 0)).members.getLsbD 16 &&
      !(w.bar (.core 15)).arrived.getLsbD 0 && !(w.bar (.core 15)).made)) = true ∧
    (onW (barred { Bar.start 1 with arrived := 1, red := some (.add, .i32) } (.nop cc)) (fun w =>
      (w.bar (.core 0)).members.getLsbD 0 && (w.bar (.core 0)).arrived.getLsbD 0)) = true ∧
    ((at1 (.nop cc)).grids.all (fun g => !g.coop)) = true ∧
    ([Instr.bar cc (some .add) .i32 false false true 1 (some (r 2)) (.core 0) true 9, .bara cc none .i32 false none (.core 0) 0].all (fun i =>
      okF i (at1 i) && goesF (at1 i) i (fun x =>
        (match x.s.arrive x.w x.f (.core 0) none [] 0#32 with | .ok _ _ => true | _ => false) && isOk (x.leaves none .i32 none) && !x.w.mapstore))) = true ∧
    ([Instr.bar cc none .i32 true false false 0 none (.core 0) false 0, .bara cc none .i32 true none (.core 0) 0].all (fun i =>
      goesF (at1 i) i (fun x => !x.sp.isResumed && x.w.reqs.isEmpty && !x.s.commitWaits x.w x.fr.taken true))) = true ∧
    -- when the commit is complete, and for the refresh; another reduction, and an arrival in the same generation
    ([Instr.bar cc none .i32 true false false 0 none (.core 0) false 0, .bara cc none .i32 true none (.core 0) 0].all (fun i =>
      goesF (onSplit (fun p => { p with st := .resumed 3 }) (at1 i)) i (fun x => x.sp.isResumed && decide (x.sp.st ≠ .acquire)))) = true ∧
    ([Instr.bar cc none .i32 false true false 0 none (.core 0) false 0, .barw cc true false 0 (.core 0) false 0].all (fun i =>
      goesF (onSplit (fun p => { p with st := .acquire }) (at1 i)) i (fun x => decide (x.sp.st = .acquire)))) = true ∧
    (let i := Instr.bara cc (some .max) .i32 false (some (r 2)) (.core 0) 0
     goesF (barred { Bar.start 1 with red := some (.add, .i32) } i) i (fun x =>
       (match x.s.arrive x.w x.f (.core 0) (some (.max, .i32)) [] 0#32 with | .fault _ => true | _ => false)) &&
     goesF (barred { Bar.start 1 with arrived := 1 } i) i (fun x =>
       (match x.s.arrive x.w x.f (.core 0) (some (.max, .i32)) [] 0#32 with | .again => true | _ => false)) &&
     goesF (onWg (fun w => { w with mapstore := true }) (at1 i)) i (fun x => x.w.mapstore) &&
     goesF (at1 (.bara cc (some .add) .f32 false (some (r 2)) (.core 0) 0)) (.bara cc (some .add) .f32 false (some (r 2)) (.core 0) 0)
       (fun x => !isOk (x.leaves (some .add) .f32 (some (r 2))))) = true ∧
    (let i := Instr.barset cf 1 1 0; goesF (at1 i) i (fun x => decide (x.act = 0#32))) = true ∧
    (let i := Instr.barw cc false false 0 (.grid 3) false 0
     goesF (at1 i) i (fun x => !x.s.barAdmits x.w (.grid 3)) && goesF (coop (at1 i)) i (fun x => x.s.barAdmits x.w (.grid 3))) = true ∧
    (let i := Instr.barset cc 1 1 0
     goesF (at1 i) i (fun x => decide (x.act ≠ 0#32) && decide ((x.w.bar (.core 0)).arrived = 0#17) && (x.w.bar (.core 0)).waiters.isEmpty &&
        (x.w.bar (.core 0)).copies.isEmpty) &&
      goesF (barred { Bar.start 1 with arrived := 1 } i) i (fun x => decide ((x.w.bar (.core 0)).arrived ≠ 0#17))) = true := by decide

theorem wit_BarrierReckoner :
    ([Instr.barU cc (some .max) .f32 false true (some (r 2)) (.core 0) true 9, .baraU cc (some .add) .i32 false (some (r 2)) (.core 0) 0].all (fun i =>
      let s := barred { Bar.start 1 with members := 0x10001, count := 2 } i
      okR i s && goesR s i (fun x => !x.w.rst.isResumed && !x.w.mapstore &&
        (match x.s.arrive x.w 16 (.core 0) none [] 0#32 with | .ok _ _ => true | _ => false)))) = true ∧
    ([Instr.barwU cc true (.core 0) false 0, .barU cc none .i32 true false none (.core 0) false 0, .baraU cc none .i32 true none (.grid 0) 0].all (fun i =>
      okR i (at1 i) && goesR (at1 i) i (fun x => !x.w.rst.isResumed && x.s.barAdmits x.w (.core 0) && !x.s.barAdmits x.w (.grid 0)))) = true ∧
    -- the commit of `.rel` is complete
    ([Instr.barU cc none .i32 true false none (.core 0) true 9, .baraU cc none .i32 true none (.core 0) 0].all (fun i =>
      let s := onWg (fun w => { w with rst := .resumed 3 }) (barred { Bar.start 1 with members := 0x10001, count := 2 } i)
      goesR s i (fun x => x.on && x.w.rst.isResumed && !x.w.mapstore &&
        (match x.s.arrive x.w 16 (.core 0) none [] 0#32 with | .ok _ _ => true | _ => false)))) = true := by decide

/-- b15 with frame 0's arrival, its split and the reckoner waiting, and s9 to be written. -/
theorem wit_BarrierReleases :
    (let i := Instr.barw cc false true 1 (.core 15) true 9
     let w? := (upd i (fun w => { w with bars := w.bars.set 15 { Bar.start 1 with
        members := 0x10001, arrived := 1, count := 1, red := some (.add, .i32), leaves := [(0, 5)], sregs := [9],
        waiters := [⟨0, 0, 0, 1, some 127, false⟩, ⟨16, 0, 0, 0, none, false⟩] } })).onCore 0
     w?.any (fun w => w.coreReleases (w.bar (.core 15)) && (w.frame? 0).any (fun fr => w.mayRefresh fr) && decide (15 < w.bars.length) &&
      decide (((w.bar (.core 15)).waiters.map (·.frame)).Nodup) && (w.code.shapeAt 0x10000).isSome &&
      (w.bar (.core 15)).waiters.all (fun k => k.vec.all (fun d => decide (d < 128))))) = true := by decide

theorem wit_FenceResults :
    ([Scope.frame, .core, .cluster, .die, .package, .system].all (fun sc => [Order.acq, .rel, .ar, .sc].all (fun o =>
      let i := Instr.fence cc sc o
      okF i (at1 i) && goesF (at1 i) i (fun x => !x.sp.isResumed && x.w.reqs.isEmpty && !x.s.commitWaits x.w x.fr.taken true &&
        !x.s.commitWaits x.w x.fr.taken false && decide (x.s.onCore x.core = some x.w))))) = true ∧
    (let i := Instr.fence cf .system .sc; goesF (at1 i) i (fun x => decide (x.act = 0#32))) = true ∧
    (let i := Instr.fence cc .frame .acq
     let s := asking { req0 (.load 4) [] 1 with dst := 90 } (at1 i)
     goesF s i (fun x => x.w.reqs.any (fun q => decide (q.frame = x.f ∧ q.wait &&& x.sp.lanes ≠ 0#32) && !q.drains .frame))) = true ∧
    ([Order.acq, .rel, .ar, .sc].all (fun o => let i := Instr.fence cc .die o
      goesF (onSplit (fun p => { p with st := .resumed 3 }) (at1 i)) i (fun x => x.sp.isResumed && decide (x.act ≠ 0#32)))) = true := by decide

/-- A transaction that read at 0 and wrote a byte that stamp 1 has written too. -/
def conflicting (st : Nat) : State :=
  { upd (.nop cc) (fun w => { w with phase := ⟨5, 0, true⟩ }) with
    last := 1, dev := ⟨[], [⟨0, [(0, some 1)], .phase 5, false⟩, ⟨0, [(0, some 2)], .committed st, false⟩], []⟩ }
def done0 (reach : Reach) (who : CommitFor) : Commit := ⟨3, 0, 0, reach, who, []⟩

theorem wit_Commits :
    ([(0, false), (1, true)].all (fun p => ((conflicting p.1).wg? 1 0).any (fun w =>
      decide ((w.phase.tx && (conflicting p.1).dev.conflicts w.phase.s ((conflicting p.1).last + 1) ((conflicting p.1).dev.written (.phase w.phase.tag))) = p.2)))) = true ∧
    ([(done0 .die (.party ⟨1, 0, 0, 0⟩ true)), done0 .package (.act 1 0 3), done0 .system (.publish 1 0 (some 9) 5 0 0 1), done0 .here (.party ⟨1, 0, 0, 0⟩ false), done0 .die (.copy 1 0 3), done0 .package (.packet 1 0)].all (fun k =>
      let s := { upd (.nop cc) (fun w => { w with acts := [⟨3, 0, .txend 9 false, 0, true, 5⟩], copies := [copy0 .publishing 0] }) with commits := [k] }
      decide (s.commits.find? (fun c => decide (c.id = 3)) = some k) && decide (k.stamp ≤ s.frontier k.die) && decide (k.stamp ≤ s.pkgFrontier) && k.peers.isEmpty &&
        (s.wg? 1 0).any (fun w => w.atomnFlags.isEmpty && (w.frame? 0).isSome && w.acts.any (fun b => decide (b.id = 3)) && w.copies.any (fun b => decide (b.id = 3)) && (s.onCore w.core).isSome))) = true ∧
    (let k : Commit := ⟨3, 1, 0, .die, .packet 1 0, []⟩
     let s : State := { State.reset with commits := [k] }
     !decide (k.stamp ≤ s.frontier k.die)) = true := by decide

theorem wit_UActions :
    ([Instr.fenceU cc .die .ar, .phase cc, .txbegin cc, .txend cc 9, .txabort cc, .snap cc 9, .launch cc 9 (r 4), .unsnap cc (r 4)].all (fun i =>
      okR i (upd i (fun w => { w with phase := { w.phase with tx := true } })) || okR i (at1 i))) = true ∧
    (let i := Instr.launch cc 9 (r 4)
     goesR (sregs [(4, 64)] (at1 i)) i (fun x => decide ((x.val true (r 4)).toNat + 192 ≤ x.w.code.extent)) &&
      goesR (sregs [(4, 128)] (at1 i)) i (fun x => decide (x.w.code.extent < (x.val true (r 4)).toNat + 192)) &&
      goesR (sregs [(4, 1)] (at1 i)) i (fun x => decide ((x.val true (r 4)).toNat % 64 ≠ 0))) = true ∧
    ([(ActKind.snap 9 false, 0, false), (.snap 9 false, 8, false), (.txabort, 0, true), (.txabort, 0, false), (.fence .die .acq, 0, false)].all
      (fun (p : ActKind × Nat × Bool) =>
        let a : Act := ⟨3, 0, p.1, 0x10000, false, 0⟩
        let s := onFrame (fun fr => { fr with taken := 1 }) (upd (.nop cc) (fun w =>
          { w with acts := [a], dqBase := 1, pins := List.replicate p.2.1 0, phase := { w.phase with tx := p.2.2 } }))
        onW s (fun w => s.actReady w a && !w.halt && decide (s.wg? 1 0 = some w)))) = true := by decide

/-- The pool of 64 entries a stack with none free in stack 0, and with every entry free. -/
def pool (n : Nat) : State :=
  { upd (.nop cc) (fun w => w) with fw := { State.reset.fw with pool := 22369621 }, dev := ⟨[], List.replicate n ⟨0, [(0, some 0)], .phase 0, false⟩, []⟩ }
theorem wit_PhaseEvents :
    (let k : PeerCm := ⟨3, 1, 5, none, 1, 0, 0⟩
     let s := { paged 0 State.reset with peerCms := [k, { k with id := 4, tr := some 1 }], remotes := [(1, some ⟨⟨[], [], []⟩, 0⟩)] }
     (s.peerCms.find? (fun p => decide (p.id = 3) && p.tr.isNone)).isSome && (s.peerCms.find? (fun p => decide (p.id = 4) && p.tr.isSome)).isSome &&
      s.pkgLive 1 && !({ s with fabric := [] } : State).pkgLive 1 && decide (k.pkg ≠ s.pkg) && (Assoc.at s.remotes 1).isSome) = true ∧
    (pool 0).poolHigh = true ∧ (pool 0).poolLow = false ∧ (pool 0).lowPool = false ∧ (pool 64).poolLow = true ∧ (pool 64).poolHigh = false ∧
    (pool 64).livePins = [] ∧ (pool 64).liveHostPins = [] ∧ (pool 64).liveCkpts = [] ∧ (pool 64).relief = none ∧
    (let s := onWg (fun w => { w with pins := [7] }) (pool 64); decide (minOf s.livePins = some 7) && (s.wgs.find? (fun w => w.pins.contains 7)).isSome) = true ∧
    minOf ({ pool 64 with hostPins := [⟨7, false⟩] } : State).liveHostPins = some 7 ∧
    (pool 64).wgs.all (fun w => !w.phase.tx) = true ∧ ((pool 64).lowestPhase (fun w => !w.phase.tx)).isSome = true ∧
    ({ pool 64 with relief := some 0, tick := 1000000 } : State).relief = some 0 := by
  refine ⟨?_, ?_, ?_, ?_, ?_, ?_, ?_, ?_, ?_, ?_, ?_, ?_, ?_, ?_, ?_⟩ <;> decide

/-! ### Witnesses: system instructions and events -/

theorem wit_StepKeepsInv : (match step { State.reset with agenda := [(.event .poolRelief, 1)] } with | .next _ => true | _ => false) = true := by decide

theorem wit_SpecialRegisters :
    (([0x00#8, 0x10#8, 0x12#8, 0x13#8, 0x1A#8, 0x20#8, 0x22#8] : List (BitVec 8)).all (fun n =>
      okF (.srd cc 4 n) (at1 (.srd cc 4 n)) && (decide (n = 0) || okR (.srdU cc 4 n) (at1 (.srdU cc 4 n))) &&
      goesF (at1 (.srd cc 4 n)) (.srd cc 4 n) (fun x => (x.s.ctx? (x.s.ctxOfWg x.w)).all (fun k => !k.recording && k.replay.isNone)))) = true ∧
    (([0x18#8, 0x1B#8, 0x20#8] : List (BitVec 8)).all (fun n => okF (.swr cc (r 4) n) (at1 (.swr cc (r 4) n)))) = true := by decide

/-- A trace ring of three slots at IOVA 0x1000. -/
def ring0 : Ring := ⟨0x1000, 8, 0⟩
def ringed (wr : Byte) (s : State) : State :=
  { s with ctxs := [(0, some { Ctx.fresh 0 with ring := some ring0 })], hostMem := if wr = 0 then [] else [(hostKey 0 0x1000, wr)] }
theorem wit_TileAndMarkResults :
    okR (.tfetch cc 4) (at1 (.tfetch cc 4)) = true ∧
    (let s := onWg (fun w => { w with rst := .commit 5 }) (at1 (.tfetch cc 4))
     onW s (fun w => decide (w.tfetchAt = some (cc, 4)) && (s.grid? w.grid).any (fun g => (s.ctx? (s.ctxOf g)).all (fun k => k.replay.isNone)))) = true ∧
    -- a range of the die with indexes left, and none left
    ((at1 (.nop cc)).grids.all (fun g =>
      ([(0, 3, 7)].find? (fun p => decide (p.1 = 0) && decide (p.2.1 < p.2.2)) == some (0, 3, 7)) && g.ranges.all (fun p => decide (p.2.2 ≤ p.2.1)))) = true ∧
    -- both orders, and the last index
    ([(0, 0), (1, 2)].all (fun (p : Nat × Nat) => let q : LaunchRec := { oneRecord with x := 3, y := 5, z := 2, order := p.1, g := p.2 }
      decide (0 < q.x ∧ 0 < q.y ∧ 29 < q.x * q.y * q.z) && decide (q.order = 0 ∨ 0 < q.g))) = true ∧
    (okF (.tracemark cc (r 4) 5) (at1 (.tracemark cc (r 4) 5)) && okF (.ckpt cc) (at1 (.ckpt cc)) &&
      WellFormed (.ckpt cf) && goesF (at1 (.ckpt cf)) (.ckpt cf) (fun x => decide (x.act = 0#32))) = true ∧
    goesF ({ at1 (.ckpt cc) with ctxs := [(0, some (Ctx.fresh 0))] }) (.ckpt cc) (fun x => (x.s.ctx? (x.s.ctxOfWg x.w)).isSome) = true ∧
    ([(0, true), (3, false)].all (fun (p : Byte × Bool) => let s := ringed p.1 State.reset
      decide (s.hostLE 0 0x1000 8 < s.hostLE 0 0x1008 8 + (2 ^ 8 - 64) / 64) == p.2)) = true := by decide

/-- Workgroups of grid 1 on core 0 and of grid 2 on core 1; a save area at 0 that names a core. -/
def two (core : Byte) (f : LaunchRec → LaunchRec) : State :=
  let s := paged 0 (sysGrid (at1 (.csave cc (sr 8))))
  { s with cores := s.cores ++ [(1, some (Wg.start 2 0 0 0 1 1 (oneWord 0) [] ⟨0, 0, false⟩))],
           grids := s.grids ++ [{ oneGrid (oneWord 0) with id := 2, lrec := f oneRecord }],
           dev := ⟨if core = 0 then [] else [(0x20, core)], [], []⟩ }
/-- A saved workgroup, and a save area at 0 with its image, to be restored on this core. -/
def savedWg : Wg := let v := Wg.start 2 0 0 0 1 1 (oneWord 0) [] ⟨0, 0, false⟩; { v with imgSize := v.imageSize }
def imaged (core : List Byte) : State :=
  { two 0 id with
    ready := [(0x200, 0x80000000#32)]
    parts := [(0, some ⟨1, 0, 0, 1, 1, false, false, 1000, 0⟩)]
    saved := [(0, some savedWg)]
    dev := ⟨Tab.writeBytes [] 0 ([0x58#8, 0x54#8, 0x43#8, 0x4E#8, 1#8, 0#8, 2#8, 0#8] ++ natToBytes 8 savedWg.imgSize ++ natToBytes 16 0 ++ core), [], []⟩ }
def walk0 : Walk := ⟨3, [⟨0, 1, 0, 0, 0x10000⟩], 0, 0, 0, false, []⟩
theorem wit_PrivilegedResults :
    (let i := Instr.tlbinv cc (r 2) 0; let s := sysGrid (at1 i);
     okF i s && goesF s i (fun x => !x.sp.isResumed && !x.s.walks.any (walkNamed 0 x.core (x.s.ctxOfWg x.w))) &&
      goesF { s with walks := [walk0] } i (fun x => x.s.walks.any (walkNamed 0 x.core (x.s.ctxOfWg x.w))) &&
      goesF (onSplit (fun p => { p with st := .resumed 3 }) s) i (fun x => x.sp.isResumed) &&
      goesF (sysGrid (at1 (.tlbinv cf (r 2) 0))) (.tlbinv cf (r 2) 0) (fun x => decide (x.act = 0#32))) = true ∧
    ([Instr.csave cc (sr 8), .crest cc (sr 8)].all (fun i =>
      let s := paged 0 (sysGrid (at1 i));
      goesF s i (fun x => match ({ x with act := maskOf [0] } : FCtx).check [0] 4096 (x.raw64 true (sr 8)) true false false plainVmode with
        | .ok (_ :: _) => true | _ => false) &&
      goesF (sregs [(8, 1)] s) i (fun x => match ({ x with act := maskOf [0] } : FCtx).check [0] 4096 (x.raw64 true (sr 8)) true false false plainVmode with
        | .fault _ => true | _ => false))) = true ∧
    (let i := Instr.signal cc (r 2) 3; okF i (sysGrid (at1 i)) &&
      goesF (sysGrid (at1 i)) i (fun x => ((x.s.setCore x.core ((x.w.setFrame x.f x.fr).count x.c)).onCore ((x.raw (r 2) 0 0).toNat % 2 ^ 13)).isSome) &&
      goesF (lane0 [(2, 7)] (sysGrid (at1 i))) i (fun x => (x.s.onCore ((x.raw (r 2) 0 0).toNat % 2 ^ 13)).isNone)) = true ∧
    -- CSAVE of a core without a workgroup, of the own grid, of a gang, and of another workgroup
    ([(7, id, 1), (0, id, 2), (1, fun (q : LaunchRec) => { q with gang := 2 }, 3), (1, id, 0)].all (fun (p : Byte × (LaunchRec → LaunchRec) × Nat) =>
      let s := two p.1 p.2.1; let n := s.dev.newestLE 0x20 4 % 2 ^ 13;
      match s.onCore n with
      | none => decide (p.2.2 = 1)
      | some v => (s.grid? v.grid).any (fun g => decide ((if v.grid = 1 then 2 else if 1 < g.lrec.gang then 3 else 0) = p.2.2)))) = true ∧
    -- CREST: a core that is none, one that is free, and one that is free in another partition
    ([([0xFF#8, 0x1F#8], 0), ([2#8], 1), ([8#8], 2)].all (fun (p : List Byte × Nat) =>
      let s := imaged p.1; let n := s.dev.newestLE 0x20 4 % 2 ^ 13
      decide (Assoc.at s.saved 0 = some savedWg) && decide (s.dev.newestLE 0 4 = 0x4E435458) && decide (s.dev.newestLE 4 2 = 1) &&
        decide (s.dev.newestLE 8 8 = savedWg.imgSize) && decide (s.dev.newestLE 6 2 = 2) && savedWg.reqs.isEmpty && decide (savedWg.code.regs ≤ 128) &&
        (match p.2 with
          | 0 => decide (6144 ≤ n)
          | k => s.coreIn n && !s.busyCores.contains n && (s.grid? 2).any (fun g => (s.part? g.ptop (recChild g.lrec)).any (fun d =>
              d.clusters.testBit (clusterOf n) == decide (k = 1)))))) = true := by
  refine ⟨?_, ?_, ?_, ?_, ?_⟩ <;> decide +kernel

/-- Frame 0 stands at an entry's word. -/
def entered (es : List Entry) (st : ReckSt) : State :=
  { upd (.nopU cc) (fun w => { w with dq := es, rst := st }) with cur := some (.frame 0 0 0) }
theorem wit_EntryTaken :
    ([([], ReckSt.run), ([], .stopped), ([⟨0x10010, .nop, [], 0, 0⟩], .run), ([⟨0x10000, .nop, [], 0, 0⟩], .run),
      ([⟨0x10000, .branch true 0x10010, [], 0, 0⟩], .run), ([⟨0x10000, .exit true 7, [], 0, 0⟩], .run)].all (fun (p : List Entry × ReckSt) =>
      onW (entered p.1 p.2) (fun w => w.goes && w.storage.isNone && decide (w.entryAt 0 = p.1.head?) &&
        (w.frame? 0).any (fun fr => decide (fr.splits.length ≤ 1) && (fr.split? 0).any (fun sp =>
          !sp.dbg && !fr.isParked 0 && decide (sp.st = .run) && sp.chain.isNone && decide (sp.pc = 0x10000)))))) = true := by decide

/-- The frame's one split becomes two halves at one address. -/
def halves (st : SplitSt) (s : State) : State :=
  onFrame (fun fr => { fr with splits := [⟨0, 0xFFFF, 0x10000, st, none, false, false, none, false, false, 0, [], []⟩, ⟨1, 0xFFFF0000, 0x10000, st, none, false, false, none, false, false, 0, [], []⟩] }) s
theorem wit_PartyEvents :
    ([(5, true), (30, false)].all (fun (p : Nat × Bool) => let s : State := { onFrame (fun fr => { fr with defer := [⟨3, p.1⟩] }) (at1 (.nop cc)) with tick := 20 }
      onFr s (fun fr => fr.defer.any (fun d => decide (d.clocks ≤ s.tick) == p.2)))) = true ∧
    onW (halves (.gather 3) (at1 (.nop cc))) (fun w => w.goes && (w.frame? 0).any (fun fr => decide (2 ≤ fr.splits.length) && fr.parked.isEmpty &&
      fr.splits.all (fun p => decide (p.st = .gather 3) && decide (p.pc = 0x10000) && !p.dbg) &&
      (List.range 32).all (fun l => fr.splits.any (fun p => p.lanes.getLsbD l)))) = true ∧
    2 ^ 20 ≤ (1310720 - 0) * 4 / 5 ∧
    (let s : State := { halves (.sleep (some 8)) (at1 (.nop cc)) with tick := 10 }
     onFr s (fun fr => (fr.split? 1).any (fun p => decide (p.st = .sleep (some 8)) && decide (8 ≤ s.tick * 4 / 5)))) = true ∧
    onW (upd (.nop cc) (fun w => { w with rst := .sleep (some 8) })) (fun w => decide (w.rst = .sleep (some 8))) = true ∧
    onW (upd (.nop cc) (fun w => { w with gated := true })) (fun w => w.gated && !(at1 (.nop cc)).idle w) = true ∧
    -- one split that the others have left alone
    onW (onSplit (fun p => { p with st := .gather 3 }) (at1 (.nop cc))) (fun w => w.goes && (w.frame? 0).any (fun fr => fr.parked.isEmpty &&
      decide (fr.splits.length = 1 ∧ fr.live ≠ 0) && fr.splits.all (fun p => decide (p.st = .gather 3 ∧ p.lanes = fr.live) && !p.dbg))) = true := by decide

/-- Die 0 is ready, the features are accepted, partition 0 holds cluster 0, and context 0 maps its first gigabyte, as pages of a VMODE, to itself; a
container stands at 0x40000: one frame of eight registers, and a TEXT of one word. -/
def part0 : PartDesc := ⟨1, 0, 0, 1, 1, false, false, 1000, 0⟩
def bytes0 (vmode : Byte) : Tab Byte :=
  [(0x10000, 1), (0x10002, 2), (0x20000, 0x19 + vmode * 0x40), (0x40000, 0x42), (0x40001, 0x58), (0x40002, 0x43), (0x40003, 0x4F), (0x40004, 1), (0x40006, 3),
   (0x40008, 0x40), (0x40009, 0x10), (0x40040, 1), (0x40044, 0x80), (0x40048, 76), (0x40050, 2), (0x40055, 0x10), (0x40058, 16), (0x40060, 3), (0x40064, 0x40),
   (0x40065, 0x10), (0x400C0, 1), (0x400C2, 8)]
def pack (vmode : Byte) (s : State) : State :=
  { s with ready := [(0x0C, 0x80000000#32), (0x200, 0x80000000#32)], parts := [(0, some part0)], ctxs := [(0, some (Ctx.fresh 0x10000))], featOn := true,
           dev := ⟨bytes0 vmode, [], []⟩ }
def pack0 : State := pack 0 State.reset
def ctx0 (f : Ctx → Ctx) (s : State) : State := { s with ctxs := [(0, some (f (Ctx.fresh 0)))] }
def ckpt0 (ex : Bool) : Ckpt := ⟨1, 5, ex, [], [], [], [], [], []⟩
theorem wit_DebuggerEvents :
    (let s := ctx0 (fun k => { k with attached := true }) (onSplit (fun p => { p with dbg := true }) (at1 (.nop cc)))
     onW s (fun w => s.attached w && decide (s.ctxOfWg w = 0) && (w.frame? 0).any (fun fr => (fr.split? 0).any (fun p => p.dbg && w.stopped p)))) = true ∧
    (let s := ctx0 (fun k => { k with attached := true }) (upd (.nop cc) (fun w => { w with brk := [(0, 0x10001)] }))
     onW s (fun w => (w.breakAt 0x10000).isSome && s.attached w && w.goes && (w.frame? 0).any (fun fr => (fr.split? 0).any (fun p =>
      !p.dbg && !p.skipB.contains p.pc.toNat && !fr.isParked 0 && decide (p.st = .run) && decide (p.pc = 0x10000) && w.standsActive fr p)))) = true ∧
    (let s := ctx0 (fun k => { k with attached := true }) (upd (.nop cc) (fun w => { w with rdbg := true }))
     onW s (fun w => s.attached w && w.rdbg)) = true ∧
    -- an interval that has ended, a CKPT that has asked, no interval, and a stamp above the frontier
    ([(10, 10000, false, none), (10, 0, true, none), (0, 0, false, none), (10, 0, false, some 5)].all (fun (p : Nat × Nat × Bool × Option Nat) =>
      let s : State := { ctx0 (fun k => { k with interval := p.1, asked := p.2.2.1, pending := p.2.2.2 }) State.reset with tick := p.2.1 }
      (s.ctx? 0).any (fun k => match p.2.2.2 with
        | some c => decide (s.pkgFrontier < c)
        | none => k.replay.isNone && (decide (k.interval = 0) || k.asked || decide (1000 * k.interval ≤ s.tick - k.since))))) = true ∧
    -- a stamp that the frontier has reached, with nothing on its way; a stamp that another context took on the context's own pages
    (let s := ctx0 (fun k => { k with pending := some 0, settled := true }) (at1 (.nop cc))
     (s.ctx? 0).any (fun k => decide (k.pending = some 0) && k.settled) && decide (0 ≤ s.pkgFrontier) && s.logRoom 0 &&
      s.wgs.all (fun w => decide (s.ctxOfWg w = 0) && w.drained && !s.committing w)) = true ∧
    (let s : State := { pack0 with dev := { pack0.dev with vers := [⟨0x1234, [], .committed 9, false⟩] } }
     s.dev.vers.any (fun v => decide (v.owner = .committed 9) && decide ((ckpt0 false).ck < 9) && onPages (tablePages s.dev 0x10000) v.gran &&
      decide (Tab.get 0 s.taker 9 ≠ 0 + 1))) = true ∧
    (let s := ctx0 (fun k => { k with attached := true, ckpts := [ckpt0 false] }) State.reset
     (s.ctx? 0).any (fun k => k.attached && decide (k.ckpts.find? (fun p => decide (p.num = 1)) = some (ckpt0 false))) && s.dev.vers.isEmpty && s.live.isEmpty &&
      s.parked.isEmpty && s.saved.isEmpty && s.grids.isEmpty) = true ∧
    ([true, false].all (fun ex => (ckpt0 ex).expired == ex && ([ckpt0 ex].find? (fun p => decide (p.num = 1))).isSome)) = true ∧
    ((ctx0 (fun k => { k with log := [.ckpt 1 5] }) State.reset).ctx? 0).any (fun k => k.rring.isNone && decide (k.read ≤ 1 ∧ 1 ≤ logUnits k.log)) = true := by decide +kernel

/-! ### Witnesses: grids -/

/-- A grid that waits for its gangs. -/
def pend0 : Grid := { oneGrid (oneWord 0) with st := .pending, placed := 0, total := 0, gangs := [] }
def waiting (g : Grid) : State := { pack 0 State.reset with grids := [g] }
theorem wit_GridsPlaced :
    (let s := waiting pend0; s.featOn && !s.parkedFirst pend0 && !s.placedFirst pend0 s.busyCores && decide (1 ≤ (s.spots pend0 true s.busyCores).length)) = true ∧
    (let s : State := { waiting pend0 with oos := [0, 1, 2, 3] }
     !s.parkedFirst pend0 && !s.placedFirst pend0 s.busyCores && pend0.since.isEmpty && decide ((s.spots pend0 true s.busyCores).length < 1)) = true ∧
    (let g := { oneGrid (oneWord 0) with lrec := { oneRecord with gmax := 2 } }; let s := waiting g;
     decide (g.st ≠ .pending) && g.hungry && !s.placedFirst g s.busyCores && !(s.spots g true s.busyCores).isEmpty) = true ∧
    (let g := { pend0 with since := [0] }; let s : State := { waiting g with tick := 200000 };
     (s.part? 0 0).isSome && g.reserved.isEmpty && (s.agingCluster part0 s.busyCores).isSome && !g.reported && !s.qGangplace 0) = true := by
  refine ⟨?_, ?_, ?_, ?_⟩ <;> decide +kernel

/-- Every lane of the workgroup has left. -/
def ended0 : State := onFrame (fun fr => { fr with live := 0, splits := [] }) (at1 (.nop cc))
theorem wit_Endings :
    onW ended0 (fun w => decide (ended0.wg? 1 0 = some w) && ended0.mayEnd w && ended0.mayStamp (ended0.ctxOfWg w) w none && w.storage.isNone &&
      !w.mapstore && !w.phase.tx) = true ∧
    (let g := { oneGrid (oneWord 0) with ended := [0] }
     decide (g.st ≠ .pending ∧ g.ended.length = g.lrec.gang * g.placed ∧ g.lrec.beads = 0) && g.packet.isNone && g.dropBead.isNone && g.dropRec.isNone) = true ∧
    ((oneGrid (oneWord 0)).ended.length ≠ (oneGrid (oneWord 0)).lrec.gang * (oneGrid (oneWord 0)).placed) := by
  refine ⟨?_, ?_, ?_⟩ <;> decide

/-- A grid of PRIO 1 that needs all of cluster 0, where grid 1 stands on core 0. -/
def urgent : Grid := { pend0 with id := 2, lrec := { oneRecord with gang := 4, flags := 0x100 } }
def kept0 : Grid := { oneGrid (oneWord 0) with gangs := [⟨0, 0, [0], true, 0, false, false, []⟩] }
def wgParked : Wg := { Wg.start 1 0 0 0 0 1 (oneWord 0) [] ⟨0, 0, false⟩ with halt := true }
theorem wit_Preemption :
    onW (at1 (.nop cc)) (fun w => w.tfetchAt.isNone && w.slotOps.isEmpty && w.passes.isEmpty) = true ∧
    ([0, 1000000].all (fun t => let s : State := { waiting pend0 with
        parts := [(0, some part0), (1, some { part0 with child := 1, slice := 600 })], scheds := [(0, some ⟨1, 0⟩)], tick := t }
      !(s.children 0).isEmpty && decide (Assoc.at s.scheds 0 = some ⟨1, 0⟩) && (s.nextEntry 0 1).isSome &&
        (decide (s.sliceOf 0 1 * 1000 ≤ s.tick) == decide (t ≠ 0)))) = true ∧
    (let s : State := { pack 0 (at1 (.nop cc)) with grids := [urgent, oneGrid (oneWord 0)] }
     (s.victimSet urgent).any (fun v => v.any (fun p => decide (p.1.id = 1) && p.2.any (fun k => decide (k.idx = 0))))) = true ∧
    (let s := upd (.nop cc) (fun w => { w with halt := true })
     s.live.any (fun p => p.2.is 1 0 && p.2.halt && decide (s.onCore p.1 = some p.2) && !s.inCkpt p.2)) = true ∧
    (let s : State := { waiting kept0 with parked := [wgParked] }
     !kept0.coop && kept0.gangs.all (fun k => k.parked && decide (k.idx = wgParked.gang)) && wgParked.reqs.isEmpty && wgParked.replays.isEmpty &&
      !s.inCkpt wgParked && !(s.spots kept0 false s.busyCores).isEmpty) = true := by
  refine ⟨?_, ?_, ?_, ?_, ?_⟩ <;> decide +kernel

theorem wit_TranslationEvents :
    (let s : State := { pack 0 State.reset with walks := [walk0, { walk0 with id := 4, va := 2 ^ 40 }, { walk0 with id := 5, stale := [9] }] }
     ([3, 4, 5].all (fun n => (s.walks.find? (fun w => decide (w.id = n) && !w.failed)).isSome)) && (s.walkNow 0 0 0).isSome && (s.walkNow 0 0 (2 ^ 40)).isNone) = true ∧
    (let s := upd (.nop cc) (fun w => { w with run := .xlate 0 0 0x10000 })
     (s.wg? 1 0).any (fun w => decide (w.run = .xlate 0 0 0x10000))) = true := by decide +kernel

/-! ### Witnesses: queues and the package -/

theorem wit_QueueRegisters :
    (let x := { q0 with mapped := false }; let s := withQ x State.reset;
     decide (s.queue? 1 = some x) && s.waitMap.isEmpty && decide (s.mappedCount < 32) && !({ x with wridx := 16 } : Queue).overrun) = true ∧
    2 ^ q0.desc.sizeLog2 < ((17#32 : Word32).toNat + 2 ^ 32 - q0.rdidx) % 2 ^ 32 ∧ ({ q0 with stop := 0x15 } : Queue).stop ≠ 0 ∧
    (let x := { q0 with reports := [⟨1, 1, 0, 0x0F, 0, 0⟩] }
     let s := withQ x { at1 (.nop cc) with grids := [{ oneGrid (oneWord 0) with queue := 1, st := .held }] }
     (s.grid? 1).any (fun g => decide (g.queue = 1 ∧ g.st = .held)) && (x.reports.find? (fun r => decide (r.grid = 1 ∧ r.kind = 1))).isSome) = true := by
  refine ⟨?_, ?_, ?_, ?_⟩ <;> decide

def mayRun (s : State) (q : Nat) (h : PktHdr) (x : Queue) : Bool :=
  decide (s.queue? q = some x) && x.mapped && decide (x.stop = 0) && x.ind.isNone && !h.waitBead && x.pkts.all (fun p => decide (p.id ≠ s.ids))
theorem wit_QueuePackets :
    (let s := withQ q0 (pack 2 State.reset); (s.beadAt desc0 0x8).isSome && (s.beadAt desc0 (2 ^ 40)).isNone && decide (q0.pre = .fresh) && mayRun s 1 hdr q0) = true ∧
    (let p : OpenPkt := ⟨3, some 0x8, false, none, .fresh, 0, []⟩
     ([p, { p with put := none, stop := 0x15, reports := [⟨2, 1, 0, 1, 0, 0⟩] }, { p with put := none }, { p with put := none, intr := true }].all (fun p => ([p].find? (fun k => decide (k.id = 3))).isSome))) = true ∧
    (let x := { q0 with pkts := [⟨3, none, false, none, .fresh, 0, []⟩], since := some 0 }
     mayRun { withQ x State.reset with ids := 5 } 1 hdr x) = true ∧
    (let s : State := { withQ q0 (pack 0 State.reset) with hostPg := [(0, 3)] }
     decide (3 ≤ s.hostPage (ctxOfDesc desc0) (12 * 2 ^ 60 % 2 ^ 57)) && (s.packetPage desc0 0x50000).isSome && decide (s.liveHostPins.length < 64)) = true ∧
    64 ≤ ({ State.reset with hostPins := List.replicate 64 ⟨0, false⟩ } : State).liveHostPins.length := by
  refine ⟨?_, ?_, ?_, ?_, ?_⟩ <;> decide +kernel

def rec0 : LaunchRec := { oneRecord with code := 0x41000 }
theorem wit_WorkPackets :
    (let s := withQ q0 (pack 0 State.reset)
     mayRun s 1 hdr q0 && launchBad (s.feature 4) { rec0 with gang := 3 } && !launchBad (s.feature 4) rec0 && q0.chain.isNone && !q0.desc.measured &&
      !rec0.flags.testBit 2 && isOk (s.checkPlace rec0 (partAdmits 0 0 rec0) (ctxOfDesc desc0) (s.acceptDie rec0) s.last)) = true ∧
    (let s := withQ q0 (pack 0 State.reset)
     (copyStartErr true lay0 (BitVec.ofNat 64 (12 * 2 ^ 60)) 0#64 s.lowWater (s.frontier (s.copyCluster q0.desc / 24))).isNone) = true ∧
    (let x := { q0 with chain := some ([], 0) }; let s := withQ x (pack 0 State.reset);
     mayRun s 1 hdr x && (s.measureAll x false 0 [(0x50000, 4)]).isSome && (s.packetPage x.desc 0x50000).isSome && (s.packetPage x.desc (0x50000 + 1567)).isSome &&
      (s.measureAll x false 0 [(2 ^ 40, 4)]).isNone) = true := by
  refine ⟨?_, ?_, ?_⟩ <;> decide +kernel

theorem wit_QueueEvents :
    (let s := pack 0 State.reset
     s.featOn && s.isReady 0x0C && decide (s.freeQueue < 4096) && QueueDesc.ok desc0 && (s.part? 0 0).isSome && !QueueDesc.ok { desc0 with ring := 1 }) = true ∧
    (let x := { q0 with since := some 0 }
     let s : State := { State.reset with queues := (List.range 33).map (fun n => (n, some { x with mapped := decide (n < 32) })), tick := 100000 }
     decide (s.queue? 1 = some x) && (s.queue? 32).isSome && s.waitMap.isEmpty && Tab.wf none s.queues && decide (s.mappedCount ≤ 32) &&
      decide (({ s with waitMap := [32] } : State).waitMap.head? = some 32) && decide (x.since.any (fun n => n + 100000 ≤ s.tick))) = true ∧
    (let s : State := { State.reset with msiSince := [(0, some 0)], coalesce := [(0, 7)], tick := 7000 }
     (Assoc.at s.msiSince 0).any (fun n => decide (n + 1000 * Tab.get 0 s.coalesce 0 ≤ s.tick))) = true := by decide +kernel

def fw0 (sig : Bool) : Firmware := ⟨sig, 3, [], 4, [], true, 1, []⟩
theorem wit_BringUp :
    ([true, false].all (fun b => (fw0 b).signatureOk == b && (fw0 b).pufOk) && !State.reset.fw.accepted && decide (Tab.get 0#32 State.reset.ready 0 = 0#32)) = true ∧
    (let s : State := { State.reset with fw := { State.reset.fw with accepted := true, keyed := true } }
     s.fw.accepted && decide (Tab.get 0#32 s.ready (0x200 + 4 * 63) = 0#32) && !s.featOn && !s.featSet.getLsbD 7) = true ∧
    (partsOk [part0] && !partsOk [{ part0 with slice := 99 }] && decide (part0.child = 0) && decide ((pack 0 State.reset).part? 0 0 = some part0) &&
      partsOk ({ part0 with clusters := 3 } :: (pack 0 State.reset).partList.filter (fun x => !samePartId part0 x)) &&
      (State.reset.children 0).isEmpty && State.reset.queues.isEmpty && State.reset.grids.isEmpty && !State.reset.oos.contains 6143) = true := by
  refine ⟨?_, ?_, ?_⟩ <;> decide +kernel

theorem wit_RegisterWrites :
    (let s := ctx0 (fun k => { k with attached := true }) (at1 (.nop cc)); onW s (fun w => s.attached w)) = true ∧
    (65536#64 : Word64).toNat ≤ 65536 ∧ 100 ≤ (100#64 : Word64).toNat ∧ (10000000#64 : Word64).toNat ≤ 10000000 ∧ (1000#64 : Word64).toNat ≤ 1000 := by
  refine ⟨?_, ?_, ?_, ?_, ?_⟩ <;> decide

theorem wit_Failures :
    (let s : State := { State.reset with ready := [(0x300, 0x80000000#32), (0x200 + 4 * 63, 0x80000000#32)] }
     s.isReady (0x200 + 4 * 63) && s.isReady 0x300 && !s.isReady 0x200 && s.live.isEmpty && s.svcQ.isEmpty && s.waits.isEmpty && s.returned.isEmpty &&
      s.fabric.isEmpty && s.mesh.isEmpty && s.acks.isEmpty && s.wgs.isEmpty) = true := by decide

/-! ### Witnesses: the further clauses of the events -/

/-- A grid of PRIO `p` whose two gangs age, beside a gang of grid 1 on cluster 0. -/
def aging (p : Nat) : Grid := { pend0 with id := 2, since := [0, 5], lrec := { oneRecord with gmin := 2, gmax := 2, flags := p * 0x100 } }
theorem wit_GangPlacement :
    (let s : State := { pack 0 (at1 (.nop cc)) with grids := [oneGrid (oneWord 0), aging 1], tick := 60000000 }
     (s.gangsOn 0).all (fun p => decide (p.2.prio p.1 < (aging 1).prio)) && !(s.gangsOn 0).isEmpty && decide ((s.agingCluster part0 s.busyCores) = some 0) &&
      decide ((aging 1).since[(aging 1).reserved.length]? = some 0) && decide ((s.part? 0 0) = some part0)) = true ∧
    (let s : State := { pack 0 (at1 (.nop cc)) with grids := [oneGrid (oneWord 0), aging 0], tick := 60000000 }
     (s.gangsOn 0).any (fun p => decide ((aging 0).prio ≤ p.2.prio p.1))) = true ∧
    -- with too few places, and behind a grid that is placed first
    (let s : State := { pack 0 State.reset with oos := [0, 1, 2], grids := [{ aging 0 with since := [] }] }
     s.featOn && (aging 0).hungry && decide ((s.spots (aging 0) true s.busyCores).length < (aging 0).need) && decide ((aging 0).st = .pending)) = true ∧
    (let s : State := { pack 0 State.reset with grids := [{ pend0 with lrec := { oneRecord with flags := 0x100 } }, { pend0 with id := 2 }] }
     s.placedFirst { pend0 with id := 2 } s.busyCores) = true := by
  refine ⟨?_, ?_, ?_, ?_⟩ <;> decide +kernel

/-- A final commit of a grid with a record area, or with beads, on a page that admits it or does not. -/
def finalC : Commit := ⟨3, 1, 0, .here, .final 1 0, []⟩
def areaGrid (carea beads : Nat) (p : Option Nat) : Grid := { oneGrid (oneWord 0) with lrec := { oneRecord with carea := carea, beads := beads }, packet := p, queue := 1, ended := [0] }
def filed (vmode : Byte) (g : Grid) : State := withQ q0 { pack vmode (at1 (.nop cc)) with grids := [g], commits := [finalC], last := 1 }
theorem wit_Endings_areas :
    ([(0, 0x50000, 0, true), (2, 0x50000, 0, false), (2, 0, 0x50000, true), (0, 0, 0x50000, false), (0, 2 ^ 40, 0, false)].all (fun (p : Byte × Nat × Nat × Bool) =>
      let g := areaGrid p.2.1 p.2.2.1 none
      let s := filed p.1 g
      s.commitDone finalC && decide (s.grid? 1 = some g) && (s.wg? 1 0).any (fun w => w.atomnFlags.isEmpty) && decide (finalC.stamp ≠ 0) &&
        (isOk (s.areaPage g (if p.2.1 ≠ 0 then p.2.1 else p.2.2.1) (decide (p.2.1 = 0))) == p.2.2.2))) = true ∧
    ([([], none), ([(0, Code.xlate)], some 0x16)].all (fun (p : List (Nat × Code) × Option Nat) =>
      decide (({ areaGrid 0 0 none with dropRec := p.1.head? } : Grid).areaStop.map (fun x => x.1) = p.2))) = true ∧
    ([none, some 0x50000, some (2 ^ 40)].all (fun a =>
      let g := areaGrid 0 0 (some 4)
      let p : OpenPkt := ⟨4, a, true, none, .fresh, 0, []⟩
      let x := { q0 with pkts := [p] }
      let s := withQ x (filed 2 g)
      decide (g.st ≠ .pending ∧ g.ended.length = g.lrec.gang * g.placed) && decide (s.queue? 1 = some x) && decide (x.pkts.find? (fun k => decide (k.id = 4)) = some p) &&
        (a.all (fun a => (s.beadAt x.desc a).isSome == decide (a ≠ 2 ^ 40))))) = true := by
  refine ⟨?_, ?_, ?_⟩ <;> decide +kernel

theorem wit_HaltResults :
    -- chains of running and gathering splits, and sleepers
    ([SplitSt.run, .gather 3, .sleep none, .sleep (some 9)].all (fun st =>
      let s := onSplit (fun p => { p with st := st, chain := some ⟨0x10000#64, []⟩ }) (at1 (.nop cc))
      onW s (fun w => w.slotOps.isEmpty && w.passes.isEmpty && (w.frame? 0).any (fun fr => fr.splits.any (fun p => decide (p.st = st) && p.chain.isSome))))) = true ∧
    onW (onWg (fun w => { w with rst := .sleep none }) (at1 (.nop cc))) (fun w => decide (w.rst = .sleep none) && w.slotOps.isEmpty) = true ∧
    (let s : State := { at1 (.nop cc) with waits := [⟨0, 0x8, sreq0 .btake⟩] }
     s.waits.any (fun k => decide (k.req.src = .lane 1 0 3 0))) = true ∧
    ([ActKind.snap 9 false, .launch 9 0 false].all (fun k =>
      let a : Act := ⟨3, 0, k, 0x10000, false, 0⟩
      let s := onFrame (fun fr => { fr with taken := 1 }) (upd (.nop cc) (fun w => { w with acts := [a], dqBase := 1 }))
      onW s (fun w => s.actReady w a && w.tfetchAt.isNone && decide (w.acts = [a])))) = true := by
  refine ⟨?_, ?_, ?_, ?_⟩ <;> decide

theorem wit_Preemption_restore :
    (let s : State := { waiting kept0 with parked := [wgParked] }
     kept0.gangs.all (fun k => !s.waitsSlice kept0 k && decide (wgParked.pos = 0)) && decide (((s.spots kept0 false s.busyCores).head?.map (fun p => p.2.isEmpty)) = some false)) = true := by
  decide +kernel

/-- A walk that core 0 and core 5 ask for. -/
def walk2 : Walk := { walk0 with asks := [⟨0, 1, 0, 0, 0x10000⟩, ⟨5, 2, 0, 0, 0x10000⟩] }
theorem wit_TranslationEvents_errors :
    (let s : State := { pack 0 (at1 (.nop cc)) with walks := [walk2] }
     (s.walks.find? (fun w => decide (w.id = 3) && !w.failed)).isSome && walk2.stale.isEmpty && decide (walk2.asks.length = 2) &&
      (s.wg? 1 0).any (fun w => w.storage.isNone)) = true ∧
    ([GridSt.running, .held].all (fun st =>
      let s := onGrid (fun g => { g with st := st }) (upd (.nop cc) (fun w => { w with run := .xlate 0 0 0x10000 }))
      (s.grid? 1).any (fun g => decide (g.st = st) && !g.contain) && (s.wg? 1 0).any (fun w => decide (w.run = .xlate 0 0 0x10000)))) = true := by
  refine ⟨?_, ?_⟩ <;> decide +kernel

theorem wit_QueueRegisters_waits :
    -- a stopped queue whose packet waits for its bead, and one whose header does
    ([({ q0 with stop := 0x13, op := .bead 9 } : Queue), { q0 with stop := 0x13, pre := .bead 9 }, { q0 with stop := 0x15, reports := [⟨2, 1, 0, 1, 0, 0⟩] }].all (fun x =>
      let s : State := { withQ x State.reset with waits := [⟨0, 0x8, { sreq0 .bwait with src := .packet 1 9 }⟩] }
      decide (s.queue? 1 = some x) && decide (x.stop ≠ 0))) = true ∧
    -- a held grid without a packet, and with one that puts a bead
    ([none, some 4].all (fun (p : Option Nat) =>
      let x := { q0 with reports := [⟨1, 1, 0, 0x0F, 0, 0⟩], pkts := [⟨4, some 0x8, false, none, .fresh, 0, []⟩] }
      let s := withQ x { at1 (.nop cc) with grids := [{ oneGrid (oneWord 0) with queue := 1, st := .held, packet := p }] }
      (s.grid? 1).any (fun g => decide (g.queue = 1 ∧ g.st = .held) && g.packet.all (fun id => x.pkts.any (fun k => decide (k.id = id)))) &&
        (x.reports.find? (fun r => decide (r.grid = 1 ∧ r.kind = 1))).isSome)) = true := by
  refine ⟨?_, ?_⟩ <;> decide

theorem wit_PacketHeader_coalesce :
    ([0, 7].all (fun n => let s : State := { withQ { q0 with pkts := [⟨3, none, true, none, .fresh, 0, []⟩] } State.reset with coalesce := if n = 0 then [] else [(0, n)] }
      decide (Tab.get 0 s.coalesce 0 = n) && (s.queue? 1).any (fun x => x.pkts.any (fun p => p.put.isNone && p.intr && decide (p.stop = 0))))) = true := by decide

theorem wit_PlainPackets_indirect :
    (let s : State := { withQ q0 (pack 0 State.reset) with hostPg := [(1, 2), (2, 1)] }
     -- device memory, a host page that may be read, one that may not, and an address that nothing maps
     ([(0x50000, true), (12 * 2 ^ 60 + 0x1000, true), (12 * 2 ^ 60 + 0x2000, false), (2 ^ 40, false)].all (fun (p : Nat × Bool) =>
       (s.queueBytes desc0 (256 * (p.1 / 256)) 256).isSome == p.2)) &&
      decide (s.hostPage (ctxOfDesc desc0) (12 * 2 ^ 60 % 2 ^ 57) < 3) && (s.packetPage desc0 (2 ^ 40)).isNone) = true ∧
    ([true, false].all (fun e => (({ State.reset with hostPins := [⟨7, e⟩] } : State).hostPins.find? (fun p => decide (p.stamp = 7))).any (fun p => p.expired == e))) = true := by
  refine ⟨?_, ?_⟩ <;> decide +kernel

theorem wit_WorkPackets_refused :
    (let s := withQ q0 (pack 0 State.reset)
     -- SYSTEM on a queue that is not firmware's, a partition that does not exist, no code object, too few cores, and an acceptance die that is full
     (!launchBad (s.feature 4) { rec0 with flags := 4 } && ({ rec0 with flags := 4 } : LaunchRec).flags.testBit 2 && !desc0.fw) &&
      (let r := { rec0 with flags := 2 ^ 16 }; (s.part? (recTop r) (recChild r)).isNone && partAdmits 0 0 r) && !partAdmits 0 0 { rec0 with flags := 2 ^ 20 } &&
      (s.loadCode (ctxOfDesc desc0) 0x60000 s.last).isNone && (s.loadCode (ctxOfDesc desc0) 0x41000 s.last).isSome &&
      (let r := { rec0 with gang := 4, gmin := 2, gmax := 2 }; !launchBad (s.feature 4) r && partAdmits 0 0 r && decide (s.partCores part0 < r.gmin * r.gang)) &&
      (let t : State := { s with grids := List.replicate 64 pend0 }; decide (64 ≤ (t.grids.filter (fun g => decide (g.st = .pending ∧ g.die = t.acceptDie rec0))).length))) = true ∧
    -- a measured queue
    (let x := { q0 with desc := { desc0 with measured := true }, chain := some ([], 0) }; let s := withQ x (pack 0 State.reset)
     mayRun s 1 hdr x && isOk (s.checkPlace rec0 (partAdmits 0 0 rec0) (ctxOfDesc x.desc) (s.acceptDie rec0) s.pkgFrontier)) = true := by
  refine ⟨?_, ?_⟩ <;> decide +kernel

theorem wit_Bringup_clauses :
    ((fw0 true).signatureOk && !({ fw0 true with pufOk := false } : Firmware).pufOk) = true ∧
    (let s : State := { State.reset with fw := { State.reset.fw with accepted := true } }
     s.fw.accepted && !s.featOn && decide (2 ^ 2 = 4)) = true ∧
    (let s : State := { pack 0 State.reset with fw := { State.reset.fw with accepted := true } }
     partsOk ({ part0 with top := 2, clusters := 2 } :: s.partList) && s.fw.accepted && s.featOn &&
      !partsOk [part0, { part0 with child := 1, slice := 950 }] && s.partList.all (fun p => decide (p.top ≠ 2 ∨ p.child ≠ 0)) &&
      partsOk [part0, { part0 with child := 1, slice := 900 }]) = true ∧
    -- a queue of a VF's function with and without SR-IOV
    (!(pack 0 State.reset).funcOn 1 && (pack 0 State.reset).funcOn 65 && ({ pack 0 State.reset with feat := [(0, 0x401#32)] } : State).funcOn 1) = true := by
  refine ⟨?_, ?_, ?_, ?_⟩ <;> decide +kernel

theorem wit_RegisterWrites_answers :
    (!State.reset.answers (.sampling 0) && State.reset.answers (.hostPage 0 0) && State.reset.answers (.pageEntry 1 0 0) &&
      ({ State.reset with fw := { State.reset.fw with accepted := true } } : State).answers (.coalesce 0)) = true ∧
    -- a leaf of a BEAD page
    ([(0x99#64, 2)].all (fun (p : Word64 × Nat) => p.1.getLsbD 0 && p.1.getLsbD 3 && pteOk p.1.toNat p.2 && decide (p.1.toNat / 64 % 4 = 2))) = true ∧
    (onW (at1 (.nop cc)) (fun w => !(at1 (.nop cc)).reckWaits w) && onW (onWg (fun w => { w with rst := .sleep none }) (at1 (.nop cc))) (fun w => (at1 (.nop cc)).reckWaits w)) = true := by
  refine ⟨?_, ?_, ?_⟩ <;> decide

theorem wit_Failures_requests :
    -- a request of each kind that a link holds, an answer of package 1 on its way, and a load of its memory
    ([({ State.reset with mesh := [mesh0 0 none false true] } : State), { State.reset with acks := [(7, ⟨.lane 1 0 3 0, 5, false, 0⟩)] },
      { State.reset with hostq := [⟨7, .lane 1 0 3 0, 0, 0, none⟩] }, { State.reset with peerq := [⟨7, .lane 1 0 3 0, 1, 0, none, 4⟩] }].all (fun s =>
      (s.mesh.filter (fun r => decide (r.id = 7))).map (fun r => r.src) ++ (s.acks.filter (fun p => decide (p.1 = 7))).map (fun p => p.2.src) ++
        (s.hostq.filter (fun r => decide (r.id = 7))).map (fun r => r.src) ++ (s.peerq.filter (fun r => decide (r.id = 7))).map (fun r => r.src) == [Source.lane 1 0 3 0])) = true ∧
    (let s : State := { served (at1 (.nop cc)) (sreq0 .btake) with dieIn := 1, ready := [(0x200, 0x80000000#32)] }
     (Assoc.at s.svcQ 0).any (fun l => l.any (fun r => decide (r.id = 9 ∧ r.pkg = s.pkg ∧ s.homeOf r.pkg r.pa / 24 = 0))) && s.isReady 0x200) = true ∧
    (let q := { req0 (.load 8) [] 1 with addrs := [(0, 2 ^ 48)] }
     let s : State := { asking q (at1 (.nop cc)) with replies := [(8, ⟨.lane 1 0 4 0, 1, 5, false, 0, 0⟩)] }
     decide (1 ≠ s.pkg) && s.peerCms.isEmpty && s.replies.any (fun p => decide (p.2.pkg = 1)) &&
      (s.wg? 1 0).any (fun w => decide (w.req? 3 = some q) && w.storage.isNone && decide (2 ^ 48 / 2 ^ 48 = 1))) = true ∧
    (let q := req0 (.load 0) [] 1
     let s := asking q (at1 (.nop cc))
     s.wgs.all (fun w => decide (w.req? 3 = some q)) && decide (s.wgs.length = 1) && s.mesh.isEmpty && s.replies.isEmpty) = true := by
  refine ⟨?_, ?_, ?_, ?_⟩ <;> decide

/-! ### Witnesses: the clauses beside the main ones -/

/-- Frame 0 or the reckoner stands at a word with VER 2, with U as the party has it; and a NOP of frame 0 beside a chain of frame 4. -/
def badWord (u : Bool) : State := State.reset.placeWord (if u then 0x80800000000000000000000000000000#128 else 0x80000000000000000000000000000000#128)
def chained0 : Option Chain := some ⟨0x10000#64, []⟩
def beside : State :=
  onWg (fun w => match w.frames with
    | fr :: _ => { w with frames := [fr, fr, fr, fr, fr.mapSplits (fun p => { p with chain := chained0 })] }
    | [] => w) (at1 (.nop cc))
theorem wit_StepRunsDecoded_clauses :
    ([false, true].all (fun u => let s := badWord u
      decide (s.nextTurn.1 = if u then .reck 0 else .frame 0 0 0) && !((s.nextTurn.2.settleCore 0).gate 0).2 &&
        onW ((s.nextTurn.2.settleCore 0).gate 0).1 (fun w => (decode (w.code.word 0x10000)).toOption.isNone && decide ((w.code.word 0x10000).getLsbD 119 = u) &&
          decide (w.run = .running) && !w.halt && w.storage.isNone && !w.rdbg && decide (w.rst = .run) && !w.allDead && !s.attached w &&
          !s.ckptDue (s.ctxOfWg w) && !s.replayStop w && !s.stillExpects (s.ctxOfWg w) w.missed && (w.frame? 0).any (fun fr =>
            fr.defer.isEmpty && !fr.yielded && !fr.isParked 0 && (fr.split? 0).any (fun p => !p.dbg && decide (p.st = .run)))))) = true ∧
    (beside.issues (.nop cc) && onW beside (fun w => (w.frame? 4).any (fun fr => fr.splits.any (fun p => p.chain.isSome)))) = true := by
  refine ⟨?_, ?_⟩ <;> decide +kernel

/-- A fault under CONTAIN with a record area on a plain page, on none, and without an area. -/
theorem wit_FaultTaken_contained :
    ([(0x50000, true), (2 ^ 40, false), (0, true)].all (fun (p : Nat × Bool) =>
      let g : Grid := { areaGrid p.1 0 none with lrec := { oneRecord with flags := 2, carea := p.1 }, ended := [] }
      let s := filed 0 g
      onW s (fun w => decide (w.core = 0) && !s.attached w && s.wgs.all (fun v => decide (v = w)) && (s.grid? w.grid == some g) && g.contain &&
        (decide (p.1 = 0) || (isOk (s.areaPage g p.1 false) == p.2))))) = true := by decide +kernel

/-- The address in lane 0 is `a`; every check before the one that the clause is about holds. -/
def atomAt (a : Word64) (s : State) : State := addr a s
def loadAt (i : Instr) (a : Word64) (s : State) (p : FCtx → Word64 → Bool) : Bool :=
  okF i (addr a s) && goesF (addr a s) i (fun x => (match accessOf x i with
    | some (ps, n, g, _, _) => decide (g 0 = a) && (pathOf a).isSome && ps.contains (a.toNat / 2 ^ 60) && fieldsOk a && decide (a.toNat % n = 0)
    | none => false) && p x a)
/-- Grid 2 of partition 1 holds core 4. -/
def stranger (s : State) : State :=
  { s with cores := s.cores ++ [(4, some (Wg.start 2 0 0 0 4 1 (oneWord 0) [] ⟨0, 0, false⟩))],
           grids := s.grids ++ [{ oneGrid (oneWord 0) with id := 2, lrec := { oneRecord with flags := 0x100000 } }] }
/-- A page of another partition, or that may not be written. -/
def guarded (pkey : Nat) (wr : Bool) (vmode : Nat) (s : State) : State :=
  { s with tlb := [⟨.core 0, 0, 0, ⟨0, 16, 0x100000, pkey, vmode, false, wr⟩⟩] }
def ldm0 : Instr := .ldm cc .b32 false 0 .int 4 (sr 8) 0
def ldh0 : Instr := .ldh cc .b32 false 0 .int 4 (sr 8) 0
def sth0 : Instr := .sth cc .b32 0 (sr 8) (r 4) 0
def atom0 : Instr := .atom cc .add .i32 4 (sr 8) (r 6) 0
def ldx0 : Instr := .ldx cc .b32 false 0 .f32 4 (sr 8) 0
def btake0 : Instr := .btake cc 4 (sr 8) 0
theorem wit_AddressFaults_pages :
    (let s := stranger (at1 ldm0); loadAt ldm0 (meshA + 0x0000200000000000) s (fun x a => x.s.meshPerm x.ptop (meshCore a))) = true ∧
    (loadAt ldh0 hostA (at1 ldh0) (fun x a => decide (x.s.hostPage x.ctxNo (a.toNat % 2 ^ 57) = 0)) &&
      loadAt ldh0 hostA { at1 ldh0 with hostPg := [(0, 1)] } (fun x a => decide (x.s.hostPage x.ctxNo (a.toNat % 2 ^ 57) = 1)) &&
      loadAt sth0 hostA { at1 sth0 with hostPg := [(0, 2)] } (fun x a => decide (x.s.hostPage x.ctxNo (a.toNat % 2 ^ 57) = 2))) = true ∧
    (loadAt ldx0 0x8000000000000000 (paged 0 (at1 ldx0)) (fun x a => decide (a.toNat / 2 ^ 48 % 2 ^ 8 = x.s.pkg)) &&
      loadAt ldx0 peerA { paged 0 (at1 ldx0) with fabric := [] } (fun x _ => x.s.fabric.isEmpty)) = true ∧
    (let s := { at1 atom0 with walks := [{ (⟨3, [⟨0, 1, 0, 0, 0x10000⟩], 0, 0, 0, true, []⟩ : Walk) with va := 0x40 }] }
     loadAt atom0 0x40 s (fun x a => match x.s.translatePkgs ⟨x.core, x.w.grid, x.w.idx, x.f, x.sp.pc.toNat⟩ x.ctxNo [(0, a.toNat)] [0] with | .fault _ => true | _ => false)) = true ∧
    ([(1, true, 0, atom0), (0, false, 0, atom0), (0, true, 2, atom0), (0, true, 0, btake0)].all (fun (p : Nat × Bool × Nat × Instr) =>
      loadAt p.2.2.2 0x40 (guarded p.1 p.2.1 p.2.2.1 (at1 p.2.2.2)) (fun x a =>
        (match x.s.translatePkgs ⟨x.core, x.w.grid, x.w.idx, x.f, x.sp.pc.toNat⟩ x.ctxNo [(0, a.toNat)] [0] with | .hit _ => true | _ => false) &&
        (x.s.tlbFind x.core x.ctxNo 0 a.toNat).any (fun k => decide ((k.pkey ≠ x.ptop ∨ k.wr = false) ↔ (p.1 ≠ 0 ∨ p.2.1 = false)) && decide (k.vmode = p.2.2.1))))) = true := by
  refine ⟨?_, ?_, ?_, ?_, ?_⟩ <;> decide +kernel

theorem wit_AnswersLand_clauses :
    -- a lane that the target switches off
    (let s := { asking (req0 (.load 4) [] 1) (at1 (.nop cc)) with acks := [(8, ⟨.lane 1 0 3 0, 0, true, 0⟩)] }
     (s.wg? 1 0).any (fun w => (w.frame? 0).isSome && (w.req? 3).isSome)) = true ∧
    -- an input that no log takes, and a read of the host that is on its way
    (let s := asking { req0 (.load 12) [] 1 with inp := true } { at1 (.nop cc) with hostq := [⟨7, .lane 1 0 3 0, 0, 0, none⟩], ctxs := [(0, some (Ctx.fresh 0))] }
     onW s (fun w => !w.halt && (s.ctx? (s.ctxOfWg w)).all (fun c => !c.recording && c.replay.isNone) && (w.req? 3).any (fun q => q.inp && decide (q.gen = Tab.get 0 s.gen 0)))) = true ∧
    -- a bead operation's last lane, and one of two, with BPEEK's predicate; a split that reads it
    ([(1, true), (3, false)].all (fun (p : Word32 × Bool) =>
      let q := { req0 (.service false true true) [] p.1 with nregs := 2, dst := 4, pd := 1 }
      let s := { asking q (at1 (.mov cc false .i32 1 (r 4))) with replies := [(8, ⟨.lane 1 0 3 0, 0, 5, true, 0, 0⟩)] }
      (s.wg? 1 0).any (fun w => decide (w.req? 3 = some q) && (w.frame? 0).any (fun fr => fr.splits.any (fun p => w.awaitsResults 0 fr p && (decide (q.wait = 3) || !(w.dropReq 3).awaitsResults 0 fr p))) && (decide (q.wait &&& ~~~1#32 = 0#32) == p.2)))) = true := by
  refine ⟨?_, ?_, ?_⟩ <;> decide +kernel

/-- The same copy into device memory, in group 1 of cluster 0, with AUTOPUB or without. -/
def grouped (auto : Bool) (f : Copy → Copy) : State :=
  let k := { copy0 .moving 0x100000 with group := 1, layout := { lay0 with ctl := if auto then 0x8008 else 8 } }
  upd (.nop cc) (fun w => { w with copies := [f k], slice := layBytes, groups := [(0, 1)] })
theorem wit_CopyEvents_ends :
    -- the last unit of a copy, with AUTOPUB and without
    ([true, false].all (fun auto => let s := grouped auto (fun k => { k with dst := ownA + 64 })
      (s.copyOf 3).any (fun p => decide ((p.2.group ≠ 0 ∧ p.2.layout.ctl.testBit 15 = true) ↔ auto = true) && !s.copyStalls p.2 && !p.1.halt && s.logRoom (s.ctxOfWg p.1) &&
        match s.copyGather (s.envOfWg p.1) p.2 (recCount p.2.layout) p.2.next 0 [] with
        | .ok (u, _, _) => decide (recCount p.2.layout ≤ u) | .error _ => false))) = true ∧
    -- one that fails, with AUTOPUB
    (let s := grouped true (fun k => { k with dst := ownA + 512 })
     (s.copyOf 3).any (fun p => match s.copyGather (s.envOfWg p.1) p.2 (recCount p.2.layout) p.2.next 0 [] with | .error e => decide (e ≠ 0) | .ok _ => false)) = true ∧
    -- a source in host memory, which no log takes
    (let s := hosted0 (grouped false (fun k => { k with dst := ownA + 64, src := 12 * 2 ^ 60 }))
     (s.copyOf 3).any (fun p => decide (p.2.src / 2 ^ 60 % 16 = 12) && (s.ctx? (s.ctxOfWg p.1)).all (fun c => !c.recording && c.replay.isNone) &&
       isOk (s.copyGather (s.envOfWg p.1) p.2 (recCount p.2.layout) p.2.next 0 []))) = true := by
  refine ⟨?_, ?_, ?_⟩ <;> decide +kernel

/-- Cluster barrier 0, or grid barrier 0 of a COOP grid, of a workgroup of two frames. -/
def twoFrames (b : Bar) : State :=
  coop (onGrid (fun g => { g with gbars := List.replicate 4 GBar.start })
    (upd (.nop cc) (fun w => { w with frames := w.frames ++ w.frames, cparts := w.cparts.set 0 b, gparts := w.gparts.set 0 b })))
def bar0 : Bar := Bar.start 2
def above (red : Option (Lop × LTy)) (arr : List Nat) (s : State) : State :=
  onGrid (fun g => { g with gbars := g.gbars.set 0 { GBar.start with red := red, arrived := arr },
                            gangs := g.gangs.map (fun k => { k with cbars := k.cbars.set 0 { GBar.start with red := red, arrived := arr } }) }) s
theorem wit_BarrierFrames_above :
    ([BarRef.cluster 0, .grid 0].all (fun br =>
      onW (twoFrames bar0) (fun w => (match br with | .cluster n => decide (n.toNat < w.cparts.length) | .grid n => decide (n.toNat < w.gparts.length) | _ => false) &&
        -- nobody, the reckoner, frame 1 and both have arrived
        !((w.bar br).arrived.getLsbD 0) && !(w.bar br).made && (twoFrames bar0).grids.all (fun g => g.coop)) &&
      onW (twoFrames { bar0 with arrived := 0x10000 }) (fun w => (w.bar br).arrived.getLsbD 16) &&
      onW (twoFrames { bar0 with arrived := 2 }) (fun w => !(w.bar br).arrived.getLsbD 0 && (w.bar br).arrived.getLsbD 1 && decide (w.frames.length = 2)) &&
      onW (twoFrames { bar0 with arrived := 2, red := some (.add, .i32) }) (fun w => decide ((w.bar br).red = some (.add, .i32))) &&
      onW (above (some (.max, .i32)) [] (twoFrames { bar0 with arrived := 2, red := some (.add, .i32) })) (fun w =>
        decide (((above (some (.max, .i32)) [] (twoFrames { bar0 with arrived := 2, red := some (.add, .i32) })).gbar w br).red = some (.max, .i32))) &&
      onW (twoFrames { bar0 with arrived := 3, made := true }) (fun w => (w.bar br).made))) = true := by decide +kernel

theorem wit_BarrierReleases_above :
    -- a late arrival: frame 1 has ended
    ([BarRef.cluster 0, .grid 0].all (fun br =>
      let s := onWg (fun w => { w with frames := w.frames.modify 1 (fun fr => { fr with live := 0 }) }) (twoFrames { bar0 with arrived := 1 })
      onW s (fun w => !(w.bar br).made && decide ((w.bar br).arrived ≠ 0) && (w.frame? 1).all (fun fr => decide (fr.live = 0)) &&
        (match s.arriveWg w br with | .ok _ _ => true | _ => false)))) = true ∧
    -- the one workgroup has arrived, with a waiter; and it has not
    ([BarRef.cluster 0, .grid 0].all (fun br =>
      let s := above none [0] (twoFrames { bar0 with arrived := 3, made := true, waiters := [⟨0, 0, 0, 1, some 127, false⟩, ⟨16, 0, 0, 0, none, false⟩] })
      onW s (fun w => decide ((s.lateArrivals [w] br) = s) && decide ((s.gbar w br).arrived = [0]) && decide (((w.bar br).waiters.map (·.frame)).Nodup) &&
        (w.bar br).waiters.all (fun k => k.vec.all (fun d => decide (d < 128))) && decide ((s.wg? w.grid w.idx) = some w)) &&
      onW (twoFrames bar0) (fun w => decide (((twoFrames bar0).gbar w br).arrived = []) && (w.bar br).waiters.isEmpty))) = true ∧
    -- a core barrier that has not released
    onW (at1 (.nop cc)) (fun w => !w.coreReleases (w.bar (.core 0)) && w.coreReleases { Bar.start 1 with arrived := 1 }) = true := by
  refine ⟨?_, ?_, ?_⟩ <;> decide +kernel

/-- A U action that may begin, in a workgroup of queue 1 whose slice holds a launch record: one tile, one gang, this code offset, these flags. -/
def acting (k : ActKind) (tx : Bool) (kept : Option (Nat × Nat)) : State :=
  onFrame (fun fr => { fr with taken := 1 })
    (upd (.nop cc) (fun w => { w with acts := [⟨3, 0, k, 0x10000, false, 0⟩], dqBase := 1, phase := { w.phase with tx := tx }, kept := kept }))
theorem wit_UActions_commits :
    ([(ActKind.phase, false), (.phase, true), (.txbegin, false), (.txbegin, true), (.txend 9 false, false), (.txend 9 false, true), (.launch 9 0 false, false)].all (fun p =>
      [none, some (0, 4), some (2, 0)].all (fun kept =>
        let s := acting p.1 p.2 kept
        onW s (fun w => !w.halt && w.acts.any (fun a => s.actReady w a) && decide (s.wg? w.grid w.idx = some w) && (s.ctx? (s.ctxOfWg w)).all (fun c => c.replay.isNone) && (s.grid? w.grid).isSome)))) = true := by
  decide +kernel

/-- A partition, a container and free cores behind it, as `pack` has them. -/
theorem wit_UActions_launch :
    (let s := withQ q0 (pack 0 State.reset)
     -- a record that is wrong, SYSTEM from a plain grid, a higher PRIO, no partition, and one that is accepted
     launchBad (s.feature 4) { rec0 with gang := 3 } && !launchBad (s.feature 4) { rec0 with flags := 4 } && decide ((oneGrid (oneWord 0)).system = false) &&
      decide ((oneGrid (oneWord 0)).prio < recPrio { rec0 with flags := 0x100 }) && !isOk (s.checkPlace { rec0 with flags := 0x100000 } true 0 0 s.last) &&
      isOk (s.checkPlace rec0 true 0 0 s.last) && !launchBad (s.feature 4) rec0 && !({ desc0 with measured := false } : QueueDesc).measured &&
      ({ desc0 with measured := true } : QueueDesc).measured) = true := by decide +kernel

/-- A frame that gives way to a rival at an entry's word, one of two splits, and one inside a chain. -/
theorem wit_EntryTaken_first :
    (let s := onWg (fun w => match w.frames with | fr :: _ => { w with frames := [{ fr with defer := [⟨2, 9⟩] }, fr, fr, fr, fr] } | [] => w) (entered [⟨0x10000, .nop, [], 0, 0⟩] .run)
     onW s (fun w => (w.frame? 0).any (fun fr => (fr.givesWay s.tick true (s.rivals 0 w 0 false) (s.rivals 0 w 0 true)).isSome))) = true ∧
    onFr (halves .run (entered [] .run)) (fun fr => decide (2 ≤ fr.splits.length) && (fr.givesWay 0 true false false).isNone) = true ∧
    (let s := onSplit (fun p => { p with chain := chained0 }) (entered [⟨0x10000, .nop, [], 0, 0⟩] .run)
     onW s (fun w => (w.entryAt 0).any (fun e => decide (e.pc = 0x10000)) && (w.frame? 0).any (fun fr => fr.splits.any (fun p => decide (p.chain ≠ none))))) = true := by
  refine ⟨?_, ?_, ?_⟩ <;> decide +kernel

theorem wit_DebuggerEvents_sleep :
    (let s := ctx0 (fun k => { k with attached := true }) (onSplit (fun p => { p with st := .sleep none }) (upd (.nop cc) (fun w => { w with rst := .sleep (some 9) })))
     onW s (fun w => s.attached w && decide (w.rst = .sleep (some 9)) && (w.frame? 0).any (fun fr => (fr.split? 0).any (fun p => decide (p.st = .sleep none))))) = true := by decide

/-- The image of workgroup 0 of grid 2 in the save area at 0, with 256 bytes of slice, held by CSAVE and parked. -/
theorem wit_PrivilegedResults_image :
    (let v := Wg.start 2 0 0 0 1 1 (oneWord 0) [] ⟨0, 0, false⟩
     [{ two 0 id with saved := [(0, some v)] }, { two 0 id with parked := [v] }].all (fun s =>
      decide (s.imageAt 2 0 = some (v, 0)) && s.dev.vers.isEmpty && decide (v.code.extent = 256) &&
        decide (s.dev.byteAt none (v.offsets.getD 7 0) = Tab.get 0#8 v.slice 0))) = true ∧
    -- a free core of the grid's partition for CREST, one outside it, and a workgroup whose context waits for a checkpoint
    (let v := Wg.start 2 0 0 0 1 1 (oneWord 0) [] ⟨0, 0, false⟩
     let s := { two 0 id with ready := [(0x200, 0x80000000#32)], parts := [(0, some part0)] }
     s.coreIn 2 && !s.busyCores.contains 2 && part0.clusters.testBit (clusterOf 2) && !part0.clusters.testBit (clusterOf 5) && s.coreIn 5 && v.reqs.isEmpty &&
      ({ s with ctxs := [(0, some { Ctx.fresh 0 with pending := some 7 })] } : State).ckptPending (s.ctxOfWg v) && !s.ckptPending (s.ctxOfWg v)) = true := by
  refine ⟨?_, ?_⟩ <;> decide +kernel

/-- A parked gang of the same partition goes before the grid; a checkpoint of the context waits. -/
theorem wit_GangPlacement_first :
    (let k : Grid := { kept0 with lrec := { oneRecord with gang := 4 } }
     let s : State := { waiting pend0 with grids := [k, { pend0 with id := 2 }], parked := [wgParked], oos := [0] }
     s.parkedFirst { pend0 with id := 2 } && (s.openSpots { pend0 with id := 2 } s.busyCores).isEmpty &&
      !(s.openSpots { pend0 with id := 2, reserved := [0] } s.busyCores).isEmpty) = true ∧
    (let s : State := { waiting pend0 with ctxs := [(0, some { Ctx.fresh 0 with pending := some 7 })] }
     s.ckptPending (s.ctxOf pend0) && s.featOn && pend0.hungry) = true ∧
    (let s := waiting pend0
     decide (s.openSpots pend0 s.busyCores ≠ []) && !s.ckptPending (s.ctxOf pend0) && !s.placedFirst pend0 s.busyCores && decide (pend0.lrec.gmin ≤ (s.openSpots pend0 s.busyCores).length)) = true := by
  refine ⟨?_, ?_, ?_⟩ <;> decide +kernel

/-- The workgroup's end while a replay expects an input of it. -/
theorem wit_Endings_replay :
    (let s := ctx0 (fun k => { k with replay := some ⟨[.input 0 false 7 0 32 [1]], none⟩ }) ended0
     onW s (fun w => s.mayEnd w && s.mayStamp (s.ctxOfWg w) w none && w.storage.isNone && s.stillExpects (s.ctxOfWg w) (LogEntry.isInputAt w.home)) &&
      onW ended0 (fun w => !ended0.stillExpects (ended0.ctxOfWg w) (LogEntry.isInputAt w.home))) = true := by decide +kernel

theorem wit_HaltResults_queue :
    (let s := served (at1 (.nop cc)) (sreq0 .btake)
     (Assoc.at s.svcQ 0).any (fun l => l.any (fun k => opIsBead k.op && decide (k.src = .lane 1 0 3 0))) && onW s (fun w => decide (w.grid = 1 ∧ w.idx = 0))) = true := by decide

theorem wit_TranslationEvents_lost :
    (let s : State := { pack 0 (at1 (.nop cc)) with walks := [{ walk2 with pkg := 1 }] }
     !s.pkgLive 1 && s.pkgLive 0 && (s.walks.find? (fun w => decide (w.id = 3) && !w.failed)).isSome && (s.wg? 1 0).isSome) = true := by decide +kernel

theorem wit_RequestsPerformed_clauses :
    -- a compare of zeros with another value fails and writes nothing
    decide ((atomApply .cas .i32 0 5 1).1 = none) = true ∧
    -- no port; another package's store, request and withdrawal with a port and without, and a store that the pool stalls
    (let q : PeerReq := ⟨7, .lane 1 0 3 0, 1, 0, none, 4⟩; !({ paged 0 (at1 (.nop cc)) with peerq := [q], fabric := [] } : State).pkgLive q.pkg) = true ∧
    ((paged 0 State.reset).pkgLive 1 && !State.reset.pkgLive 1 && decide (1 ≠ State.reset.pkg) && !(paged 0 State.reset).poolStalls (.peer 1 5) [0] &&
      ({ paged 0 State.reset with relief := some 0 } : State).poolStalls (.peer 1 5) [0]) = true ∧
    -- a phase of the own core whose commit has not arrived
    (let s : State := { paged 0 (at1 (.nop cc)) with peerCms := [⟨3, 1, 0, none, 1, 0, 0⟩] }
     s.peerCms.any (fun k => decide (k.pkg = 1 ∧ k.tr = none) && (s.wg? 1 0).any (fun w => decide (k.core = w.core)))) = true ∧
    -- a home whose die has left, one that no port leads to, and a request that may not be served yet
    (let s : State := { served (at1 (.nop cc)) (sreq0 .btake) with featOn := true, dieIn := 0 }
     s.homeDead 0 0 && !(served (at1 (.nop cc)) (sreq0 .btake)).homeDead 0 0 && !(at1 (.nop cc)).pkgLive 1 && (at1 (.nop cc)).reachable (sreq0 .btake) &&
      !({ at1 (.nop cc) with relief := some 0 } : State).mayServe (sreq0 (.atom .add .i32 1))) = true ∧
    -- waiters of one bead: none that its state admits, and the first and the second that it admits
    ([(false, 0), (true, 1), (true, 2)].all (fun (p : Bool × Nat) =>
      let wt : BeadWait := ⟨0, 0, sreq0 .btake⟩
      let wp : BeadWait := ⟨0, 0, sreq0 (.bput 5)⟩
      let s : State := { paged 0 (at1 (.nop cc)) with waits := if p.2 = 2 then [wp, wt] else [wt], dev := ⟨[], [], if p.1 then [(0, ⟨7, true⟩)] else []⟩ }
      s.waits.any (fun k => (beadApply k.req.op (s.dev.bead 0)).isSome && s.beadMay k.req) == p.1)) = true := by
  refine ⟨?_, ?_, ?_, ?_, ?_, ?_⟩ <;> decide +kernel

/-- A context whose replay ring of three slots is full, and one that replays an input of core 0. -/
def full0 (s : State) : State :=
  ctx0 (fun k => { k with recording := true, rring := some ⟨0x1000, 8, 0⟩, log := List.replicate 4 (.ckpt 1 1) }) s
def replays0 (e : LogEntry) (s : State) : State := ctx0 (fun k => { k with replay := some ⟨[e], none⟩ }) s
theorem wit_Log_room :
    (let s := full0 (onWg (fun w => { w with rst := .commit 5 }) (at1 (.tfetch cc 4)))
     onW s (fun w => !s.logRoom (s.ctxOfWg w) && (s.grid? w.grid).any (fun g => !s.logRoom (s.ctxOf g)))) = true ∧
    ([0x21#8, 0x22#8].all (fun n =>
      goesF (at1 (.srd cc 4 n)) (.srd cc 4 n) (fun x => x.s.logRoom (x.s.ctxOfWg x.w) && decide (x.act ≠ 0)) &&
      (match (full0 (at1 (.srd cc 4 n))).issueF (.srd cc 4 n) with | .wait _ => true | _ => false) &&
      goesR (full0 (at1 (.srdU cc 4 n))) (.srdU cc 4 n) (fun x => !x.s.logRoom (x.s.ctxOfWg x.w) && x.on))) = true ∧
    -- an input of the replay log for the read that stands there
    goesF (replays0 (.input 0 false 0 0 32 [9]) (at1 (.srd cc 4 0x21))) (.srd cc 4 0x21) (fun x =>
      (x.s.expects (x.s.ctxOfWg x.w) (LogEntry.isInputOf x.w.home false x.w.retired 32)).isSome) = true ∧
    goesR (replays0 (.input 0 true 0 0 32 [9]) (at1 (.srdU cc 4 0x22))) (.srdU cc 4 0x22) (fun x =>
      (x.s.expects (x.s.ctxOfWg x.w) (LogEntry.isInputOf x.w.home true x.w.place 32)).isSome) = true ∧
    -- the gang of %gangcore
    onW (at1 (.nop cc)) (fun w => ((at1 (.nop cc)).grid? w.grid).any (fun g => (g.gang? w.gang).any (fun k => k.cores[0]?.isSome && k.cores[1]?.isNone))) = true := by
  refine ⟨?_, ?_, ?_, ?_, ?_⟩ <;> decide +kernel

theorem wit_PhaseEvents_ports :
    (!State.reset.pkgLive 1 && (paged 0 State.reset).pkgLive 1 && decide (1 ≠ State.reset.pkg) &&
      (let k : PeerCm := ⟨3, 1, 5, none, 1, 0, 0⟩; ({ State.reset with peerCms := [k] } : State).peerCms.any (fun p => decide (p.id = 3) && p.tr.isNone)) &&
      (Assoc.at ({ State.reset with remotes := [(2, some ⟨⟨[], [], []⟩, 0⟩)] } : State).remotes 2).isSome) = true := by decide

/-- Each kind of function at its least and its greatest number, not reported before. -/
theorem wit_BringUp_functions :
    (let s : State := { State.reset with fw := { State.reset.fw with accepted := true } }
     [0, 4, 8, 0x0C, 0x100, 0x17C, 0x200, 0x2FC, 0x300, 0x344].all (fun off => s.fw.accepted && decide (Tab.get 0#32 s.ready off = 0#32) && decide (off < 0x348))) = true ∧
    decide (Tab.get 0#32 ({ State.reset with ready := [(8, 0x80000000#32)] } : State).ready 8 ≠ 0#32) = true := by
  refine ⟨?_, ?_⟩ <;> decide

theorem wit_RegisterWrites_clauses :
    (let s := ctx0 (fun k => { k with attached := true, ring := some ring0 }) { at1 (.nop cc) with fw := { State.reset.fw with accepted := true } }
     s.fw.accepted && onW s (fun w => s.attached w) && (s.ctx? 0).any (fun k => k.ring.isSome) && (s.ctx? 0).isSome && !(s.live.isEmpty)) = true ∧
    -- SIZE 27 and 28, and rings at the bounds
    ((0xD9#64 : Word64).toNat / 8 % 32 = 27 ∧ (0xE1#64 : Word64).toNat / 8 % 32 = 28) ∧
    (0x1000 % 4096 = 0 ∧ 12 ≤ 12 ∧ 30 ≤ 30 ∧ 0x1008 % 4096 ≠ 0 ∧ 11 < 12 ∧ 30 < 31) ∧
    onW (at1 (.nop cc)) (fun w => !(at1 (.nop cc)).attached w) = true := by
  refine ⟨?_, ?_, ?_, ?_⟩ <;> decide

/-- One report, and none. -/
theorem wit_QueueRegisters_reads :
    ([[], [(⟨2, 1, 3, 0x0F, 7, 0x10000⟩ : Report)]].all (fun rs =>
      let x := { q0 with reports := rs, stop := 0x15 }
      let s := withQ x State.reset
      decide (s.queue? 1 = some x) && decide (x.stop < 256) && rs.all (fun r => decide (r.grid < 2 ^ 32 ∧ r.wg < 2 ^ 32 ∧ r.pc < 2 ^ 64 ∧ r.kind < 256 ∧ r.trap < 2 ^ 16)))) = true := by decide

/-- A read of MEASURE that meets an error. -/
theorem wit_WorkPackets_error :
    (let x := { q0 with chain := some ([], 0) }
     mayRun (withQ x (pack 0 State.reset)) 1 { hdr with err := true } x && ({ hdr with err := true } : PktHdr).err) = true := by decide +kernel

/-- A measured queue before a container of 0x1040 bytes whose page the launch unit's translations hold; its size reaches beyond the mapped gigabyte in
the other state. -/
def launching (big : Bool) : State :=
  let s := withQ { q0 with desc := { desc0 with measured := true }, chain := some ([], 0) } (pack 0 State.reset)
  { s with tlb := [⟨.unit, 0, 0, ⟨0x40000, 16, 0x40000, 0, 0, false, true⟩⟩],
           dev := ⟨if big then Tab.set 0 (bytes0 0) 0x4000B 0x50 else bytes0 0, [], []⟩ }

theorem launching_page (k : Nat) (hk : k < 0x1040) : ((launching false).pageAt .unit 0 (launching false).pkg (0x40000 + k)).isSome = true := by
  have h : (⟨0x40000, 16, 0x40000, 0, 0, false, true⟩ : PageEnt).holds (0x40000 + k) = true := by
    unfold PageEnt.holds; exact decide_eq_true (by show (0x40000 + k) / 2 ^ 16 * 2 ^ 16 = 0x40000; omega)
  have hp : (launching false).pageAt .unit 0 (launching false).pkg (0x40000 + k) = some ⟨0x40000, 16, 0x40000, 0, 0, false, true⟩ := by
    simp [State.pageAt, launching, withQ, State.setQueue, pack, State.reset, h]
  rw [hp]; rfl

theorem wit_WorkPackets_measured :
    (mayRun (launching false) 1 hdr { q0 with desc := { desc0 with measured := true }, chain := some ([], 0) } = true ∧
      (((launching false).ctxBytes 0 (some 0) 0x40008 8).map bytesToNat) = some 0x1040 ∧ ((launching false).ctxBytes 0 (some 0) 0x40000 0x1040).isSome = true ∧
      ((launching false).ctxBytes 0 (some 0) 0 0).isSome = true ∧ (launching false).ctxBytes 0 (some 0) (2 ^ 40) 16 = none) ∧
    (((launching true).ctxBytes 0 (some 0) 0x40008 8).map bytesToNat) = some 0x50001040 ∧ (launching true).ctxBytes 0 (some 0) 0x40000 0x50001040 = none := by
  refine ⟨⟨?_, ?_, State.ctxBytes_isSome (fun k hk => ⟨launching_page k hk, by omega⟩), ?_, ?_⟩, ?_, State.ctxBytes_none (k := 2 ^ 30) (by decide) ?_⟩ <;> decide +kernel

/-! ### The third review -/

/-- A request that waits for its place in a replay, one behind it that need not follow it, and one that must; a workgroup that CSAVE holds; a BPEEK at a halt. -/
theorem wit_RequestsPerformed_replay :
    (let a := sreq0 .btake
     let b := { sreq0 (.abtst 0) with id := 10, src := .lane 1 0 4 1 }
     let s := replays0 (.bead 7 0 0 0 0) { served (at1 (.nop cc)) a with svcQ := [(0, some [a, b])] }
     !s.mayServe a && s.replayHeld a && s.mayServe b && !s.precedes a b && !s.homeDead 0 0 && s.reachable a && s.reachable b &&
      s.precedes a { b with src := .lane 1 0 4 0 }) = true ∧
    (let v := Wg.start 3 0 0 0 1 1 (oneWord 0) [] ⟨0, 0, false⟩
     let s : State := { two 0 id with saved := [(0, some v)] }
     (s.held.find? (fun p => p.2.is 3 0)).isSome && s.live.all (fun p => !p.2.is 3 0) && s.parked.all (fun u => !u.is 3 0) && s.held.all (fun p => !p.2.is 1 0)) = true ∧
    (let s := served (at1 (.nop cc)) (sreq0 .bpeek)
     (Assoc.at s.svcQ 0).any (fun l => l.any (fun k => decide (k.op = .bpeek)))) = true := by
  refine ⟨?_, ?_, ?_⟩ <;> decide +kernel

/-- A tile that the log gives, and a replay without one that has entries left. -/
theorem wit_TileFetch_replay :
    ([(LogEntry.grant 0 1 5, true), (.ckpt 1 1, false)].all (fun p =>
      let s := onGrid (fun g => { g with ranges := [(0, 0, 4)] }) (replays0 p.1 (onWg (fun w => { w with rst := .commit 5 }) (at1 (.tfetch cc 4))))
      onW s (fun w => w.tfetchAt.isSome && s.logRoom 0 && (s.grid? w.grid).any (fun g => decide (s.ctxOf g = 0) && (g.grant (dieOf 0)).1.isSome) &&
        ((s.expects 0 (LogEntry.isGrantOf w.home)).isSome == p.2)))) = true := by decide +kernel

/-- The reckoner stopped with what its step left over or not; a checkpoint's stamp that is not final, a workgroup that is not drained. -/
theorem wit_DebuggerEvents_over :
    ([true, false].all (fun ended =>
      let s := ctx0 (fun k => { k with attached := true })
        (upd (.nop cc) (fun w => { w with rdbg := true, rends := some 9, acts := if ended then [] else [⟨9, 0, .phase, 0x10000, false, 0⟩] }))
      onW s (fun w => s.attached w && (s.reckStopped w == ended) && decide (w.rst = .run)))) = true ∧
    (let f := fun (b : Bool) (s : State) => ctx0 (fun k => { k with pending := some 7, settled := b }) s
     (f false (at1 (.nop cc))).ctxDrained 0 && !(f true (asking (req0 (.store 4) [] 1) (at1 (.nop cc)))).ctxDrained 0 &&
      decide ((f true (at1 (.nop cc))).pkgFrontier < 7)) = true := by
  refine ⟨?_, ?_⟩ <;> decide +kernel

/-- A grid behind one of higher PRIO, behind one that was accepted earlier, and before one that does not fit. -/
theorem wit_GangPlacement_turn :
    (let s := fun (gs : List Grid) => { waiting pend0 with grids := gs }
     let late := { pend0 with id := 2 }
     let big := { urgent with lrec := { urgent.lrec with gmin := 2000, gmax := 2000 } }
     (s [pend0, urgent]).placedFirst pend0 [] && (s [pend0, late]).placedFirst late [] && !(s [pend0, late]).placedFirst pend0 [] &&
      !(s [pend0, big]).placedFirst pend0 [] && decide (pend0.prio < urgent.prio ∧ pend0.prio = late.prio) && urgent.hungry && late.hungry &&
      decide (urgent.need ≤ ((s [pend0, urgent]).openSpots urgent []).length)) = true := by decide +kernel

/-- A bead of a package that the fabric lists, with a ready port and with none. -/
theorem wit_Beads_cut :
    (let s : State := { paged 0 State.reset with fabric := [(1, [0])], ready := [] }
     s.beadCut 0x8001000000000000 && !s.beadCut 0x8002000000000000 && !s.beadCut 0 && !(paged 0 State.reset).beadCut 0x8001000000000000) = true := by decide +kernel

/-! ### The fourth review -/

/-- A second arrival whose operand has the wrong tag waits, and counts as waiting for the clock gating (R210, R218); a first one faults. -/
def barF : Instr := .bar cc (some .add) .f32 false false false 0 (some (r 4)) (.core 0) false 0
theorem test_bar_again_waits :
    (let s := barred { Bar.start 2 with arrived := 1 } barF
     after (exec barF s) (fun t => onW t (fun w => w.fault.isNone && decide (w.bar (.core 0) = { Bar.start 2 with arrived := 1 }))) &&
      onW s (fun w => (w.frame? 0).any (fun fr => fr.splits.any (fun p => s.splitBlocks w 0 fr p)))) = true := by decide +kernel
theorem wit_BarrierFrames_again :
    goesF (barred { Bar.start 2 with arrived := 1 } barF) barF (fun x => (x.w.bar (.core 0)).arrived.getLsbD x.f && decide (x.sp.st ≠ .acquire)) = true ∧
    goesF (barred (Bar.start 2) barF) barF (fun x => !(x.w.bar (.core 0)).arrived.getLsbD x.f && !isOk (x.leaves (some .add) .f32 (some (r 4)))) = true := by
  refine ⟨?_, ?_⟩ <;> decide +kernel

/-- A frame between a COPY and its CANCEL reads the status that the CANCEL took over (R198, R199, R266). -/
def cancelled (halt : Bool) : State :=
  onFrame (fun fr => { fr with taken := 1 }) (upd (.nop cc) (fun w => { w with
    halt := halt, copies := [{ copy0 .finishing (ownA + 64) with err := 0x40 }], dq := [⟨0x10010, .nop, [(9, 7)], 0, 0⟩], dqBase := 1,
    pend := [⟨9, 0, .copy 3⟩, ⟨9, 1, .copy 3⟩], lastCopy := [] }))
theorem test_cancel_between :
    (onW (cancelled false) (fun w => (w.sFrame 1 0x10000 9).isNone) &&
      after (exec (.copyDone 3) (cancelled false)) (fun t => onW t (fun w => decide (w.sFrame 1 0x10000 9 = some 0xC000000000000000#64)))) = true := by decide +kernel
/-- A CANCEL in flight completes at the halt, and in a saved workgroup (R388). -/
theorem test_cancel_halt :
    (let t := (cancelled false).haltNow 0
     onW t (fun w => w.copies.isEmpty && w.pend.isEmpty && decide (w.sreg 9 = 0xC000000000000000#64)) &&
      after (exec (.copyDone 3) (cancelled true)) (fun t => onW t (fun w => w.copies.isEmpty && decide (w.sreg 9 = 0xC000000000000000#64)))) = true := by decide +kernel
theorem wit_HaltResults_cancel :
    (onW (cancelled false) (fun w => decide ((w.copies.filter (fun c => c.over && w.cancelled c)).length = 1) && w.slotOps.isEmpty && w.copies.all (fun c => !c.wbs)) &&
      onW (cancelled true) (fun w => w.halt && w.pend.any (fun p => decide (p.src = .copy 3 ∧ p.pos ≠ 0)) && w.dq.length == 1)) = true := by decide +kernel

/-- Bead requests that a halt withdraws come back in the order of their issue, one that waits at its bead before one that is queued (R282). -/
theorem test_withdrawn_order :
    (let s : State := { served (at1 (.nop cc)) { sreq0 .btake with id := 10, src := .lane 1 0 3 1 } with waits := [⟨0, 0, sreq0 .btake⟩] }
     onW (s.haltNow 0) (fun w => decide (w.replays.map (fun k => k.lane) = [0, 1]))) = true := by decide +kernel

/-- A grid with a reserved cluster starts behind another with every gang that fits beside what that one takes (R295, R297). -/
def behind : Grid := { pend0 with id := 3, reserved := [1], lrec := { oneRecord with gang := 4, gmin := 1, gmax := 2 } }
def wide3 (gs : List Grid) : State :=
  let p : PartDesc := { part0 with clusters := 7 }
  { waiting pend0 with grids := gs, parts := ((waiting pend0).parts.map (fun q => if q.2.isSome then (q.1, some p) else q)) }
theorem wit_GangPlacement_behind :
    (let s := wide3 [{ urgent with lrec := { urgent.lrec with gmin := 1, gmax := 1 } }, behind]
     s.placedFirst behind s.busyCores && decide (s.claimed behind s.busyCores = [0, 1, 2, 3]) &&
      decide ((s.turnSpots behind s.busyCores).map (fun p => p.1) = [1, 2])) = true := by decide +kernel

/-- R302: die 4 steals 14 of die 3's 27 indices, as the table there has it, also where a replay has left them in two pieces. -/
theorem test_steal :
    (let held (g : Grid) (d : Nat) := (g.ranges.filter (fun p => decide (p.1 = d))).flatMap (fun p => List.range' p.2.1 (p.2.2 - p.2.1))
     let a := ({ oneGrid (oneWord 0) with ranges := [(3, 40, 67), (4, 100, 100)] } : Grid).grant 4
     let b := ({ oneGrid (oneWord 0) with ranges := [(3, 10, 14), (3, 15, 18), (5, 20, 25)] } : Grid).grant 4
     decide (a.1 = some 53 ∧ held a.2 3 = List.range' 40 13 ∧ held a.2 4 = List.range' 54 13) &&
       decide (b.1 = some 13 ∧ held b.2 3 = [10, 11, 12] ∧ held b.2 4 = [15, 16, 17] ∧ held b.2 5 = [20, 21, 22, 23, 24])) = true := by decide +kernel
theorem wit_TileFetch_steal :
    (let rs : List (Nat × Nat × Nat) := [(3, 40, 67), (4, 100, 100)]
     decide (tilesLeft rs 4 = 0 ∧ 0 < tilesLeft rs 3 ∧ stealFrom rs = some 3)) = true := by decide

/-- Two accesses of one pair of cores, and two of one lane that has changed its core between them (R314, R316). -/
theorem wit_AccessesPerformed_order :
    (let q := mesh0 0 none true true
     let r := { mesh0 0 none false true with id := 8, src := .lane 1 0 4 0, score := 5 }
     let s := upd (.nop cc) (fun w => { w with reqs := [req0 (.store 4) [] 1, { req0 (.load 4) [] 1 with id := 4 }] })
     let s := { s with mesh := [q, r] }
     s.oneLane q r && decide (q.score ≠ r.score ∧ q.tcore = r.tcore) && after (exec (.meshAccessArrive 8) s) (fun t => decide (t.mesh = s.mesh))) = true := by decide +kernel

/-- Firmware maps a page where every stack is ready, and none before (R368). -/
theorem wit_RegisterWrites_stacks :
    (let s : State := { State.reset with ready := (List.range 32).map (fun k => (0x100 + 4 * k, 0x80000000#32)) }
     s.stacksReady && !State.reset.stacksReady && mapsPage 0x99 2 && !mapsPage 1 0) = true := by decide +kernel

/-- A page walk and a copy unit that a failing link carries (R324). -/
theorem wit_Failures_link :
    (let s : State := { pack 0 (at1 (.nop cc)) with walks := [walk0] }
     (s.walks.find? (fun k => decide (k.id = 3) && !k.failed)).isSome && (s.wg? 1 0).isSome &&
      after (exec (.vyhalLinkFailure [3]) s) (fun t => onW t (fun w => w.storage.isSome && w.endflags.testBit 5))) = true ∧
    (let s := copying .moving (ownA + 64)
     (s.copyOf 3).any (fun p => decide (p.2.st = .moving ∧ p.2.group = 0) && !p.1.halt && p.2.pkt.isNone && decide (s.wg? p.1.grid p.1.idx = some p.1)) &&
      after (exec (.vyhalLinkFailure [3]) s) (fun t => (t.copyOf 3).any (fun p => decide (p.2.err = 0x0A) && p.1.endflags.testBit 5))) = true := by
  refine ⟨?_, ?_⟩ <;> decide +kernel

/-- SRD with no active lane, and an LDX behind a TXABORT that is still to take effect (R190, R337). -/
theorem wit_SpecialReads_off : (let i := Instr.srd cf 4 0x22; WellFormed i && goesF (at1 i) i (fun x => decide (x.act = 0))) = true := by decide
theorem test_ldx_waits :
    (let w : Wg := Wg.start 1 0 0 0 0 1 (oneWord 0) [] ⟨0, 0, true⟩
     (ldx0.shape).any (fun p => ({ w with acts := [⟨3, 0, .txabort, 0x10000, false, 0⟩] } : Wg).actsBefore 1 p && !w.actsBefore 1 p)) = true := by decide +kernel

/-- A lane of a class 0xB request that a halt has withdrawn and another whose answer is on its way: the image is not whole (R388, R408). -/
theorem test_not_drained :
    (let q := req0 (.service false false false) [] 3
     let w : Wg := { Wg.start 1 0 0 0 0 1 (oneWord 0) [] ⟨0, 0, true⟩ with reqs := [q], replays := [⟨q.id, 0, .btake, 0, 0⟩] }
     !w.drained && ({ w with reqs := [{ q with wait := 1 }] } : Wg).drained) = true := by decide +kernel

end Sys2Proof.Tests
end

section
/-!
PROOFS. The frame forms of class 0x1 and RNG: the functions of the ALU give the values of R116 to R134 and R187, each word runs one of the
shared operations on them, and those complete with the result.
-/
namespace Sys2Proof.Machine

open Sys2Proof Safety

/-! ### Products, quotients, and the order of a type (R116, R124, R126, R127) -/

theorem aluMulh_eq_fdiv (ty : ITy) (a b : Word32) : aluMulh ty.uns a b = BitVec.ofInt 32 ((num ty a * num ty b).fdiv (2 ^ 32)) := by
  rw [Int.fdiv_eq_ediv_of_nonneg _ (by decide)]
  rfl

theorem aluDiv_eq_quotient (ty : ITy) (a b : Word32) : aluDiv ty.uns a b = quotient ty a b := by
  have hsign : (if a.toInt < 0 then 0x80000000#32 else 0x7FFFFFFF#32) = if 0 ≤ a.toInt then 0x7FFFFFFF#32 else 0x80000000#32 := by
    simp only [← Int.not_lt, ite_not]
  unfold aluDiv quotient
  rw [hsign]
  rfl

theorem aluRem_eq_remainder (ty : ITy) (a b : Word32) : aluRem ty.uns a b = remainder ty a b := rfl

/-- The type's reading of a value loses nothing (R117). -/
theorem num_inj {w : Nat} {ty : ITy} {a b : BitVec w} (h : num ty a = num ty b) : a = b := by
  unfold num at h
  split at h
  · exact BitVec.eq_of_toNat_eq (Int.ofNat_inj.mp h)
  · exact BitVec.eq_of_toInt_eq h

theorem aluMin_eq {w : Nat} (ty : ITy) (a b : BitVec w) : aluMin ty.uns a b = if num ty a ≤ num ty b then a else b := by
  simp only [← Int.not_lt, ite_not]
  rfl

theorem aluMax_eq {w : Nat} (ty : ITy) (a b : BitVec w) : aluMax ty.uns a b = if num ty a ≤ num ty b then b else a := by
  have hmax : aluMax ty.uns a b = if num ty a < num ty b then b else a := rfl
  rw [hmax]
  rcases Int.lt_trichotomy (num ty a) (num ty b) with h | h | h
  · rw [if_pos h, if_pos (Int.le_of_lt h)]
  · simp [num_inj h]
  · rw [if_neg (by omega), if_neg (by omega)]

theorem aluAbs_eq (a : Word32) : aluAbs a = if a.toInt < 0 then 0#32 - a else a := by
  have ha := a.isLt
  have hint := BitVec.toInt_eq_toNat_cond a
  unfold aluAbs
  apply BitVec.eq_of_toNat_eq
  split
  · rw [BitVec.toNat_ofNat, BitVec.toNat_sub, BitVec.toNat_ofNat]
    split at hint <;> omega
  · rw [BitVec.toNat_ofNat]
    split at hint <;> omega

/-! ### Shifts and funnel shifts (R129, R130) -/

theorem aluShl_eq_mul {w : Nat} (a : BitVec w) (n : Nat) : aluShl a n = BitVec.ofNat w (a.toNat * 2 ^ n) := by
  unfold aluShl
  apply BitVec.eq_of_toNat_eq
  split
  next h =>
    obtain ⟨k, rfl⟩ := Nat.exists_eq_add_of_le h
    rw [BitVec.toNat_ofNat, Nat.pow_add, Nat.mul_left_comm, Nat.mul_mod_right]
    simp
  next => rw [BitVec.toNat_shiftLeft, BitVec.toNat_ofNat, Nat.shiftLeft_eq]

theorem ushiftRight_eq_div {w : Nat} (a : BitVec w) (n : Nat) : a >>> n = BitVec.ofNat w (a.toNat / 2 ^ n) := by
  apply BitVec.eq_of_toNat_eq
  rw [BitVec.toNat_ushiftRight, BitVec.toNat_ofNat, Nat.shiftRight_eq_div_pow,
    Nat.mod_eq_of_lt (Nat.lt_of_le_of_lt (Nat.div_le_self _ _) a.isLt)]

theorem aluShr_eq_div {w : Nat} (a : BitVec w) (n : Nat) : aluShr a n = BitVec.ofNat w (a.toNat / 2 ^ n) := by
  unfold aluShr
  split
  next h =>
    rw [Nat.div_eq_of_lt (Nat.lt_of_lt_of_le a.isLt (Nat.pow_le_pow_right (by decide) h))]
    rfl
  next => exact ushiftRight_eq_div a n

/-- A count past the width leaves the sign alone, as the width itself does. -/
theorem sshiftRight_min_width {w : Nat} (a : BitVec w) (n : Nat) : a.sshiftRight (min n w) = a.sshiftRight n := by
  apply BitVec.eq_of_getLsbD_eq
  intro i hi
  rcases Nat.le_total n w with h | h
  · rw [Nat.min_eq_left h]
  · rw [BitVec.getLsbD_sshiftRight, BitVec.getLsbD_sshiftRight, if_neg (by omega), if_neg (by omega)]

theorem aluSar_eq_fdiv {w : Nat} (a : BitVec w) (n : Nat) : aluSar a n = BitVec.ofInt w (a.toInt.fdiv (2 ^ n)) := by
  have hpos : (0 : Int) ≤ 2 ^ n := Int.le_of_lt (Int.pow_pos (by decide))
  rw [aluSar, sshiftRight_min_width, BitVec.sshiftRight, Int.shiftRight_eq_div_pow, Int.fdiv_eq_ediv_of_nonneg _ hpos]
  norm_cast

/-- The 64-bit value of a high and a low word (R130). -/
theorem toNat_append_eq_add (a b : Word32) : (a ++ b : Word64).toNat = a.toNat * 2 ^ 32 + b.toNat := by
  rw [BitVec.toNat_append, ← Nat.shiftLeft_add_eq_or_of_lt b.isLt, Nat.shiftLeft_eq]

theorem aluFshl_eq (a b c : Word32) : aluFshl a b c = (((a ++ b : Word64) <<< (min c.toNat 32)) >>> 32).setWidth 32 := by
  unfold aluFshl
  apply BitVec.eq_of_toNat_eq
  rw [BitVec.toNat_setWidth, BitVec.toNat_ushiftRight, BitVec.toNat_shiftLeft, toNat_append_eq_add, BitVec.toNat_ofNat,
    Nat.shiftLeft_eq, Nat.shiftRight_eq_div_pow, show (2 : Nat) ^ 64 = 2 ^ 32 * 2 ^ 32 by decide, Nat.mod_mul_right_div_self, Nat.mod_mod]

theorem aluFshr_eq (a b c : Word32) : aluFshr a b c = ((a ++ b : Word64) >>> (min c.toNat 32)).setWidth 32 := by
  unfold aluFshr
  apply BitVec.eq_of_toNat_eq
  rw [BitVec.toNat_setWidth, BitVec.toNat_ushiftRight, toNat_append_eq_add, BitVec.toNat_ofNat, Nat.shiftRight_eq_div_pow]

/-! ### Counts of bits (R131) -/

theorem popcount_eq_length (n x : Nat) : popcount n x = ((List.range n).filter (fun k => x.testBit k)).length := by
  induction n generalizing x with
  | zero => rfl
  | succ n ih =>
    have hbit : x % 2 = (x.testBit 0).toNat := by rw [Nat.toNat_testBit, Nat.pow_zero, Nat.div_one]
    have htail : (fun k => x.testBit k) ∘ Nat.succ = fun k => (x / 2).testBit k := funext fun k => Nat.testBit_succ x k
    rw [popcount, ih, List.range_succ_eq_map, List.filter_cons, List.filter_map, htail, hbit]
    cases x.testBit 0 <;> simp [Nat.add_comm]

/-- The zeros above the last set bit. -/
theorem leadingZeros_eq (a : Word32) (n : Nat) :
    leadingZeros a n = match ((List.range n).filter (fun k => a.getLsbD k)).getLast? with | some k => n - 1 - k | none => n := by
  induction n with
  | zero => rfl
  | succ n ih =>
    rw [leadingZeros, ih, List.range_succ, List.filter_append]
    cases hbit : a.getLsbD n
    · simp only [List.filter_cons, hbit, List.filter_nil, List.append_nil, Bool.false_eq_true, if_false]
      cases hl : ((List.range n).filter (fun k => a.getLsbD k)).getLast? with
      | none => rfl
      | some k =>
        have hk : k < n := List.mem_range.mp (List.mem_filter.mp (List.mem_of_getLast? hl)).1
        show n - 1 - k + 1 = n + 1 - 1 - k
        omega
    · simp [hbit]

/-- The zeros below the first set bit. -/
theorem trailingZeros_eq (a : Word32) (i n : Nat) :
    trailingZeros a i n = match ((List.range' i n).filter (fun k => a.getLsbD k)).head? with | some k => k - i | none => n := by
  induction n generalizing i with
  | zero => rfl
  | succ n ih =>
    rw [trailingZeros, ih, List.range'_succ, List.filter_cons]
    cases hbit : a.getLsbD i
    · simp only [Bool.false_eq_true, if_false]
      cases hl : ((List.range' (i + 1) n).filter (fun k => a.getLsbD k)).head? with
      | none => rfl
      | some k =>
        have hk : i + 1 ≤ k := (List.mem_range'_1.mp (List.mem_filter.mp (List.mem_of_head? hl)).1).1
        show k - (i + 1) + 1 = k - i
        omega
    · simp

theorem aluPopc_eq (a : Word32) : aluPopc a = BitVec.ofNat 32 (Safety.setBits a).length := by
  unfold aluPopc Safety.setBits
  rw [popcount_eq_length]
  rfl

theorem aluClz_eq (a : Word32) : aluClz a = BitVec.ofNat 32 (match (Safety.setBits a).getLast? with | some k => 31 - k | none => 32) := by
  unfold aluClz Safety.setBits
  rw [leadingZeros_eq]

theorem aluCtz_eq (a : Word32) : aluCtz a = BitVec.ofNat 32 (match (Safety.setBits a).head? with | some k => k | none => 32) := by
  unfold aluCtz Safety.setBits
  rw [trailingZeros_eq, List.range_eq_range']
  rfl

theorem reverseNat_lt (n x : Nat) : reverseNat n x < 2 ^ n := by
  induction n generalizing x with
  | zero => exact Nat.one_pos
  | succ n ih =>
    have htail := ih (x / 2)
    have htop : x % 2 * 2 ^ n ≤ 1 * 2 ^ n := Nat.mul_le_mul_right (2 ^ n) (by omega)
    rw [reverseNat, Nat.pow_succ]
    omega

theorem testBit_reverseNat (n x i : Nat) : (reverseNat n x).testBit i = (decide (i < n) && x.testBit (n - 1 - i)) := by
  induction n generalizing x with
  | zero => simp [reverseNat]
  | succ n ih =>
    rw [reverseNat, Nat.mul_comm, Nat.testBit_two_pow_mul_add _ (reverseNat_lt n (x / 2)), ih]
    split
    next h =>
      rw [show n + 1 - 1 - i = (n - 1 - i) + 1 by omega, Nat.testBit_succ]
      simp [h, Nat.lt_succ_of_lt h]
    next h =>
      by_cases hi : i = n
      · subst hi; simp
      · rw [show x % 2 = x % 2 ^ 1 from rfl, Nat.testBit_mod_two_pow]
        simp [show ¬ i - n < 1 by omega, show ¬ i < n + 1 by omega]

theorem aluReverse_eq {w : Nat} (a : BitVec w) : aluReverse a = a.reverse := by
  apply BitVec.eq_of_getLsbD_eq
  intro i hi
  rw [aluReverse, BitVec.getLsbD_ofNat, testBit_reverseNat, BitVec.getLsbD_reverse, BitVec.getMsbD]
  simp [hi, BitVec.testBit_toNat]

/-! ### Fields and bytes (R132, R133) -/

theorem aluBfx_eq_fieldOf (ty : ITy) (a b c : Word32) : aluBfx ty.uns a b c = fieldOf ty a b.toNat c.toNat := rfl

/-- FILL of a control byte, from its two bits (R133). -/
theorem bitsOf_four_two (c : Byte) : bitsOf c.toNat 4 2 = (c.getLsbD 4).toNat + 2 * (c.getLsbD 5).toNat := by
  revert c; decide

theorem aluPickByte_eq (x : Word64) (c : Byte) : aluPickByte x c = Safety.pickByte x c := by
  have hy : x.extractLsb' (8 * (c.toNat % 8)) 8 = (x >>> (8 * (c.toNat % 8))).setWidth 8 := rfl
  unfold aluPickByte Safety.pickByte
  rw [bitsOf_four_two, hy]
  generalize (x >>> (8 * (c.toNat % 8))).setWidth 8 = y
  have hnot : ∀ r : Byte, ~~~r = 0xFF#8 - r := fun r => (BitVec.allOnes_sub_eq_not r).symm
  simp only [hnot, aluReverse_eq]
  cases c.getLsbD 3 <;> cases c.getLsbD 4 <;> cases c.getLsbD 5 <;> rfl

theorem aluBpick_eq (a b sel : Word32) :
    aluBpick a b sel =
      Safety.pickByte (b ++ a) (sel.extractLsb' 24 8) ++ Safety.pickByte (b ++ a) (sel.extractLsb' 16 8) ++
        Safety.pickByte (b ++ a) (sel.extractLsb' 8 8) ++ Safety.pickByte (b ++ a) (sel.extractLsb' 0 8) := by
  simp only [aluBpick, aluPickByte_eq]

/-- The bits of a number put together from a low part, a field and a high part. -/
theorem testBit_field {lo mid p n : Nat} (hi i : Nat) (hlo : lo < 2 ^ p) (hmid : mid < 2 ^ n) :
    (lo + mid * 2 ^ p + hi * 2 ^ (p + n)).testBit i =
      if i < p then lo.testBit i else if i < p + n then mid.testBit (i - p) else hi.testBit (i - (p + n)) := by
  have hlow : 2 ^ p * mid + lo < 2 ^ (p + n) := by
    calc 2 ^ p * mid + lo < 2 ^ p * (mid + 1) := by rw [Nat.mul_succ]; omega
      _ ≤ 2 ^ p * 2 ^ n := Nat.mul_le_mul_left _ hmid
      _ = 2 ^ (p + n) := (Nat.pow_add 2 p n).symm
  have hsum : lo + mid * 2 ^ p + hi * 2 ^ (p + n) = 2 ^ (p + n) * hi + (2 ^ p * mid + lo) := by
    rw [Nat.mul_comm mid, Nat.mul_comm hi, Nat.add_comm, Nat.add_comm lo]
  rw [hsum, Nat.testBit_two_pow_mul_add _ hlow, Nat.testBit_two_pow_mul_add _ hlo]
  rcases Nat.lt_or_ge i p with hp | hp
  · rw [if_pos (Nat.lt_add_right n hp), if_pos hp, if_pos hp]
  · rcases Nat.lt_or_ge i (p + n) with hn | hn
    · rw [if_pos hn, if_neg (Nat.not_lt.mpr hp), if_neg (Nat.not_lt.mpr hp), if_pos hn]
    · rw [if_neg (Nat.not_lt.mpr hn), if_neg (Nat.not_lt.mpr hp), if_neg (Nat.not_lt.mpr hn)]

/-- Bits `p` to `p + n - 1` of the base replaced by the low bits of `a`, by a mask (R132). -/
theorem insert_field_eq (a base : Word32) (p n : Nat) :
    (base &&& ~~~BitVec.ofNat 32 ((2 ^ n - 1) * 2 ^ p)) ||| (BitVec.ofNat 32 (a.toNat * 2 ^ p) &&& BitVec.ofNat 32 ((2 ^ n - 1) * 2 ^ p)) =
      BitVec.ofNat 32 (base.toNat % 2 ^ p + (a.toNat % 2 ^ n) * 2 ^ p + base.toNat / 2 ^ (p + n) * 2 ^ (p + n)) := by
  apply BitVec.eq_of_getLsbD_eq
  intro i hi
  have hsum := testBit_field (base.toNat / 2 ^ (p + n)) i (Nat.mod_lt base.toNat (Nat.two_pow_pos p)) (Nat.mod_lt a.toNat (Nat.two_pow_pos n))
  simp only [BitVec.getLsbD_or, BitVec.getLsbD_and, BitVec.getLsbD_not, BitVec.getLsbD_ofNat, hi, decide_true, Bool.true_and, hsum,
    Nat.testBit_mul_two_pow, Nat.testBit_two_pow_sub_one, Nat.testBit_mod_two_pow, Nat.testBit_div_two_pow, BitVec.testBit_toNat]
  by_cases hp : i < p
  · simp [hp, Nat.not_le.mpr hp]
  · by_cases hn : i < p + n
    · simp [hp, hn, Nat.not_lt.mp hp, show i - p < n by omega]
    · simp [hp, hn, show ¬ i - p < n by omega, show i - (p + n) + (p + n) = i by omega]

theorem aluBfi_eq (a base c : Word32) :
    aluBfi a base c =
      let p := min (c.toNat % 256) 32
      let n := min (c.toNat / 256 % 256) (32 - p)
      BitVec.ofNat 32 (base.toNat % 2 ^ p + (a.toNat % 2 ^ n) * 2 ^ p + base.toNat / 2 ^ (p + n) * 2 ^ (p + n)) :=
  insert_field_eq a base _ _

/-! ### Addresses, random numbers, and sums with a carry -/

theorem aluLea_eq {w : Nat} (a : BitVec w) (b : Int) (sh : Nat) :
    aluLea a b sh = a + BitVec.ofInt w b * BitVec.ofNat w (2 ^ sh) := by
  unfold aluLea
  rw [BitVec.ofInt_add, BitVec.ofInt_mul, BitVec.ofInt_natCast, BitVec.ofNat_toNat, BitVec.setWidth_eq]
  norm_cast

/-- LEA on 32 bits reads its index unsigned (R134). -/
theorem aluLea_narrow (a b : Word32) (sh : Nat) : aluLea a (b.toNat : Int) sh = a + b * BitVec.ofNat 32 (2 ^ sh) := by
  rw [aluLea_eq, BitVec.ofInt_natCast, BitVec.ofNat_toNat, BitVec.setWidth_eq]

/-- LEA of a pair reads its index signed (R134). -/
theorem aluLea_wide (a : Word64) (b : Word32) (sh : Nat) : aluLea a b.toInt sh = a + b.signExtend 64 * BitVec.ofNat 64 (2 ^ sh) :=
  aluLea_eq a b.toInt sh

theorem aluRng_eq (a k0 k1 : Word32) :
    aluRng a k0 k1 =
      let h := a * 0x85EBCA6B#32 + k0
      let h := h ^^^ BitVec.ofNat 32 (h.toNat / 2 ^ 15)
      let h := h * 0xC2B2AE35#32 + k1
      h ^^^ BitVec.ofNat 32 (h.toNat / 2 ^ 13) := by
  simp only [aluRng, ushiftRight_eq_div]

theorem aluAdd_eq_carryOf (w : Nat) : aluAdd = carryOf w false := by
  funext a b c
  have hsum : (a.toNat : Int) + b.toNat + (if c then 1 else 0) = ((a.toNat + b.toNat + c.toNat : Nat) : Int) := by
    cases c <;> simp
  have hpow : ((2 : Int) ^ w ≤ ((a.toNat + b.toNat + c.toNat : Nat) : Int)) = (2 ^ w ≤ a.toNat + b.toNat + c.toNat) := by
    norm_cast
  unfold aluAdd carryOf
  simp only [Bool.false_eq_true, if_false, hsum, hpow, BitVec.ofInt_natCast]

theorem aluSub_eq_carryOf (w : Nat) : aluSub = carryOf w true := by
  funext a b c
  cases c <;> rfl

/-! ### What each word of class 0x1 runs -/

/-- The instruction names an aligned pair as its destination. -/
def WritesPair (i : Instr) (dst : BitVec 7) : Prop := ∃ p, i.shape = some p ∧ p.dst = some (dst, 2)

/-- The destination of a form of 32 and 64 bits is a pair where the type is wide (R51). -/
theorem WritesPair.of_wide {i : Instr} {p : Shape} {dst : BitVec 7} {ty : ITy} (hp : i.shape = some p) (hd : p.dst = some (dst, ty.pair))
    (hw : ty.w64 = true) : WritesPair i dst := by
  refine ⟨p, hp, ?_⟩
  rw [hd, ITy.pair, hw]
  rfl

/-- The pair of a well-formed frame form lies within the registers (R32). -/
theorem WritesPair.dst_le {i : Instr} {dst : BitVec 7} (h : WritesPair i dst) (hwf : WellFormed i = true) (hu : isU i = false) :
    dstOf i + 2 ≤ 128 := by
  obtain ⟨p, hp, hd⟩ := h
  refine dst_group hwf hp hd ?_ (.inr (.inl rfl))
  rwa [isU, hp] at hu

/-- A 32-bit shift is a 32-bit operation that reads its whole count from B (R129). -/
theorem State.shift_narrow (s : State) (i : Instr) (u : Bool) {ty : ITy} (hw : ¬ty.w64 = true) (dst : BitVec 7) (a b : Src)
    (f32 : Word32 → Nat → Word32) (f64 : Word64 → Nat → Word64) :
    s.shift i u ty dst a b f32 f64 = s.int32 i u ty.uns dst a b noSrc (fun p q _ => f32 p q.toNat) := by
  rw [State.shift, if_neg hw]

@[simp] theorem FCtx.raw_imm (x : FCtx) (v : Word32) (j l : Nat) : x.raw (.imm v) j l = v := rfl

@[simp] theorem RCtx.val32_imm (r : RCtx) (v : Word32) : r.val32 (.imm v) = v := by
  rw [RCtx.val32, RCtx.val, aluExt, if_pos rfl]
  exact BitVec.setWidth_setWidth_of_le v (by decide)

/-- MOVI reads no source: its immediate is the result, in either form (R121). -/
theorem execMovi_eq (c : Ctl) (u : Bool) (ty : ITy) (dst : BitVec 7) (v : Word32) (s : State) :
    execMovi c u ty dst v s = s.int32 (.movi c u ty dst v) u ty.uns dst noSrc noSrc noSrc (fun _ _ _ => v) := by
  simp only [execMovi, State.int32, FCtx.raw_imm, RCtx.val32_imm]

/-- A word of `int32Of` runs the shared 32-bit operation on its own sources, in the frame form and in the U form. -/
theorem exec_int32Of {i : Instr} {z : Bool} {f : Word32 → Word32 → Word32 → Word32} (h : int32Of i = some (z, f)) (s : State) :
    ∃ (dst : BitVec 7) (g : Word32 → Word32 → Word32 → Word32), dst.toNat = dstOf i ∧ (∀ p q r, g p q r = f p q r) ∧
      exec i s = s.int32 i (isU i) z dst (srcA i) (srcB i) (srcC i) g := by
  cases i with
  | movi c u ty dst v =>
    cases h
    exact ⟨dst, fun _ _ _ => v, rfl, fun _ _ _ => rfl, execMovi_eq c u ty dst v s⟩
  | imul c u ty dst a b =>
    cases h
    exact ⟨dst, fun p q _ => aluMul ty.uns p q, rfl, fun _ _ _ => rfl, rfl⟩
  | imulh c u ty dst a b =>
    cases h
    exact ⟨dst, fun p q _ => aluMulh ty.uns p q, rfl, fun p q _ => aluMulh_eq_fdiv ty p q, rfl⟩
  | imad c u ty dst a b d =>
    cases h
    exact ⟨dst, aluMad ty.uns, rfl, fun _ _ _ => rfl, rfl⟩
  | idiv c u ty dst a b =>
    cases h
    exact ⟨dst, fun p q _ => aluDiv ty.uns p q, rfl, fun p q _ => aluDiv_eq_quotient ty p q, rfl⟩
  | irem c u ty dst a b =>
    cases h
    exact ⟨dst, fun p q _ => aluRem ty.uns p q, rfl, fun p q _ => aluRem_eq_remainder ty p q, rfl⟩
  | imin c u ty dst a b =>
    obtain ⟨hw, h⟩ := Option.ite_none_left_eq_some.mp h
    cases h
    exact ⟨dst, fun p q _ => aluMin ty.uns p q, rfl, fun p q _ => aluMin_eq ty p q, if_neg hw⟩
  | imax c u ty dst a b =>
    obtain ⟨hw, h⟩ := Option.ite_none_left_eq_some.mp h
    cases h
    exact ⟨dst, fun p q _ => aluMax ty.uns p q, rfl, fun p q _ => aluMax_eq ty p q, if_neg hw⟩
  | iabs c u ty dst a =>
    cases h
    exact ⟨dst, fun p _ _ => aluAbs p, rfl, fun p _ _ => aluAbs_eq p, rfl⟩
  | and c u ty dst a b =>
    obtain ⟨hw, h⟩ := Option.ite_none_left_eq_some.mp h
    cases h
    exact ⟨dst, fun p q _ => p &&& q, rfl, fun _ _ _ => rfl, if_neg hw⟩
  | or c u ty dst a b =>
    obtain ⟨hw, h⟩ := Option.ite_none_left_eq_some.mp h
    cases h
    exact ⟨dst, fun p q _ => p ||| q, rfl, fun _ _ _ => rfl, if_neg hw⟩
  | xor c u ty dst a b =>
    obtain ⟨hw, h⟩ := Option.ite_none_left_eq_some.mp h
    cases h
    exact ⟨dst, fun p q _ => p ^^^ q, rfl, fun _ _ _ => rfl, if_neg hw⟩
  | not c u ty dst a =>
    obtain ⟨hw, h⟩ := Option.ite_none_left_eq_some.mp h
    cases h
    exact ⟨dst, fun p _ _ => ~~~p, rfl, fun _ _ _ => rfl, if_neg hw⟩
  | shl c u ty dst a b =>
    obtain ⟨hw, h⟩ := Option.ite_none_left_eq_some.mp h
    cases h
    exact ⟨dst, fun p q _ => aluShl p q.toNat, rfl, fun p q _ => aluShl_eq_mul p q.toNat, State.shift_narrow s _ u hw dst a b aluShl aluShl⟩
  | shr c u ty dst a b =>
    obtain ⟨hw, h⟩ := Option.ite_none_left_eq_some.mp h
    cases h
    exact ⟨dst, fun p q _ => aluShr p q.toNat, rfl, fun p q _ => aluShr_eq_div p q.toNat, State.shift_narrow s _ u hw dst a b aluShr aluShr⟩
  | sar c u ty dst a b =>
    obtain ⟨hw, h⟩ := Option.ite_none_left_eq_some.mp h
    cases h
    exact ⟨dst, fun p q _ => aluSar p q.toNat, rfl, fun p q _ => aluSar_eq_fdiv p q.toNat, State.shift_narrow s _ u hw dst a b aluSar aluSar⟩
  | fshl c u ty dst a b d =>
    cases h
    exact ⟨dst, aluFshl, rfl, aluFshl_eq, rfl⟩
  | fshr c u ty dst a b d =>
    cases h
    exact ⟨dst, aluFshr, rfl, aluFshr_eq, rfl⟩
  | popc c u ty dst a =>
    cases h
    exact ⟨dst, fun p _ _ => aluPopc p, rfl, fun p _ _ => aluPopc_eq p, rfl⟩
  | clz c u ty dst a =>
    cases h
    exact ⟨dst, fun p _ _ => aluClz p, rfl, fun p _ _ => aluClz_eq p, rfl⟩
  | ctz c u ty dst a =>
    cases h
    exact ⟨dst, fun p _ _ => aluCtz p, rfl, fun p _ _ => aluCtz_eq p, rfl⟩
  | brev c u ty dst a =>
    cases h
    exact ⟨dst, fun p _ _ => aluBrev p, rfl, fun p _ _ => aluReverse_eq p, rfl⟩
  | bfx c u ty dst a b d =>
    cases h
    exact ⟨dst, aluBfx ty.uns, rfl, aluBfx_eq_fieldOf ty, rfl⟩
  | bfi c u ty dst a b d =>
    cases h
    exact ⟨dst, aluBfi, rfl, aluBfi_eq, rfl⟩
  | bpick c u ty dst a b d =>
    cases h
    exact ⟨dst, aluBpick, rfl, aluBpick_eq, rfl⟩
  | lea c u w64 sh dst a b =>
    obtain ⟨hw, h⟩ := Option.ite_none_left_eq_some.mp h
    obtain rfl : w64 = false := Bool.eq_false_iff.mpr hw
    cases h
    exact ⟨dst, fun p q _ => aluLea p (q.toNat : Int) sh.toNat, rfl, fun p q _ => aluLea_narrow p q sh.toNat, rfl⟩
  | rng c dst a b d =>
    cases h
    exact ⟨dst, aluRng, rfl, aluRng_eq, rfl⟩
  | _ => cases h

/-- A word of `int64Of` runs the shared 64-bit operation on its own sources, in the frame form and in the U form. -/
theorem exec_int64Of {i : Instr} {ty : ITy} {f : Word64 → Word64 → Word64} (h : int64Of i = some (ty, f)) (s : State) :
    ∃ (dst : BitVec 7) (g : Word64 → Word64 → Word64), WritesPair i dst ∧ (∀ p q, g p q = f p q) ∧
      exec i s = s.int64 i (isU i) ty.uns dst (srcA i) (srcB i) g := by
  cases i with
  | imin c u ty dst a b =>
    obtain ⟨hw, h⟩ := Option.ite_none_right_eq_some.mp h
    cases h
    exact ⟨dst, aluMin ty.uns, .of_wide rfl rfl hw, aluMin_eq ty, if_pos hw⟩
  | imax c u ty dst a b =>
    obtain ⟨hw, h⟩ := Option.ite_none_right_eq_some.mp h
    cases h
    exact ⟨dst, aluMax ty.uns, .of_wide rfl rfl hw, aluMax_eq ty, if_pos hw⟩
  | and c u ty dst a b =>
    obtain ⟨hw, h⟩ := Option.ite_none_right_eq_some.mp h
    cases h
    exact ⟨dst, fun p q => p &&& q, .of_wide rfl rfl hw, fun _ _ => rfl, if_pos hw⟩
  | or c u ty dst a b =>
    obtain ⟨hw, h⟩ := Option.ite_none_right_eq_some.mp h
    cases h
    exact ⟨dst, fun p q => p ||| q, .of_wide rfl rfl hw, fun _ _ => rfl, if_pos hw⟩
  | xor c u ty dst a b =>
    obtain ⟨hw, h⟩ := Option.ite_none_right_eq_some.mp h
    cases h
    exact ⟨dst, fun p q => p ^^^ q, .of_wide rfl rfl hw, fun _ _ => rfl, if_pos hw⟩
  | not c u ty dst a =>
    obtain ⟨hw, h⟩ := Option.ite_none_right_eq_some.mp h
    cases h
    exact ⟨dst, fun p _ => ~~~p, .of_wide rfl rfl hw, fun _ _ => rfl, if_pos hw⟩
  | _ => cases h

/-- A word of `shift64Of` runs the shared shift at a wide type on its own sources, in the frame form and in the U form. -/
theorem exec_shift64Of {i : Instr} {ty : ITy} {f : Word64 → Nat → Word64} (h : shift64Of i = some (ty, f)) (s : State) :
    ∃ (dst : BitVec 7) (f32 : Word32 → Nat → Word32) (g : Word64 → Nat → Word64), WritesPair i dst ∧ ty.w64 = true ∧ (∀ p n, g p n = f p n) ∧
      exec i s = s.shift i (isU i) ty dst (srcA i) (srcB i) f32 g := by
  cases i with
  | shl c u ty dst a b =>
    obtain ⟨hw, h⟩ := Option.ite_none_right_eq_some.mp h
    cases h
    exact ⟨dst, aluShl, aluShl, .of_wide rfl rfl hw, hw, aluShl_eq_mul, rfl⟩
  | shr c u ty dst a b =>
    obtain ⟨hw, h⟩ := Option.ite_none_right_eq_some.mp h
    cases h
    exact ⟨dst, aluShr, aluShr, .of_wide rfl rfl hw, hw, aluShr_eq_div, rfl⟩
  | sar c u ty dst a b =>
    obtain ⟨hw, h⟩ := Option.ite_none_right_eq_some.mp h
    cases h
    exact ⟨dst, aluSar, aluSar, .of_wide rfl rfl hw, hw, aluSar_eq_fdiv, rfl⟩
  | _ => cases h

/-! ### Frame forms with a pair or a carry -/

section

variable {s : State} {i : Instr} {x : FCtx}

/-- A frame instruction whose meaning is one 64-bit value by lane. -/
theorem State.runF_pair (h : s.issueF i = .go x) (hd : dstOf i + 2 ≤ 128) (v : FCtx → Nat → Word64) :
    ∃ t, s.runF i (fun y => .ok (y.finish i { Out.none with regs := y.dpair (v y) })) = .next t ∧ Computes i x t (Result.two (v x)) :=
  State.runF_finish h _ _ rfl (Result.two (v x)) hd rfl rfl (ResidGives.nil rfl) (.inr ⟨rfl, rfl⟩)

/-- A frame instruction whose meaning is one 64-bit value and one predicate by lane. -/
theorem State.runF_pair_pred (h : s.issueF i = .go x) (hd : dstOf i + 2 ≤ 128) (v : FCtx → Nat → Word64) (p : FCtx → Nat → Bool) :
    ∃ t, s.runF i (fun y => .ok (y.finish i { Out.none with regs := y.dpair (v y), preds := y.predOut (p y) })) = .next t ∧
      Computes i x t { Result.two (v x) with pred := some (p x) } :=
  State.runF_finish h _ _ rfl { Result.two (v x) with pred := some (p x) } hd rfl rfl (ResidGives.nil rfl) (.inr ⟨rfl, rfl⟩)

/-- A frame instruction whose meaning is one 32-bit value and one predicate by lane. -/
theorem State.runF_one_pred (h : s.issueF i = .go x) (v : FCtx → Nat → Word32) (p : FCtx → Nat → Bool) :
    ∃ t, s.runF i (fun y => .ok (y.finish i { Out.none with regs := [y.dreg .int (v y)], preds := y.predOut (p y) })) = .next t ∧
      Computes i x t { Result.one .int (v x) with pred := some (p x) } :=
  State.runF_finish h _ _ rfl { Result.one .int (v x) with pred := some (p x) } (dst_lt i) rfl rfl (ResidGives.nil rfl) (.inr ⟨rfl, rfl⟩)

/-- A shift of a pair by the one register of its count (R129). -/
theorem State.shift_frame_wide (h : s.issueF i = .go x) (hd : dstOf i + 2 ≤ 128) {ty : ITy} (hw : ty.w64 = true) (dst : BitVec 7) (a b : Src)
    (f32 : Word32 → Nat → Word32) (f64 : Word64 → Nat → Word64) :
    ∃ t, s.shift i false ty dst a b f32 f64 = .next t ∧
      Computes i x t (Result.two (fun l => f64 (x.raw64 ty.uns a l) (x.raw b 0 l).toNat)) := by
  rw [State.shift, if_pos hw, if_neg Bool.false_ne_true]
  exact State.runF_pair h hd (fun y l => f64 (y.raw64 ty.uns a l) (y.raw b 0 l).toNat)

/-- An addition or subtraction of a frame writes what its two functions give, with the carry in from the predicate CINP (R122). -/
theorem State.addSub_frame (h : s.issueF i = .go x) {ty : ITy} (hd : ty.w64 = true → dstOf i + 2 ≤ 128) (cin : Bool) (cinp : BitVec 3)
    (dst : BitVec 7) (pd : BitVec 3) (a b : Src) (f32 : Word32 → Word32 → Bool → Word32 × Bool) (f64 : Word64 → Word64 → Bool → Word64 × Bool) :
    let k := fun l => cin && x.fr.pred l cinp.toNat
    ∃ t, s.addSub i false ty cin cinp dst pd a b f32 f64 = .next t ∧ Computes i x t
      (if ty.w64 then
        { Result.two (fun l => (f64 (x.raw64 ty.uns a l) (x.raw64 ty.uns b l) (k l)).1) with
          pred := some (fun l => (f64 (x.raw64 ty.uns a l) (x.raw64 ty.uns b l) (k l)).2) }
      else
        { Result.one .int (fun l => (f32 (x.raw a 0 l) (x.raw b 0 l) (k l)).1) with
          pred := some (fun l => (f32 (x.raw a 0 l) (x.raw b 0 l) (k l)).2) }) := by
  intro k
  rw [State.addSub, if_neg Bool.false_ne_true]
  by_cases hw : ty.w64 = true
  · simp only [hw, if_true]
    exact State.runF_pair_pred h (hd hw) (fun y l => (f64 (y.raw64 ty.uns a l) (y.raw64 ty.uns b l) (cin && y.fr.pred l cinp.toNat)).1)
      (fun y l => (f64 (y.raw64 ty.uns a l) (y.raw64 ty.uns b l) (cin && y.fr.pred l cinp.toNat)).2)
  · simp only [hw]
    exact State.runF_one_pred h (fun y l => (f32 (y.raw a 0 l) (y.raw b 0 l) (cin && y.fr.pred l cinp.toNat)).1)
      (fun y l => (f32 (y.raw a 0 l) (y.raw b 0 l) (cin && y.fr.pred l cinp.toNat)).2)

/-! ### The results of the frame forms -/

theorem exec_int32Of_frame {z : Bool} {f : Word32 → Word32 → Word32 → Word32} (hf : int32Of i = some (z, f)) (hu : isU i = false)
    (h : s.issueF i = .go x) :
    ∃ t, exec i s = .next t ∧
      Computes i x t (Result.one .int (fun l => f (x.raw (srcA i) 0 l) (x.raw (srcB i) 0 l) (x.raw (srcC i) 0 l))) := by
  obtain ⟨dst, g, -, hg, hexec⟩ := exec_int32Of hf s
  obtain rfl : g = f := funext fun p => funext fun q => funext (hg p q)
  rw [hexec, hu]
  exact State.int32_frame h z dst _ _ _ g

theorem exec_int64Of_frame {ty : ITy} {f : Word64 → Word64 → Word64} (hf : int64Of i = some (ty, f)) (hwf : WellFormed i = true)
    (hu : isU i = false) (h : s.issueF i = .go x) :
    ∃ t, exec i s = .next t ∧ Computes i x t (Result.two (fun l => f (x.raw64 ty.uns (srcA i) l) (x.raw64 ty.uns (srcB i) l))) := by
  obtain ⟨dst, g, hpair, hg, hexec⟩ := exec_int64Of hf s
  obtain rfl : g = f := funext fun p => funext (hg p)
  rw [hexec, hu]
  exact State.int64_frame h (hpair.dst_le hwf hu) ty.uns dst _ _ g

theorem exec_shift64Of_frame {ty : ITy} {f : Word64 → Nat → Word64} (hf : shift64Of i = some (ty, f)) (hwf : WellFormed i = true)
    (hu : isU i = false) (h : s.issueF i = .go x) :
    ∃ t, exec i s = .next t ∧ Computes i x t (Result.two (fun l => f (x.raw64 ty.uns (srcA i) l) (x.raw (srcB i) 0 l).toNat)) := by
  obtain ⟨dst, f32, g, hpair, hw, hg, hexec⟩ := exec_shift64Of hf s
  obtain rfl : g = f := funext fun p => funext (hg p)
  rw [hexec, hu]
  exact State.shift_frame_wide h (hpair.dst_le hwf hu) hw dst _ _ f32 g

/-- LEA.64 adds the signed index, scaled (R134). -/
theorem exec_lea_wide_frame {c : Ctl} {sh : BitVec 3} {dst : BitVec 7} {a b : Src} (hwf : WellFormed (.lea c false true sh dst a b) = true)
    (h : s.issueF (.lea c false true sh dst a b) = .go x) :
    ∃ t, exec (.lea c false true sh dst a b) s = .next t ∧ Computes (.lea c false true sh dst a b) x t
      (Result.two (fun l => x.raw64 false a l + (x.raw b 0 l).signExtend 64 * BitVec.ofNat 64 (2 ^ sh.toNat))) := by
  have hpair : WritesPair (.lea c false true sh dst a b) dst := ⟨_, rfl, rfl⟩
  simp only [← aluLea_wide]
  exact State.runF_pair h (hpair.dst_le hwf rfl) (fun y l => aluLea (y.raw64 false a l) (y.raw b 0 l).toInt sh.toNat)

/-- IMADW adds the whole product to the 64-bit C (R125). -/
theorem exec_imadw_frame {c : Ctl} {ty : ITy} {dst : BitVec 7} {a b d : Src} (hwf : WellFormed (.imadw c false ty dst a b d) = true)
    (h : s.issueF (.imadw c false ty dst a b d) = .go x) :
    ∃ t, exec (.imadw c false ty dst a b d) s = .next t ∧ Computes (.imadw c false ty dst a b d) x t
      (Result.two (fun l => BitVec.ofInt 64 (num ty (x.raw a 0 l) * num ty (x.raw b 0 l) + (x.raw64 ty.uns d l).toNat))) := by
  have hpair : WritesPair (.imadw c false ty dst a b d) dst := ⟨_, rfl, rfl⟩
  exact State.runF_pair h (hpair.dst_le hwf rfl) (fun y l => aluMadw ty.uns (y.raw a 0 l) (y.raw b 0 l) (y.raw64 ty.uns d l))

/-- IADD and ISUB run the one addition with `carryOf` at the width of the type. -/
theorem exec_addSub {sub u cin : Bool} {c : Ctl} {ty : ITy} {cinp : BitVec 3} {dst : BitVec 7} {pd : BitVec 3} {a b : Src}
    (hi : i = if sub then .isub c u ty cin cinp dst pd a b else .iadd c u ty cin cinp dst pd a b) :
    exec i s = s.addSub i u ty cin cinp dst pd a b (carryOf 32 sub) (carryOf 64 sub) := by
  cases sub
  · obtain rfl : i = .iadd c u ty cin cinp dst pd a b := hi
    rw [← aluAdd_eq_carryOf, ← aluAdd_eq_carryOf]
    rfl
  · obtain rfl : i = .isub c u ty cin cinp dst pd a b := hi
    rw [← aluSub_eq_carryOf, ← aluSub_eq_carryOf]
    rfl

/-- The destination of a .64 IADD or ISUB of a frame is a pair. -/
theorem addSub_dst_le {sub cin : Bool} {c : Ctl} {ty : ITy} {cinp : BitVec 3} {dst : BitVec 7} {pd : BitVec 3} {a b : Src}
    (hi : i = if sub then .isub c false ty cin cinp dst pd a b else .iadd c false ty cin cinp dst pd a b) (hwf : WellFormed i = true)
    (hw : ty.w64 = true) : dstOf i + 2 ≤ 128 := by
  cases sub
  · obtain rfl : i = .iadd c false ty cin cinp dst pd a b := hi
    exact (WritesPair.of_wide rfl rfl hw).dst_le hwf rfl
  · obtain rfl : i = .isub c false ty cin cinp dst pd a b := hi
    exact (WritesPair.of_wide rfl rfl hw).dst_le hwf rfl

/-- IADD3 writes the sum of three registers, and whether it carries (R123). -/
theorem exec_iadd3_frame {c : Ctl} {ty : ITy} {dst : BitVec 7} {pd : BitVec 3} {a b d : Src}
    (h : s.issueF (.iadd3 c false ty dst pd a b d) = .go x) :
    let sum := fun l => (x.raw a 0 l).toNat + (x.raw b 0 l).toNat + (x.raw d 0 l).toNat
    ∃ t, exec (.iadd3 c false ty dst pd a b d) s = .next t ∧ Computes (.iadd3 c false ty dst pd a b d) x t
      { Result.one .int (fun l => BitVec.ofNat 32 (sum l)) with pred := some (fun l => decide (2 ^ 32 ≤ sum l)) } :=
  State.runF_one_pred h (fun y l => (aluAdd3 (y.raw a 0 l) (y.raw b 0 l) (y.raw d 0 l)).1)
    (fun y l => (aluAdd3 (y.raw a 0 l) (y.raw b 0 l) (y.raw d 0 l)).2)

end

/-- Settles O16: each word of class 0x1, and RNG, runs one of the shared operations, whose result by lane is the value that the rules give. -/
theorem integerFrameResults : Obligations.IntegerFrameResults := by
  unfold Obligations.IntegerFrameResults
  refine ⟨fun s i x z f hf _ hu h => exec_int32Of_frame hf hu h, fun s i x hwf hu h => ⟨?_, ?_, ?_, ?_⟩, fun s i x hwf h => ⟨?_, ?_⟩⟩
  · exact fun ty f hf => exec_int64Of_frame hf hwf hu h
  · exact fun ty f hf => exec_shift64Of_frame hf hwf hu h
  · rintro c sh dst a b rfl
    exact exec_lea_wide_frame hwf h
  · rintro c ty dst a b d rfl
    exact exec_imadw_frame hwf h
  · intro sub c ty cin cinp dst pd a b hi
    rw [exec_addSub hi]
    exact State.addSub_frame h (addSub_dst_le hi hwf) cin cinp dst pd a b (carryOf 32 sub) (carryOf 64 sub)
  · rintro c ty dst pd a b d rfl
    exact exec_iadd3_frame h

end Sys2Proof.Machine
end

section
/-!
PROOFS. ILLEGAL, PRIV and UND: every word runs as a frame instruction or as a U instruction, whichever its shape says, and the checks that an
attempt meets first decide its fault.
-/
namespace Sys2Proof.Machine

open Sys2Proof Safety

/-! ### What runs a word (R30, R48) -/

/-- An outcome is an attempt of an instruction: by the reckoner where `u`, by a frame where not. -/
inductive Attempt (s : State) (i : Instr) : Bool → Out3 → Prop
  | frame (k : FCtx → Except Code State) : Attempt s i false (s.runF i k)
  | reck (off : EntryKind) (k : RCtx → Except Code State) : Attempt s i true (s.runR i off k)

section

variable {s : State} {i : Instr}

theorem Attempt.of_frame {o : Out3} (h : Attempt s i false o) : ∃ k, o = s.runF i k := by
  cases h with
  | frame k => exact ⟨k, rfl⟩

theorem Attempt.of_reck {o : Out3} (h : Attempt s i true o) : ∃ off k, o = s.runR i off k := by
  cases h with
  | reck off k => exact ⟨off, k, rfl⟩

theorem Attempt.ofForm (u : Bool) (off : EntryKind) (k : RCtx → Except Code State) (k' : FCtx → Except Code State) :
    Attempt s i u (if u then s.runR i off k else s.runF i k') := by
  cases u
  · exact .frame k'
  · exact .reck off k

theorem Attempt.ite {u : Bool} {c : Prop} [Decidable c] {a b : Out3} (ha : Attempt s i u a) (hb : Attempt s i u b) :
    Attempt s i u (if c then a else b) := by
  split
  · exact ha
  · exact hb

theorem State.int32_attempt (u uns : Bool) (dst : BitVec 7) (a b d : Src) (f : Word32 → Word32 → Word32 → Word32) :
    Attempt s i u (s.int32 i u uns dst a b d f) := .ofForm u _ _ _

theorem State.int64_attempt (u uns : Bool) (dst : BitVec 7) (a b : Src) (f : Word64 → Word64 → Word64) :
    Attempt s i u (s.int64 i u uns dst a b f) := .ofForm u _ _ _

theorem State.shift_attempt (u : Bool) (ty : ITy) (dst : BitVec 7) (a b : Src) (f32 : Word32 → Nat → Word32) (f64 : Word64 → Nat → Word64) :
    Attempt s i u (s.shift i u ty dst a b f32 f64) := .ite (.ofForm u _ _ _) (s.int32_attempt ..)

theorem State.addSub_attempt (u : Bool) (ty : ITy) (cin : Bool) (cinp : BitVec 3) (dst : BitVec 7) (pd : BitVec 3) (a b : Src)
    (f32 : Word32 → Word32 → Bool → Word32 × Bool) (f64 : Word64 → Word64 → Bool → Word64 × Bool) :
    Attempt s i u (s.addSub i u ty cin cinp dst pd a b f32 f64) := .ofForm u _ _ _

/-- UND with U = 0 is a frame instruction for every party but a reckoner (R48, R175). -/
theorem exec_und_frame {c : Ctl} (hc : ∀ core, s.cur ≠ some (.reck core)) : Attempt s (.und c false) false (exec (.und c false) s) := by
  change Attempt s (.und c false) false (execUnd c false s)
  unfold execUnd
  split
  next core hr _ => exact absurd hr (hc core)
  next => contradiction
  next => exact .frame _

theorem exec_und_reck {c : Ctl} : Attempt s (.und c true) true (exec (.und c true) s) := by
  change Attempt s (.und c true) true (execUnd c true s)
  unfold execUnd
  split
  next => contradiction
  next => exact .reck _ _
  next => contradiction

/-- Every word is an attempt of the form that its shape gives, but for UND with U = 0 in a reckoner. -/
theorem exec_attempt {p : Shape} (hp : i.shape = some p) (hc : p.u = false → ∀ core, s.cur ≠ some (.reck core)) :
    Attempt s i p.u (exec i s) := by
  cases i with
  | und c u =>
    cases hp
    cases u
    · exact exec_und_frame (hc rfl)
    · exact exec_und_reck
  | movi | imul | imulh | imad | idiv | irem | iabs | fshl | fshr | popc | clz | ctz | brev | bfx | bfi | bpick =>
    cases hp
    dsimp only [exec]
    exact s.int32_attempt ..
  | imin | imax | and | or | xor | not =>
    cases hp
    dsimp only [exec]
    exact .ite (s.int64_attempt ..) (s.int32_attempt ..)
  | shl | shr | sar =>
    cases hp
    dsimp only [exec]
    exact s.shift_attempt ..
  | iadd | isub =>
    cases hp
    dsimp only [exec]
    exact s.addSub_attempt ..
  | lea =>
    cases hp
    dsimp only [exec]
    exact .ite (.ofForm _ _ _ _) (s.int32_attempt ..)
  | mov | imadw | iadd3 | icmp | sel | pset =>
    cases hp
    exact .ofForm _ _ _ _
  | nopU | braU | exitU | trapU | sleepU | mapbind | mapclr | mapmode | mapscl | maprd | copy | publish | cancel | barU | baraU | barwU | fenceU
  | phase | txbegin | txend | txabort | srdU | tfetch | launch | snap | unsnap =>
    cases hp
    dsimp only [exec]
    exact .reck _ _
  | ldl | stl | atoml | ldm | stm | atomm | ldg | stg | ldro | pref | ldh | sth | ldx | stx | atom | atomc | atomn | abset8 | abtst8 | bput | btake
  | bpeek | binit | cvt =>
    cases hp
    dsimp only [exec, execLdl, execStl, execAtoml, execLdm, execStm, execAtomm, execLdg, execStg, execLdro, execPref, execLdh, execSth, execLdx,
      execStx, execAtom, execAtomc, execAtomn, execAbset8, execAbtst8, execBput, execBtake, execBpeek, execBinit, execCvt]
    exact .frame _
  | _ =>
    -- An event has no shape; every other word is a frame instruction.
    cases hp <;> (dsimp only [exec]; exact .frame _)

/-! ### An attempt that faults (R47, R60, R89) -/

theorem State.runF_fault {e : Code} (h : s.issueF i = .fault e) (k : FCtx → Except Code State) : s.runF i k = .next (s.faultHere e 0) := by
  unfold State.runF
  rw [h]

theorem State.runR_fault {e : Code} (h : s.issueR i = .fault e) (off : EntryKind) (k : RCtx → Except Code State) :
    s.runR i off k = .next (s.faultHere e 0) := by
  unfold State.runR
  rw [h]

theorem State.faultHere_frame {core f id : Nat} {w : Wg} {fr : Frame} {sp : Split} (hc : s.cur = some (.frame core f id))
    (hw : s.onCore core = some w) (hfr : w.frame? f = some fr) (hsp : fr.split? id = some sp) (e : Code) (info : Nat) :
    s.faultHere e info = s.raise core f id sp.pc e info := by
  simp [State.faultHere, hc, hw, hfr, hsp]

theorem State.faultHere_reck {core : Nat} {w : Wg} (hc : s.cur = some (.reck core)) (hw : s.onCore core = some w) (e : Code) (info : Nat) :
    s.faultHere e info = s.raise core reckParty 0 w.rpc e info := by
  simp [State.faultHere, hc, hw]

end

/-! ### The frame's checks (R28, R29, R47, R60) -/

/-- A frame whose deferrals are over and that has not yielded does not give way (R28, R29). -/
theorem Frame.givesWay_none {fr : Frame} {now : Nat} (hd : ∀ d ∈ fr.defer, d.clocks ≤ now) (hy : fr.yielded = false)
    (ready rival rivalPrio : Bool) : fr.givesWay now ready rival rivalPrio = none := by
  have hover : fr.defer.filter (fun d => decide (now < d.clocks)) = [] := by
    rw [List.filter_eq_nil_iff]
    intro d hd'
    simpa using hd d hd'
  simp [Frame.givesWay, hover, hy]

/-- The running split of a frame is the party, and neither the debugger, a deferral, a checkpoint nor a replay holds it back before its
instruction is looked at. -/
structure FrameReady (s : State) (core f id : Nat) (w : Wg) (fr : Frame) (sp : Split) : Prop where
  cur : s.cur = some (.frame core f id)
  wg : s.onCore core = some w
  frame : w.frame? f = some fr
  split : fr.split? id = some sp
  run : w.run = .running
  halt : w.halt = false
  storage : w.storage = none
  dbg : sp.dbg = false
  st : sp.st = .run
  parked : fr.isParked id = false
  defer : ∀ d ∈ fr.defer, d.clocks ≤ s.tick
  yielded : fr.yielded = false
  ckpt : s.ckptDue (s.ctxOfWg w) = false
  replay : s.replayStop w = false
  input : s.stillExpects (s.ctxOfWg w) w.missed = false

section

variable {s : State} {i : Instr} {p : Shape} {core f id : Nat} {w : Wg} {fr : Frame} {sp : Split}

/-- The first checks that the instruction of a ready split meets: ILLEGAL, its guard in flight, PRIV. -/
theorem FrameReady.issueF_checks (h : FrameReady s core f id w fr sp) (hp : i.shape = some p) :
    ∃ rest, s.issueF i =
      if !frameLegal s w sp i p then .fault .illegal
      else if w.busy f sp.lanes [] [p.ctl.gp.toNat] [] false then .wait s
      else if i.privileged && decide (guardMask (fr.switchTo id) sp p.ctl ≠ 0) && !(s.grid? w.grid).any Grid.system then .fault .priv
      else rest := by
  have hgoes : w.goes = true := by simp [Wg.goes, h.run, h.halt]
  unfold State.issueF
  simp only [h.cur, hp, h.wg, h.frame, h.split, hgoes, h.dbg, h.parked, h.st, h.storage, Frame.givesWay_none h.defer h.yielded, h.ckpt, h.replay,
    h.input, Bool.not_true, Bool.or_false, Bool.false_eq_true, if_false]
  cases s.grid? w.grid <;> exact ⟨_, rfl⟩

/-- A fault of the attempt is raised at the split's word. -/
theorem FrameReady.exec_fault (h : FrameReady s core f id w fr sp) (hp : i.shape = some p) (hu : p.u = false) {e : Code}
    (hi : s.issueF i = .fault e) : exec i s = .next (s.raise core f id sp.pc e 0) := by
  have hrun : Attempt s i false (exec i s) := hu ▸ exec_attempt hp (fun _ _ => by rw [h.cur]; nofun)
  obtain ⟨k, hk⟩ := hrun.of_frame
  rw [hk, State.runF_fault hi, State.faultHere_frame h.cur h.wg h.frame h.split]

theorem FrameReady.exec_illegal (h : FrameReady s core f id w fr sp) (hp : i.shape = some p) (hu : p.u = false)
    (hl : frameLegal s w sp i p = false) : exec i s = .next (s.raise core f id sp.pc .illegal 0) := by
  obtain ⟨rest, hi⟩ := h.issueF_checks hp
  refine h.exec_fault hp hu (hi.trans ?_)
  simp [hl]

theorem FrameReady.exec_priv (h : FrameReady s core f id w fr sp) (hp : i.shape = some p) (hu : p.u = false)
    (hl : frameLegal s w sp i p = true) (hpriv : i.privileged = true) (hact : guardMask (fr.switchTo id) sp p.ctl ≠ 0#32)
    (hbusy : w.busy f sp.lanes [] [p.ctl.gp.toNat] [] false = false) (hsys : ∀ g, s.grid? w.grid = some g → g.system = false) :
    exec i s = .next (s.raise core f id sp.pc .priv 0) := by
  obtain ⟨rest, hi⟩ := h.issueF_checks hp
  have hplain : (s.grid? w.grid).any Grid.system = false := by
    cases hg : s.grid? w.grid with
    | none => rfl
    | some g => exact hsys g hg
  refine h.exec_fault hp hu (hi.trans ?_)
  simp [hl, hbusy, hpriv, hact, hplain]

end

/-! ### The reckoner's checks (R47, R194 to R200) -/

/-- A running reckoner is the party, and neither the debugger, a checkpoint nor a replay holds it back before its instruction is looked at. -/
structure ReckReady (s : State) (core : Nat) (w : Wg) : Prop where
  cur : s.cur = some (.reck core)
  wg : s.onCore core = some w
  run : w.run = .running
  halt : w.halt = false
  storage : w.storage = none
  rdbg : w.rdbg = false
  rst : w.rst = .run
  lanes : w.allDead = false
  attached : s.attached w = false
  ckpt : s.ckptDue (s.ctxOfWg w) = false
  replay : s.replayStop w = false
  input : s.stillExpects (s.ctxOfWg w) w.missed = false

section

variable {s : State} {i : Instr} {p : Shape} {core : Nat} {w : Wg}

theorem ReckReady.issueR_illegal (h : ReckReady s core w) (hp : i.shape = some p) (hl : reckLegal s w i p = false) :
    s.issueR i = .fault .illegal := by
  have hgoes : w.goes = true := by simp [Wg.goes, h.run, h.halt]
  unfold State.issueR
  simp only [h.cur, hp, h.wg, hgoes, h.rdbg, h.rst, h.storage, h.lanes, h.attached, h.ckpt, h.replay, h.input, hl]
  cases w.breakAt w.rpc <;> rfl

theorem ReckReady.exec_illegal (h : ReckReady s core w) (hp : i.shape = some p) (hu : p.u = true) (hl : reckLegal s w i p = false) :
    exec i s = .next (s.raise core reckParty 0 w.rpc .illegal 0) := by
  have hrun : Attempt s i true (exec i s) := hu ▸ exec_attempt hp (fun hf => by simp [hu] at hf)
  obtain ⟨off, k, hk⟩ := hrun.of_reck
  rw [hk, State.runR_fault (h.issueR_illegal hp hl), State.faultHere_reck h.cur h.wg]

end

/-! ### UND (R47, R48, R175) -/

theorem frameLegal_und (s : State) (w : Wg) (sp : Split) (c : Ctl) (u : Bool) (p : Shape) : frameLegal s w sp (.und c u) p = false := rfl

theorem reckLegal_und (s : State) (w : Wg) (c : Ctl) (u : Bool) (p : Shape) : reckLegal s w (.und c u) p = false := rfl

theorem OnlyCore.setCore (s : State) (core : Nat) (w : Wg) : OnlyCore s core w (s.setCore core w) :=
  ⟨rfl, s.onCore_setCore_same core w, fun c hc => s.onCore_setCore_other core c w hc⟩

/-- The quiet stop of a reckoner (R48). -/
theorem exec_und_quietStop {s : State} {core : Nat} {w : Wg} (hc : s.cur = some (.reck core)) (hw : s.onCore core = some w) (c : Ctl) :
    exec (.und c false) s = .next (s.setCore core { w with rst := .stopped }) := by
  change execUnd c false s = _
  simp [execUnd, hc, State.quietStop, State.setReck, hw]

/-- Settles O10: every word runs as its shape says, legality is the first check that its attempt meets, PRIV the next, and UND is never legal. -/
theorem illegalAndUnd : Obligations.IllegalAndUnd := by
  unfold Obligations.IllegalAndUnd
  refine ⟨⟨?_, ?_⟩, ?_, ?_, ?_⟩
  · intro s i p core f id w fr sp hc hp hu hw hfr hsp hr hh hst hdb hs hpk hd hy hck hre hin
    have h : FrameReady s core f id w fr sp := ⟨hc, hw, hfr, hsp, hr, hh, hst, hdb, hs, hpk, hd, hy, hck, hre, hin⟩
    exact ⟨h.exec_illegal hp hu, h.exec_priv hp hu⟩
  · intro s i p core w hc hp hu hw hr hh hst hdb hs hlv hat hck hre hin
    exact ReckReady.exec_illegal ⟨hc, hw, hr, hh, hst, hdb, hs, hlv, hat, hck, hre, hin⟩ hp hu
  · intro s c core f id w fr sp hc hw hfr hsp hr hh hst hdb hs hpk hd hy hck hre hin
    have h : FrameReady s core f id w fr sp := ⟨hc, hw, hfr, hsp, hr, hh, hst, hdb, hs, hpk, hd, hy, hck, hre, hin⟩
    exact h.exec_illegal rfl rfl (frameLegal_und ..)
  · intro s c core w hc hw hr hh hst hdb hs hlv hat hck hre hin
    exact ReckReady.exec_illegal ⟨hc, hw, hr, hh, hst, hdb, hs, hlv, hat, hck, hre, hin⟩ rfl rfl (reckLegal_und ..)
  · intro s c core w hc hw
    exact ⟨_, exec_und_quietStop hc hw c, OnlyCore.setCore ..⟩

end Sys2Proof.Machine
end
